-- ==== Sys2Proof/Word.lean ====
section
/-! DEFINITION. The plain number types of the model and the generic keyed table in which unit state is held. -/

namespace Sys2Proof

/-- One byte of a message, a configuration section, a record or a memory. -/
abbrev U8 := BitVec 8
/-- A 16-bit field. -/
abbrev U16 := BitVec 16
/-- A 32-bit field, wrapping at 2^32 as the counters of R47 do. -/
abbrev U32 := BitVec 32
/-- A 64-bit field of a message. -/
abbrev U64 := BitVec 64
/-- A byte string, first byte first. -/
abbrev Bytes := List (BitVec 8)

/-- Reference cycles per stroke (R9). -/
abbrev strokeLen : Nat := 9600

/-- A table of entries by number, in strictly rising order of number. An absent entry holds a default that
the reader of the table names. -/
abbrev Tab (α : Type) := List (Nat × α)

end Sys2Proof
end

