-- ==== Sys2Proof/Syntax.lean ====
section
/-! DEFINITION. The commands the block takes: one constructor of `Instr` per row of spec/opcode_table.json.
A host command carries the message header it arrived with and its payload fields, reserved ones included, so that
every check of form, range and state of R33 is the command's own. A device event carries what reaches it from
outside the block (a measured level, a decided symbol, an edge count); everything else it computes from State. A scull instruction carries the
fields of its word (R362 to R388) and the scull that issues it. -/

namespace Sys2Proof

/-- Where a command came from: the SPI mailbox, or a UDP source address and port (R43). -/
inductive Src where
  | spi
  | udp (ip : U32) (port : U16)
  deriving DecidableEq, Repr

/-- The header of an inbound command (R37), its payload length and the CRC-32 it carried. -/
structure Hdr where
  src     : Src
  tag     : U16
  version : U8
  rsv     : U8
  flags   : U16
  status  : U16
  /-- payload length in bytes -/
  len     : Nat
  crc     : U32
  deriving DecidableEq, Repr

/-- Why an inbound message is discarded (R39). -/
inductive Discard where
  | badMagic | badCrc | oversize | badKind
  deriving DecidableEq, Repr

/-- A transmit band. -/
inductive Band where
  | h | l
  deriving DecidableEq, Repr

/-- The TX_SUBMIT payload (R48). -/
structure TxReq where
  (band timing profile reserved : U8)
  start     : U64
  latest    : U32
  frequency : U32
  power     : U16
  length    : U16
  frame     : Bytes
  deriving DecidableEq, Repr

/-- What an inbound Ethernet frame shows the receive path (R55, R56). -/
structure Datagram where
  srcIp      : U32
  srcPort    : U16
  dstPort    : U16
  fcsOk      : Bool
  fragmented : Bool
  /-- the UDP payload -/
  payload    : Bytes
  deriving DecidableEq, Repr

/-- A PTP event frame as the MAC saw it (R280, R282). -/
structure PtpFrame where
  ethertype   : U16
  udpPort     : U16
  isUdp       : Bool
  messageType : U8
  sequenceId  : U16
  /-- DTIME of the start-of-frame delimiter -/
  sfd         : Nat
  message     : Bytes
  deriving DecidableEq, Repr

/-- One sample of a bin on both branches of a pair: 16-bit I and Q of branch A and of branch B (R143, R144). -/
structure BinSample where
  (ai aq bi bq : U16)
  deriving DecidableEq, Repr

/-- Samples that a coarse bank delivers for one bin of a pair, the next in order first (R143, R144). -/
structure BinIn where
  pair    : Fin 2
  bin     : Fin 64
  samples : List BinSample
  deriving DecidableEq, Repr

/-- One period of a group clock: the levels of the group's four pins at the rising edge and at the falling edge that follows, pin k in
bit k (R289, R290). -/
structure SckEdge where
  rise : BitVec 4
  fall : BitVec 4
  /-- external clock: DTIME of the rising edge, less the synchroniser delay (R292) -/
  at_  : Nat
  deriving DecidableEq, Repr

/-- What the pins of a stream group carried over a stroke (R290 to R295). -/
structure StreamIn where
  group   : Fin 4
  /-- the periods of the clock whose rising edge lies in the stroke, oldest first; of an internal clock, those while it runs, where a
  missing one is low on every pin -/
  edges   : List SckEdge
  /-- external clock: DTIME of the first rising edge at or after the catch -/
  next    : Nat
  deriving DecidableEq, Repr

/-- A complex sample of a chain B path: the programme moved to 0 Hz and filtered to its channel, 1,200 in a stroke (R92; log 163). -/
structure IqSample where
  (i q : U16)
  deriving DecidableEq, Repr

/-- A work order that the Cox issues at a catch for the stroke just posted and that is not a context's: the scull it is meant for, its
class, its forecast, and the unit it works for: 0 to 27 a circuit, 28 the VHF path, 29 the LF and MF path, 30 any other (R25, R27). -/
structure WorkIn where
  scull  : Fin 64
  cls    : Nat
  cycles : Nat
  unit   : Nat
  deriving DecidableEq, Repr

/-- What reaches the device at a catch from outside the rules: detector peaks, oscillator edges, load of work that
is not a context's, sampled data and temperature. -/
structure CatchIn where
  /-- highest peak of the stroke per gain path, in 1/16 dBFS -/
  peaks     : List (Nat × Int)
  /-- edges of the 32.768 kHz oscillator since the previous catch -/
  aonEdges  : Nat
  /-- work that is not a context's -/
  extraLoad : List WorkIn
  /-- the bin samples of the stroke that have not come with a PREAMBLE_HIT; a missing sample is zero -/
  bins      : List BinIn
  streams   : List StreamIn
  /-- die temperature in 1/16 degree C -/
  dieTemp   : Int
  /-- audio oscillator cycles counted over the stroke (R140) -/
  oscCount  : Nat
  /-- DTIMEs of the rising TDM_FS edges that a slave port accepted in the stroke, oldest first (R305, R313) -/
  fsEdges   : List Nat
  /-- samples of the VHF path and of the LF and MF path over the stroke; a missing sample is zero -/
  vhf       : List IqSample
  lfmf      : List IqSample
  deriving DecidableEq, Repr

/-- An RDS group as it is keyed on the 57 kHz subcarrier (R271, R272). -/
structure RdsIn where
  /-- signs of 105 biphase symbols: the one before the group, and the 104 of its four blocks -/
  keyed : List Bool
  /-- DTIME of the first bit of block 1 -/
  at_   : Nat
  /-- RSSI in 1/16 dBm -/
  rssi  : Int
  deriving DecidableEq, Repr

/-- What the LF receiver took of a frame of a data profile slot (R278, R279). -/
structure LfIn where
  slot   : Fin 2
  /-- TYPE 1: carrier phase of each bit against the tracked carrier, true for +DEV: the bit before the sync word, the sync word, the frame -/
  phases : List Bool
  /-- TYPE 2: length in ms of the reduction by DEPTH or more that begins each second of the frame, 0 for none, the minute mark first -/
  lens   : List Nat
  /-- DTIME of the last sync bit, or of the minute mark -/
  at_    : Nat
  /-- DTIME of the second marker that follows the minute mark -/
  marker : Nat
  /-- RSSI in 1/16 dBm -/
  rssi   : Int
  deriving DecidableEq, Repr

/-- A register that REGISTER_WRITE may name: an SPI mailbox register, a DMA register, a scull register by its code,
or the BUMP field of a unit's state word (R50, R400, R366, R81). -/
inductive RegRef where
  | spi (addr : U16)
  | dma (c : Fin 64) (off : U8)
  | scull (c : Fin 64) (code : BitVec 7)
  | bump (kind : Nat) (index : Nat)
  deriving DecidableEq, Repr

/-- The count operand of RPT and LOOP (R370). -/
inductive Count where
  | imm (n : U16)
  | reg (d : BitVec 3)
  deriving DecidableEq, Repr

/-- A branch target (R372). -/
inductive Target where
  | rel (ofs : BitVec 22)
  | reg (code : BitVec 7)
  deriving DecidableEq, Repr

/-- Unit 2 of a MAC instruction (R374). -/
structure Mac2 where
  op2  : BitVec 2
  acc2 : BitVec 2
  r3   : BitVec 3
  s4   : Bool
  r4   : BitVec 3
  deriving DecidableEq, Repr

/-- The operand fields of a MAC instruction (R374). `rsv` says that a reserved or must-be-zero field of the word is not zero. -/
structure MacF where
  acc1 : BitVec 2
  s1   : Bool
  r1   : BitVec 3
  s2   : BitVec 2
  r2   : BitVec 3
  pm1  : Bool
  pm2  : Bool
  dual : Option Mac2
  rsv  : Bool
  deriving DecidableEq, Repr

/-- The second operand of an ALU instruction (R376). -/
inductive Opnd where
  | reg (dt : BitVec 3)
  | imm (v : U16)
  deriving DecidableEq, Repr

/-- The fields of an ALU instruction (R376). -/
structure AluF where
  dd  : BitVec 3
  ds  : BitVec 3
  op  : Opnd
  rsv : Bool
  deriving DecidableEq, Repr

/-- The fields of an accumulator instruction (R378). -/
structure AccF where
  an  : BitVec 2
  am  : BitVec 2
  dx  : BitVec 3
  k   : BitVec 6
  rsv : Bool
  deriving DecidableEq, Repr

/-- The fields of a load or a store (R380). -/
structure MemF where
  w   : BitVec 2
  sx  : Bool
  ptr : BitVec 3
  am  : BitVec 2
  reg : BitVec 7
  imm : BitVec 13
  rsv : Bool
  deriving DecidableEq, Repr

/-- The fields of an accumulator store (R382). -/
structure SaccF where
  acc : BitVec 2
  w32 : Bool
  sh  : BitVec 5
  toD : Bool
  ptr : BitVec 3
  am  : BitVec 2
  imm : BitVec 13
  rsv : Bool
  deriving DecidableEq, Repr

/-- The fields of a pointer-class instruction (R384). -/
structure PtrF where
  kind : BitVec 2
  n    : BitVec 3
  imm  : U16
  rsv  : Bool
  deriving DecidableEq, Repr

/-- The fields of a conditional instruction (R379); `dst` and `src` index D registers or accumulators. -/
structure CondF where
  cond : BitVec 4
  dst  : BitVec 3
  src  : BitVec 3
  rsv  : Bool
  deriving DecidableEq, Repr

/-- The commands of the block: one constructor per row of the table. -/
inductive Instr where
  -- host commands (R46)
  | ping (h : Hdr) (data : Bytes)
  | getInfo (h : Hdr)
  | getStatus (h : Hdr) (flags : U32)
  | cfgWrite (h : Hdr) (section_ target : U8) (offset length reserved : U16) (data : Bytes)
  | cfgRead (h : Hdr) (section_ set : U8) (offset length : U16)
  | castle (h : Hdr) (target : U64)
  | cfgCheck (h : Hdr) (set : U8)
  | chainState (h : Hdr) (chain state : U8)
  | txSubmit (h : Hdr) (r : TxReq)
  | txCancel (h : Hdr) (tag : U16)
  | ruleCardBurn (h : Hdr) (image : Bytes)
  | dirAdd (h : Hdr) (mfr : U16) (ident : U32) (version type : U8) (interval flags : U16) (wkey : Bytes)
  | dirUpdate (h : Hdr) (index : U32) (mask interval flags : U16)
  | dirRebuild (h : Hdr) (mask interval flags : U16)
  | dirRemove (h : Hdr) (index : U32)
  | dirQuery (h : Hdr) (first : U32) (count : U16)
  | keyLoad (h : Hdr) (index : U32) (wkey : Bytes)
  | creditGrant (h : Hdr) (grant ack flags : U32)
  | bcTune (h : Hdr) (path profile : U8) (reserved : U16) (freq : U32)
  | bcAf (h : Hdr) (mode k : U8) (pi : U16) (codes : Bytes)
  | streamStart (h : Hdr) (group : U8) (reserved : BitVec 24)
  | streamStop (h : Hdr) (group : U8) (reserved : BitVec 24)
  | tdmStart (h : Hdr)
  | tdmStop (h : Hdr)
  | trimRun (h : Hdr) (scope mask : U8) (reserved : U16)
  | riggingReportRead (h : Hdr) (kind : U8)
  | riggingReportSurvey (h : Hdr) (kind : U8)
  | powerPolicy (h : Hdr) (policy deepest : U8)
  | wakeAt (h : Hdr) (dtime : U64) (cookie : U32)
  | crewLoadChunk (h : Hdr) (crew step : U8) (chunk : U16) (pkgLen : U32) (data : Bytes)
  | crewLoadCommit (h : Hdr) (crew : U8) (chunk : U16) (pkgLen : U32)
  | crewStart (h : Hdr) (crew : U8) (reserved : BitVec 24)
  | crewStop (h : Hdr) (crew : U8) (reserved : BitVec 24)
  | timeSet (h : Hdr) (utc dtime : U64) (uncertainty : U32)
  | timeSource (h : Hdr) (s0 s1 s2 s3 : U8)
  | opProgress (h : Hdr) (tag code : U16)
  | fwUpdateChunk (h : Hdr) (reserved step : U8) (chunk : U16) (pkgLen : U32) (data : Bytes)
  | fwUpdateCommit (h : Hdr) (reserved : U8) (chunk : U16) (pkgLen : U32)
  | fieldChallenge (h : Hdr) (scope reserved : U8) (duration : U16)
  | fieldResponse (h : Hdr) (sig : Bytes)
  | diagPeek (h : Hdr) (addr : U32) (length : U16)
  | diagPoke (h : Hdr) (addr : U32) (length reserved : U16) (data : Bytes)
  -- mailbox, links and timeouts
  | messageDiscarded (src : Src) (why : Discard)
  | commandTimeout (tag : U16)
  | longOpTimeout (tag : U16)
  | internalOpFlagFall (code : U16)
  | mbxInWrite (data : Bytes) (partial_ : Fin 8) (endsTxn : Bool)
  | mbxOutRead (n : Nat)
  | spiIrqClear (v : U16)
  | spiUnknownCommand (cmd : U8) (data : Bytes)
  | registerWrite (r : RegRef) (v : U32)
  | spiMessageFlagFall
  | spiCsFall (ns : Nat)
  | udpDatagram (d : Datagram)
  | arpIcmpReply (icmp : Bool) (ip : U32) (request : Bytes)
  | ptpEventFrame (f : PtpFrame)
  | outboundPlace (udp : Bool)
  | batchClose
  | resendTimeout
  | uartRxByte (samples : List Bool)
  | phyLinkPoll (driven : Bool) (reg1 : U16)
  | ethRefclkFlagFall
  | ethRefclkReturn
  -- catches, contexts and reception
  | strokeCatch (i : CatchIn)
  | contextOverrunAbort (ctx : Fin 1024)
  | crewMissedStroke (crew : Fin 8)
  | workSkipped (broadcast : Bool) (unit : Fin 28)
  | preambleHit (lane : Fin 512) (samples : List BinSample)
  | laneSettlingEnd (lane : Fin 512)
  | agcFastAttack (path : Fin 6)
  | workOrderComplete (scull : Fin 64)
  | gambitRelease (ctx : Fin 1024)
  | streamOffer (ctx : Fin 1024)
  | streamCreditFlagFall (ctx : Fin 1024)
  | verdict (ctx : Fin 1024)
  | waitingExpiry (ctx : Fin 1024)
  | sweepTailLimit (ctx : Fin 1024)
  | spillCopyDone (ctx : Fin 1024)
  | directoryProcessing
  | holdEnd
  | windowJudgement (index : Nat)
  | dirQuarantineEnd (index : Nat)
  | dirRebuildDone
  -- castling, chains and synthesisers
  | castleChecksDone
  | castleCheckFlagFall
  | castling
  | shadowCopyDone
  | shadowCopyFlagFall
  | chainTransitionDone (chain : Fin 5) (selfCheckOk : Bool)
  | lossOfLock (syn : Fin 6)
  | relockAttemptEnd (syn : Fin 6) (locked : Bool) (band : BitVec 6) (margin : Nat)
  | aonOscFlagFall
  -- transmission
  | txTransitionStart (band : Band)
  | txRampUp (band : Band)
  | txFirstSymbol (band : Band)
  | txRampDownComplete (band : Band)
  | txExpired (band : Band)
  | blankingEnd (band : Band)
  | returnLossReading (band : Band) (tenths : Nat)
  -- broadcast and time
  | bcTuneComplete (lf : Bool) (rssi : Int)
  | rdsGroup (g : RdsIn)
  | afCheck (rssi : Int)
  | afPiTimeout
  | lfFrame (f : LfIn)
  | timeSourceExpiry (source : Fin 6)
  | ppsPulse (at_ ns : Nat)
  | ppsFlagFall
  | ppsOutEdge
  -- streams and TDM
  | streamStall (g : Fin 4)
  | streamStallEnd (g : Fin 4)
  | streamRateFault (g : Fin 4)
  | streamSampleDrop (g : Fin 4) (ofs : Nat)
  | dmaStarved (channel : Fin 70)
  | slotSlip
  | tdmUnderrun
  | tdmOverflow
  | tdmRestartEnd
  | tdmStopEnd
  | tdmSlaveStall
  | tdmSlaveStallEnd
  | tdmFrameError (missing : Bool) (displaced : Nat)
  | tdmRateFault
  -- energy and leak
  | energyWindowRecord (circuit : Fin 28)
  | pulseEnd (circuit : Fin 28)
  | leakRunStart
  | leakCaptureDone
  | leakPairDone
  -- trim and rigging
  | trimItemEnd (value : Int) (plausible : Bool) (codes : List Int)
  | trimRunDone
  | trimPauseFlagFall
  | riggingSurveyStart
  | riggingSurveyEnd (ring : List Int) (vbase : Nat) (headroom : List Int) (coreMv : Nat)
  -- power
  | wakeTimer
  | gpioWake (pin : Fin 16) (held : Nat)
  | mainsGpioEdge (rising : Bool) (held : Nat)
  | ashoreExit (aon : Nat)
  | i2cFlagFall (addr : BitVec 7)
  | vigilListenStart (lBand : Bool)
  | vigilListenEnd (lBand : Bool)
  | vigilScan
  -- resets and boot
  | reset
  | resetNLow (ns : Nat)
  | refLossReset
  | powerOnReset (tcxo : Bool)
  | coreSupplyReset
  | vddRfFault
  | overTempReset
  | bootReady
  | bootStepFlagFall (step : Fin 8)
  | fwCommitDone
  | fwUpdateReset
  | fwTrialConfirm
  | crewCommitDone (crew : Fin 8)
  | crewFlagFall (crew : Fin 8)
  | scullFlagFall (c : Fin 64)
  | fieldChallengeExpiry
  | fieldScopeClose (scope : Fin 4)
  | testPortInstruction (code : BitVec 5)
  -- scull interface events
  | stkDoneWrite (c : Fin 64) (v : U32)
  | stkStatRead (c : Fin 64)
  | stkLoRead (c : Fin 64)
  | dmaGo (c : Fin 64) (v : U32)
  | dmaStatRead (c : Fin 64)
  | dmaDone (c : Fin 64)
  | interruptEntry (c : Fin 64)
  | idleResume (c : Fin 64) (waited : Nat)
  -- scull instructions
  | nop (c : Fin 64) (rsv : Bool)
  | halt (c : Fin 64) (rsv : Bool)
  | idle (c : Fin 64) (rsv : Bool)
  | reti (c : Fin 64) (rsv : Bool)
  | rpt (c : Fin 64) (n : Count) (rsv : Bool)
  | loop (c : Fin 64) (n : Count) (km1 : BitVec 3) (rsv : Bool)
  | ei (c : Fin 64) (rsv : Bool)
  | di (c : Fin 64) (rsv : Bool)
  | b (c : Fin 64) (cond : BitVec 4) (ofs : BitVec 22)
  | call (c : Fin 64) (cond : BitVec 4) (t : Target) (rsv : Bool)
  | br (c : Fin 64) (cond : BitVec 4) (code : BitVec 7) (rsv : Bool)
  | ret (c : Fin 64)
  | mpy (c : Fin 64) (f : MacF)
  | mac (c : Fin 64) (f : MacF)
  | msu (c : Fin 64) (f : MacF)
  | add (c : Fin 64) (f : AluF)
  | sub (c : Fin 64) (f : AluF)
  | adc (c : Fin 64) (f : AluF)
  | sbc (c : Fin 64) (f : AluF)
  | and (c : Fin 64) (f : AluF)
  | or (c : Fin 64) (f : AluF)
  | xor (c : Fin 64) (f : AluF)
  | not (c : Fin 64) (f : AluF)
  | mov (c : Fin 64) (f : AluF)
  | neg (c : Fin 64) (f : AluF)
  | shl (c : Fin 64) (f : AluF)
  | shr (c : Fin 64) (f : AluF)
  | asr (c : Fin 64) (f : AluF)
  | cmp (c : Fin 64) (f : AluF)
  | tst (c : Fin 64) (f : AluF)
  | adda (c : Fin 64) (f : AccF)
  | suba (c : Fin 64) (f : AccF)
  | nega (c : Fin 64) (f : AccF)
  | clra (c : Fin 64) (f : AccF)
  | mova (c : Fin 64) (f : AccF)
  | lda (c : Fin 64) (f : AccF)
  | addd (c : Fin 64) (f : AccF)
  | subd (c : Fin 64) (f : AccF)
  | asla (c : Fin 64) (f : AccF)
  | asra (c : Fin 64) (f : AccF)
  | qmrg (c : Fin 64) (f : AccF)
  | cmpa (c : Fin 64) (f : AccF)
  | ld (c : Fin 64) (f : MemF)
  | st (c : Fin 64) (f : MemF)
  | sacc (c : Fin 64) (f : SaccF)
  | movr (c : Fin 64) (rd rs : BitVec 7) (rsv : Bool)
  | setl (c : Fin 64) (f : PtrF)
  | seth (c : Fin 64) (f : PtrF)
  | addi (c : Fin 64) (f : PtrF)
  | modp (c : Fin 64) (f : PtrF)
  | dstp (c : Fin 64) (first : Bool) (an : BitVec 2) (ds : BitVec 3) (rsv : Bool)
  | dend (c : Fin 64) (an : BitVec 2) (ds dd : BitVec 3) (rsv : Bool)
  | cmov (c : Fin 64) (f : CondF)
  | cadd (c : Fin 64) (f : CondF)
  | csub (c : Fin 64) (f : CondF)
  | cmova (c : Fin 64) (f : CondF)
  | cadda (c : Fin 64) (f : CondF)
  | csuba (c : Fin 64) (f : CondF)
  -- patrol, returns and completions
  | patrolSweepStart
  | patrolWindowDone (engine : Fin 9) (badWord : Option Nat) (readBackBad : Bool)
  | patrolWriteBackDone (engine : Fin 9)
  | aonOscReturn
  | vddRfReturn
  | synDLostReset
  | synthLockConfirmed (syn : Fin 6) (band : BitVec 6) (margin : Nat)
  | powerStateEntryDone (edges at_ : Nat)
  | wakeExitDone
  | vddSettleExpiry (readMv : Nat) (statusBits : U8)
  | streamStartTimeout (g : Fin 4)
  | tdmStartTimeout
  | tdmStartFrameSync (lens : List Nat) (span : Nat)
  | rdsSyncFound (keyed : List Bool)
  | rdsSyncLost
  | lfSecondMarker (at_ : Nat)
  | pulseLowEnd (circuit : Fin 28)
  deriving DecidableEq, Repr

end Sys2Proof
end

