-- ==== Sys2Proof/Decode.lean ====
section
/-! DEFINITION. The command that a word spells by the bits of the table: its rows give no bits. -/

namespace Sys2Proof

/-- No row of the table gives bits, so no word spells a command. The encodings that the spec does give, of messages (R37) and of
the array's instruction words (R362), are read where the device reads them. -/
def decodeTableWord (_nbits _w : Nat) : Option Instr := none

end Sys2Proof
end

