-- ==== Sys2Proof/Machine/Bits.lean ====
section
/-! DEFINITION. Byte order, CRCs, keyed tables and the canonical byte store: the operations that every part of the model shares. -/

namespace Sys2Proof.Machine

/-! ### Little-endian fields (R12) -/

/-- `w` as `n` bytes, least significant byte first (R12). -/
def le : (n w : Nat) → Bytes
  | 0, _ => []
  | n + 1, w => BitVec.ofNat 8 w :: le n (w / 256)

/-- The number that bytes spell, least significant byte first (R12). -/
def ofLe : Bytes → Nat
  | [] => 0
  | b :: bs => b.toNat + 256 * ofLe bs

/-- Two's complement of `i` as an `8 n`-bit number (R12). -/
def twos (n : Nat) (i : Int) : Nat := (i % ((2 ^ (8 * n) : Nat) : Int)).toNat

/-- A signed field of `n` bytes (R12). -/
def leI (n : Nat) (i : Int) : Bytes := le n (twos n i)

/-- A number in `n` bytes, most significant first. -/
def be (n w : Nat) : Bytes := (le n w).reverse

/-- A `bits`-bit number read as two's complement (R12). -/
def signed (bits w : Nat) : Int := if 2 ^ (bits - 1) ≤ w then (w : Int) - ((2 ^ bits : Nat) : Int) else w

/-- Bytes `ofs` to `ofs + n - 1`, zeros beyond the end. -/
def slice (ofs n : Nat) (b : Bytes) : Bytes :=
  let x := (b.drop ofs).take n
  x ++ List.replicate (n - x.length) 0

/-- The unsigned field of `n` bytes at `ofs`. -/
def fieldAt (ofs n : Nat) (b : Bytes) : Nat := ofLe (slice ofs n b)

/-- Bits `lo` to `lo + n - 1` of `w`. -/
def bitsOf (w lo n : Nat) : Nat := w / 2 ^ lo % 2 ^ n

/-- Bit `i` of `w`. -/
def bitOf (w i : Nat) : Bool := w / 2 ^ i % 2 == 1

/-- A flag as a number. -/
def b2n (b : Bool) : Nat := if b then 1 else 0

/-- The number whose bits are given, bit 0 first. -/
def packBits : List Bool → Nat
  | [] => 0
  | b :: bs => b2n b + 2 * packBits bs

/-- `u8` at most: saturating count. -/
def satTo (limit n : Nat) : Nat := if limit < n then limit else n

/-- A byte string zero-padded to a multiple of four (R60). -/
def pad4 (b : Bytes) : Bytes := b ++ List.replicate ((4 - b.length % 4) % 4) 0

/-- Round half away from zero is not used; this is floor division of integers. -/
def floorDiv (a b : Int) : Int := Int.fdiv a b

/-- Ceiling division of numbers. -/
def ceilDiv (a b : Nat) : Nat := (a + b - 1) / b

/-- A number as a decimal rounding of `a / b` to the nearest, halves up. -/
def roundDiv (a b : Nat) : Nat := (2 * a + b) / (2 * b)

/-! ### Cyclic redundancy checks -/

/-- One bit of the reflected CRC-32 of R37: polynomial 0x04C11DB7, reflected 0xEDB88320. -/
def crc32Bit (c : U32) : U32 := if c.getLsbD 0 then (c >>> 1) ^^^ 0xEDB88320#32 else c >>> 1

/-- Eight bits of the CRC-32. -/
def crc32Byte (c : U32) (b : U8) : U32 :=
  crc32Bit (crc32Bit (crc32Bit (crc32Bit (crc32Bit (crc32Bit (crc32Bit (crc32Bit (c ^^^ b.zeroExtend 32))))))))

/-- The CRC-32 of R37: initial value and final XOR 0xFFFFFFFF. -/
def crc32 (m : Bytes) : U32 := m.foldl crc32Byte 0xFFFFFFFF#32 ^^^ 0xFFFFFFFF#32

/-! ### Keyed tables -/

/-- The entry of a table, or the default (`Tab`). -/
def getT {α : Type} (d : α) : Tab α → Nat → α
  | [], _ => d
  | (k, v) :: t, i => if k == i then v else getT d t i

/-- The entry of a table, if it has one. -/
def findT {α : Type} : Tab α → Nat → Option α
  | [], _ => none
  | (k, v) :: t, i => if k == i then some v else findT t i

/-- A table with entry `i` set to `v`, its numbers in rising order. -/
def putT {α : Type} : Tab α → Nat → α → Tab α
  | [], i, v => [(i, v)]
  | (k, w) :: t, i, v => if i < k then (i, v) :: (k, w) :: t else if k == i then (i, v) :: t else (k, w) :: putT t i v

/-- A table without entry `i`. -/
def delT {α : Type} : Tab α → Nat → Tab α
  | [], _ => []
  | (k, w) :: t, i => if k == i then t else (k, w) :: delT t i

/-! ### The byte store in canonical form -/

/-- The byte at `a`, where an unlisted address reads as `d a`. -/
def readCell (d : Nat → U8) : List Host.Cell → Nat → U8
  | [], a => d a
  | (k, v) :: t, a => if k == a then v else readCell d t a

/-- A byte put into the list of cells, removed when it equals what the unlisted address reads as. -/
def writeCell (d : Nat → U8) : List Host.Cell → Nat → U8 → List Host.Cell
  | [], a, b => if b == d a then [] else [(a, b)]
  | (k, v) :: t, a, b =>
    if a < k then (if b == d a then (k, v) :: t else (a, b) :: (k, v) :: t)
    else if k == a then (if b == d a then t else (a, b) :: t)
    else (k, v) :: writeCell d t a b

/-- Addresses strictly rising above `lo`, and no cell equal to its default. -/
def cellsFrom (d : Nat → U8) : Nat → List Host.Cell → Bool
  | _, [] => true
  | lo, (k, v) :: t => decide (lo ≤ k) && v != d k && cellsFrom d (k + 1) t

/-- The canonical form of a byte store. -/
def cellsWf (d : Nat → U8) (m : List Host.Cell) : Bool := cellsFrom d 0 m

/-- Bytes written one after another from address `a`. -/
def writeCells (d : Nat → U8) : List Host.Cell → Nat → Bytes → List Host.Cell
  | m, _, [] => m
  | m, a, b :: bs => writeCells d (writeCell d m a b) (a + 1) bs

/-- `n` bytes read from address `a` on. -/
def readCells (d : Nat → U8) (m : List Host.Cell) : (a n : Nat) → Bytes
  | _, 0 => []
  | a, n + 1 => readCell d m a :: readCells d m (a + 1) n

end Sys2Proof.Machine
end

