-- ==== Sys2Proof/Machine/Crypto.lean ====
section
/-! DEFINITION. The published algorithms that R5 names: AES-128 and AES-256, RFC 3394 key unwrap, SHA-256 and ECDSA verification on P-256
(log 23). -/

namespace Sys2Proof.Machine

/-! ### The field of AES -/

/-- Multiplication by x in the field of AES. -/
def xtime (b : U8) : U8 := if b.getLsbD 7 then (b <<< 1) ^^^ 0x1B#8 else b <<< 1

/-- Product in the field of AES over the low `k` bits of `b`. -/
def gmulN : (k : Nat) → (a b : U8) → U8
  | 0, _, _ => 0
  | k + 1, a, b => (if b.getLsbD 0 then a else 0) ^^^ gmulN k (xtime a) (b >>> 1)

/-- Product in the field of AES. -/
def gmul (a b : U8) : U8 := gmulN 8 a b

/-- `a` to the power 254: the inverse, 0 for 0. -/
def ginv (a : U8) : U8 :=
  let a2 := gmul a a
  let a4 := gmul a2 a2
  let a8 := gmul a4 a4
  let a16 := gmul a8 a8
  let a32 := gmul a16 a16
  let a64 := gmul a32 a32
  let a128 := gmul a64 a64
  gmul a128 (gmul a64 (gmul a32 (gmul a16 (gmul a8 (gmul a4 a2)))))

/-- The substitution of AES. -/
def subByte (a : U8) : U8 :=
  let x := ginv a
  x ^^^ x.rotateLeft 1 ^^^ x.rotateLeft 2 ^^^ x.rotateLeft 3 ^^^ x.rotateLeft 4 ^^^ 0x63#8

/-- The inverse substitution. -/
def invSubByte (a : U8) : U8 := ginv (a.rotateLeft 1 ^^^ a.rotateLeft 3 ^^^ a.rotateLeft 6 ^^^ 0x05#8)

/-- Byte-wise exclusive or. -/
def xorB (a b : Bytes) : Bytes := List.zipWith (· ^^^ ·) a b

/-- Round constant `i`, from 1. -/
def rcon : Nat → U8
  | 0 => 0
  | 1 => 1
  | n + 1 => xtime (rcon n)

/-- The key schedule as 4-byte words, newest first, for a key of `nk` words. -/
def expandKey (nk : Nat) : (todo i : Nat) → List Bytes → List Bytes
  | 0, _, w => w
  | t + 1, i, w =>
    let prev := w.headD []
    let back := w.getD (nk - 1) []
    let tmp :=
      if i % nk == 0 then
        let r := (prev.drop 1 ++ prev.take 1).map subByte
        xorB r [rcon (i / nk), 0, 0, 0]
      else if nk == 8 && i % nk == 4 then prev.map subByte
      else prev
    expandKey nk t (i + 1) (xorB back tmp :: w)

/-- A byte string in blocks of `k` bytes; `n` blocks. -/
def chunks (k : Nat) : (n : Nat) → Bytes → List Bytes
  | 0, _ => []
  | n + 1, b => b.take k :: chunks k n (b.drop k)

/-- The round keys of a 16- or 32-byte key, the last first. -/
def roundKeys (key : Bytes) : List Bytes :=
  let nk := key.length / 4
  let rounds := nk + 6
  let w := expandKey nk (4 * (rounds + 1) - nk) nk (chunks 4 nk key).reverse
  (chunks 16 (rounds + 1) w.reverse.flatten).reverse

/-- The inverse row shift over a 16-byte column-major state. -/
def invShift (b : Bytes) : Bytes :=
  (List.range 16).map fun i => b.getD ((i + 16 - 4 * (i % 4)) % 16) 0

/-- The inverse column mix of one column. -/
def invMixCol : Bytes → Bytes
  | [a, b, c, d] =>
    [gmul a 14 ^^^ gmul b 11 ^^^ gmul c 13 ^^^ gmul d 9, gmul a 9 ^^^ gmul b 14 ^^^ gmul c 11 ^^^ gmul d 13,
     gmul a 13 ^^^ gmul b 9 ^^^ gmul c 14 ^^^ gmul d 11, gmul a 11 ^^^ gmul b 13 ^^^ gmul c 9 ^^^ gmul d 14]
  | l => l

/-- The rounds of a decryption after the first key, from the last round key down. -/
def decRounds : List Bytes → Bytes → Bytes
  | [], s => s
  | [k], s => xorB ((invShift s).map invSubByte) k
  | k :: ks, s => decRounds ks (((chunks 4 4 (xorB ((invShift s).map invSubByte) k)).map invMixCol).flatten)

/-- AES decryption of one 16-byte block (FIPS 197). -/
def aesDecrypt (key blk : Bytes) : Bytes :=
  match roundKeys key with
  | [] => blk
  | k :: ks => decRounds ks (xorB blk k)

/-- AES decryption in CBC mode of `n` blocks. -/
def cbcDecrypt (key : Bytes) : (n : Nat) → (iv data : Bytes) → Bytes
  | 0, _, _ => []
  | n + 1, iv, data => xorB (aesDecrypt key (data.take 16)) iv ++ cbcDecrypt key n (data.take 16) (data.drop 16)

/-! ### RFC 3394 key unwrap of a 128-bit key -/

/-- The steps of the unwrap from `t` down to 1: integrity register and the two 64-bit halves. -/
def unwrapSteps (kek : Bytes) : (t : Nat) → (a r1 r2 : Bytes) → Bytes × Bytes × Bytes
  | 0, a, r1, r2 => (a, r1, r2)
  | t + 1, a, r1, r2 =>
    let a1 := xorB a (List.replicate 7 0 ++ [BitVec.ofNat 8 (t + 1)])
    let b := aesDecrypt kek (a1 ++ if t % 2 == 0 then r1 else r2)
    if t % 2 == 0 then unwrapSteps kek t (b.take 8) (b.drop 8) r2 else unwrapSteps kek t (b.take 8) r1 (b.drop 8)

/-- The unwrapped key, when the integrity check gives the default value of RFC 3394 (R226). -/
def unwrapKey (kek wkey : Bytes) : Option Bytes :=
  let r := unwrapSteps kek 12 (wkey.take 8) ((wkey.drop 8).take 8) ((wkey.drop 16).take 8)
  if r.1 == List.replicate 8 0xA6 then some (r.2.1 ++ r.2.2) else none

/-! ### SHA-256 (FIPS 180-4) -/

/-- The largest number of `k` more bits above `r` whose `e`-th power is at most `n`. -/
def intRoot (e n : Nat) : (k r : Nat) → Nat
  | 0, r => r
  | k + 1, r => intRoot e n k (if (r + 2 ^ k) ^ e ≤ n then r + 2 ^ k else r)

/-- The first 64 primes. -/
def shaPrimes : List Nat := (List.range 312).filter fun p => 2 ≤ p && (List.range p).all fun d => d < 2 || p % d != 0

/-- The round constants: the first 32 bits after the point of the cube roots of the first 64 primes (FIPS 180-4, 4.2.2). -/
def shaK : List U32 := shaPrimes.map fun p => BitVec.ofNat 32 (intRoot 3 (p * 2 ^ 96) 35 0)

/-- The initial hash value: the first 32 bits after the point of the square roots of the first 8 primes (FIPS 180-4, 5.3.3). -/
def shaInit : List U32 := (shaPrimes.take 8).map fun p => BitVec.ofNat 32 (intRoot 2 (p * 2 ^ 64) 36 0)

/-- A big-endian number. -/
def ofBe (b : Bytes) : Nat := b.foldl (fun n x => 256 * n + x.toNat) 0

/-- The message schedule, newest word first. -/
def shaSchedule : (todo : Nat) → List U32 → List U32
  | 0, w => w
  | t + 1, w =>
    let a := w.getD 14 0
    let b := w.getD 1 0
    let s0 := a.rotateRight 7 ^^^ a.rotateRight 18 ^^^ (a >>> 3)
    let s1 := b.rotateRight 17 ^^^ b.rotateRight 19 ^^^ (b >>> 10)
    shaSchedule t ((w.getD 15 0 + s0 + w.getD 6 0 + s1) :: w)

/-- One round on the eight working words. -/
def shaRound (v : List U32) (kw : U32 × U32) : List U32 :=
  match v with
  | [a, b, c, d, e, f, g, h] =>
    let t1 := h + (e.rotateRight 6 ^^^ e.rotateRight 11 ^^^ e.rotateRight 25) + ((e &&& f) ^^^ ((~~~e) &&& g)) + kw.1 + kw.2
    let t2 := (a.rotateRight 2 ^^^ a.rotateRight 13 ^^^ a.rotateRight 22) + ((a &&& b) ^^^ (a &&& c) ^^^ (b &&& c))
    [t1 + t2, a, b, c, d + t1, e, f, g]
  | l => l

/-- The compression of one 64-byte block. -/
def shaBlock (v : List U32) (blk : Bytes) : List U32 :=
  let w := (chunks 4 16 blk).map fun x => BitVec.ofNat 32 (ofBe x)
  List.zipWith (· + ·) v ((List.zip shaK (shaSchedule 48 w.reverse).reverse).foldl shaRound v)

/-- SHA-256 of a byte string. -/
def sha256 (m : Bytes) : Bytes :=
  let n := m.length
  let pad := m ++ [0x80] ++ List.replicate ((119 - n % 64) % 64) 0 ++ be 8 (8 * n)
  let h := (chunks 64 (pad.length / 64) pad).foldl shaBlock shaInit
  (h.map fun x => be 4 x.toNat).flatten

/-! ### ECDSA on P-256 (FIPS 186-4) -/

/-- The field prime. -/
def p256 : Nat := 2 ^ 256 - 2 ^ 224 + 2 ^ 192 + 2 ^ 96 - 1
/-- The group order. -/
def n256 : Nat := 0xffffffff00000000ffffffffffffffffbce6faada7179e84f3b9cac2fc632551
/-- The curve's coefficient b. -/
def b256 : Nat := 0x5ac635d8aa3a93e7b3ebbd55769886bc651d06b0cc53b0f63bce3c3e27d2604b
/-- The base point. -/
def g256 : Nat × Nat := (0x6b17d1f2e12c4247f8bce6e563a440f277037d812deb33a0f4a13945d898c296, 0x4fe342e2fe1a7f9b8ee7eb4a7c0f9e162bce33576b315ececbb6406837bf51f5)

/-- A power modulo `m` over the low `k` bits of the exponent. -/
def powMod (m : Nat) : (k a e : Nat) → Nat
  | 0, _, _ => 1 % m
  | k + 1, a, e => (if e % 2 == 1 then a else 1) * powMod m k (a * a % m) (e / 2) % m

/-- The inverse modulo a prime below 2^256. -/
def invMod (m a : Nat) : Nat := powMod m 256 (a % m) (m - 2)

/-- The sum of two points; none is the point at infinity. -/
def ecAdd (a b : Option (Nat × Nat)) : Option (Nat × Nat) :=
  match a, b with
  | none, q => q
  | q, none => q
  | some (x1, y1), some (x2, y2) =>
    if x1 == x2 && (y1 + y2) % p256 == 0 then none
    else
      let l := if x1 == x2 then (3 * x1 * x1 + p256 - 3) * invMod p256 (2 * y1) % p256
        else (y2 + p256 - y1) * invMod p256 (x2 + p256 - x1) % p256
      let x3 := (l * l + 2 * p256 - x1 - x2) % p256
      some (x3, (l * (x1 + p256 - x3) + p256 - y1) % p256)

/-- A multiple of a point over the low `k` bits of the factor. -/
def ecMul : (k n : Nat) → Option (Nat × Nat) → Option (Nat × Nat)
  | 0, _, _ => none
  | k + 1, n, q =>
    let r := ecMul k (n / 2) (ecAdd q q)
    if n % 2 == 1 then ecAdd q r else r

/-- A point lies on the curve. -/
def onCurve (x y : Nat) : Bool :=
  x < p256 && y < p256 && y * y % p256 == (x * x * x + (p256 - 3) * x + b256) % p256

/-- ECDSA verification: public key and signature as two 32-byte big-endian numbers each (log 23). -/
def ecdsaVerify (key sig msg : Bytes) : Bool :=
  let x := ofBe (key.take 32)
  let y := ofBe ((key.drop 32).take 32)
  let r := ofBe (sig.take 32)
  let t := ofBe ((sig.drop 32).take 32)
  if key.length != 64 || !onCurve x y || r == 0 || n256 ≤ r || t == 0 || n256 ≤ t then false
  else
    let w := invMod n256 t
    let u1 := ofBe (sha256 msg) * w % n256
    let u2 := r * w % n256
    match ecAdd (ecMul 256 u1 (some g256)) (ecMul 256 u2 (some (x, y))) with
    | none => false
    | some (px, _) => px % n256 == r

end Sys2Proof.Machine
end

