-- ==== Sys2Proof/Config.lean ====
section
/-! DEFINITION. What one device fixes and the spec leaves open: each constant has no body, so nothing can be proved
of its value. Each is named in the assumption log. -/

namespace Sys2Proof.Config

/-- Content of a byte of a memory instance that lost its content: by loss and system address (R396; log 13). -/
opaque lostByte (loss addr : Nat) : U8

/-- Byte `i` of the nonce drawn as free value `n` (R472; log 1). -/
opaque nonceByte (n i : Nat) : U8

/-- The device-fixed hash of a meter address, before its reduction to the index table (R224; log 14). -/
opaque addressHash (key : Nat) : Nat

/-- The ephemeral keys of security mode 7, for decryption and for the MAC, by the key derivation function of EN 13757-7 from the meter key, the
link-layer address and the message counter (R228; log 16). -/
opaque mode7Keys (key address : Bytes) (counter : Nat) : Bytes × Bytes

/-- The MAC of a frame's authentication and fragmentation layer is right under a key, as EN 13757-7 forms it (R228; log 16). -/
opaque layerMacOk (key frame : Bytes) : Bool

/-- Coefficient `i` of filter recipe `r`; 6 is the intermediate design (R148; log 27). -/
opaque coefficient (r i : Nat) : U16

/-- A byte of the diagnostic block that no chapter assigns (R389; log 28). -/
opaque diagByte (ofs : Nat) : U8

/-- Core cycles that an access waits for an instance in RETENTION to wake, by free value; cut to the bound of R396 (log 31). -/
opaque wakeStall (n : Nat) : Nat

/-- Level in 1/16 dBFS of a window of zero samples, for which no rule gives a logarithm: by lane-sample index (R162, R167; log 133). -/
opaque silentLevel (j : Nat) : U16

/-- The band that leaves the largest tuning-voltage margin, of the band search that is free value `n`: what the search counts is not part
of the model where no operand brings its result (R128; log 129). -/
opaque searchBand (n : Nat) : BitVec 6

/-- The tuning-voltage margin in percent that such a search leaves (R128, R129; log 129). -/
opaque searchMargin (n : Nat) : Nat

/-- RSSI of a telegram all of whose samples are zero, in 1/16 dBm: by DTIME of its end (R187; log 133). -/
opaque silentRssi (t : Nat) : U16

/-- A pulse on RESET_N of so many ns, from 500 ns to under 2 µs, is taken: the spec says only which shorter ones are ignored and which
longer ones accepted (R35; log 152). -/
opaque resetPulse (ns : Nat) : Bool

/-- Drive of the power amplifier that the trim table gives a ramp-up, and that its loop settles at, in the transmission that is free value
`n`; the spec gives the drive no scale (R258; log 169). -/
opaque tableDrive (n : Nat) : Int
opaque settledDrive (n : Nat) : Int

/-- An alternating preamble that is sent begins with the lower level: the spec names the pattern and not its phase (R243; log 168). -/
opaque preambleLow : Bool

/-- The burnt rule card reads back as written, in the burn that is free value `n` (R265; log 21). -/
opaque burnReads (n : Nat) : Bool

/-- Steps that a commit, a rebuild or a survey in progress completes in the stroke that is free value `n` (R65; log 153). -/
opaque longSteps (n : Nat) : Nat

/-- Level at a signal ball that the state does not determine, by its place in the boundary register, in the capture that is free value
`n` (R481; log 154). -/
opaque ballLevel (n i : Nat) : Bool

/-! The filters and loops of broadcast reception and of the TDM port, of which the spec states no design (log 163). A signal is given
as its last values, newest first. -/

/-- The mono part of an FM multiplex signal, (L + R) / 2, and its stereo part, (L - R) / 2 (R271). -/
opaque mpxMono (past : List Int) : Int
opaque mpxStereo (past : List Int) : Int

/-- The 19 kHz pilot is present in a multiplex signal, and its SNR in 1/16 dB (R271). -/
opaque mpxPilot (past : List Int) : Bool
opaque mpxSnr (past : List Int) : Int

/-- Share of stereo in 1/256 at a multiplex SNR between 20 and 30 dB (R271). -/
opaque stereoShare (snr : Int) : Nat

/-- Level and carrier of the envelope of an AM signal (R281). -/
opaque amLevel (past : List Int) : Int
opaque amCarrier (past : List Int) : Int

/-- Sample `k` of `n` that the rate converter makes of the samples of a stroke (R308). -/
opaque resample (l : List Int) (k n : Nat) : Int

/-- Step of the tuning word that the loop makes at a catch: in slave mode, or in master mode, from the oscillator count of the stroke, the
FIFO level and the word in force; cut to the bounds of R140 (R141, R309). -/
opaque tuneStep (slave : Bool) (count level : Nat) (w : Int) : Int

end Sys2Proof.Config
end

