-- ==== Sys2Proof/Machine/State.lean ====
section
/-! DEFINITION. The state of the block as plain data: one structure per part of the device, gathered in `State`.
Each field's docstring names the rule of spec/ that gives it; a field marked MODEL is the model's own bookkeeping.
The default of a field is its value in `State.reset`; where the spec gives none the docstring names the log entry. -/

namespace Sys2Proof.Machine

/-- Why the block stops with a fault. Raised by no command: every behaviour of the spec ends in a next state. Safe. -/
inductive Fault where
  /-- kept so that the type is inhabited; no meaning answers with it. Safe -/
  | none
  deriving DecidableEq, Repr

/-- Why a command has no meaning. -/
inductive Refusal where
  /-- raised by an arm of `exec` whose command has no meaning yet. Safe: the run stops -/
  | notModelled (mnemonic : String)
  deriving DecidableEq, Repr

/-! ### Unit states (R81 to R83, R102, R176, R431) -/

/-- Chain states with the codes of R83. -/
inductive ChainSt where
  | sleep | standby | synth | receive | transmit | fault
  deriving DecidableEq, Repr

/-- Synthesiser states with the codes of R83. -/
inductive SynSt where
  | off | search | locked | fallback | lost
  deriving DecidableEq, Repr

/-- Lane states with the codes of R83. -/
inductive LaneSt where
  | off | running | blanked
  deriving DecidableEq, Repr

/-- Crew states with the codes of R83. -/
inductive CrewSt where
  | off | molrel | customerLoaded | customerRunning | faulted
  deriving DecidableEq, Repr

/-- Stream group states with the codes of R83. -/
inductive GroupSt where
  | stopped | running | stalled | rateFault
  deriving DecidableEq, Repr

/-- TDM port states with the codes of R83. -/
inductive TdmSt where
  | stopped | running | slipped
  deriving DecidableEq, Repr

/-- Context states of R176, with WAITING of R197. -/
inductive CtxSt where
  | free | gambit | confirmed | offering | waiting
  deriving DecidableEq, Repr

/-- Device power states (R431). -/
inductive PowerSt where
  | row | paddle | easy | feather | ashore
  deriving DecidableEq, Repr

/-- Causes of reset with the codes of R47. -/
inductive ResetCause where
  | powerOn | resetN | refLoss | watchdog | fwUpdate | testPort | coreSupply | overTemp
  deriving DecidableEq, Repr

/-- A state word of R81: the generation, the state code, and the Cox's management copy of both (R86). -/
structure Word where
  /-- GEN, 8 bits (R81) -/
  gen     : U8 := 0
  /-- STATE code (R83) -/
  st      : Nat := 0
  /-- management copy of GEN (R86) -/
  mgGen   : U8 := 0
  /-- management copy of STATE (R86) -/
  mgSt    : Nat := 0
  /-- DTIME of the last advance of GEN, for "same reference cycle" of R82 (MODEL; none before the first) -/
  genAt   : Option Nat := none
  /-- the Cox changed this unit's state during the present stroke (R86) -/
  touched : Bool := false
  deriving DecidableEq, Repr

/-! ### Host links (chapter 2) -/

/-- An outstanding command tag (R40, R42, R44). -/
structure TagEntry where
  tag      : U16
  opcode   : Nat
  crc      : U32
  src      : Src
  /-- DTIME of receipt -/
  received : Nat
  /-- long operation (R44) -/
  long     : Bool
  /-- DTIME of the last progress step (R34) -/
  stepAt   : Nat
  done     : Nat
  total    : Nat
  deriving DecidableEq, Repr

/-- Message kinds in the order of precedence of R54. -/
inductive MsgKind where
  | reply | event | batch
  deriving DecidableEq, Repr

/-- An outbound message before it is given its link sequence (R37). -/
structure OutMsg where
  kind    : MsgKind
  opcode  : Nat
  tag     : U16
  /-- flags bits [13:10] of R38 -/
  flags   : U16
  status  : Nat
  payload : Bytes
  dst     : Src
  /-- sequence numbers of the records a batch carries -/
  recs    : List U32
  deriving DecidableEq, Repr

/-- A final reply kept for replay (R42). -/
structure CachedReply where
  tag    : U16
  opcode : Nat
  crc    : U32
  msg    : OutMsg
  sentAt : Nat
  deriving DecidableEq, Repr

/-- A message in the outbound FIFO: the bytes not yet read and the records it acknowledges (R50, R61). -/
structure FifoMsg where
  left : Bytes
  recs : List U32
  /-- it is a reply or an event (R56) -/
  ctl  : Bool
  deriving DecidableEq, Repr

/-- A frame handed to the MAC: the endpoint it is for, the next hop on the subnet, the Ethernet address it is sent from, and the UDP,
ARP or ICMP bytes (R55, R56). -/
structure EthOut where
  dst  : Src
  hop  : U32
  mac  : Bytes
  data : Bytes
  deriving DecidableEq, Repr

/-- Host links: SPI registers, FIFOs, tags, reply cache, outbound queues, Ethernet and console. -/
structure Links where
  /-- SPI_STATUS READY (R51) -/
  ready    : Bool := false
  /-- SPI_STATUS ETH_UP (R51) -/
  ethUp    : Bool := false
  /-- ETH_REFCLK is present (R57; log 3) -/
  refclk   : Bool := true
  /-- PHY link status of the last read (R57) -/
  phyLink  : Bool := false
  /-- MDIO registers written: (register, value), newest first (R57) -/
  mdio     : List (Nat × U16) := []
  /-- SPI_IRQ, 16 bits (R52) -/
  irq      : U16 := 0
  /-- SPI_IRQ_EN, 16 bits (R52) -/
  irqEn    : U16 := 0
  /-- inbound FIFO, 8,192 bytes (R50) -/
  inFifo   : Bytes := []
  /-- inbound bytes are discarded up to the rise of SPI_CS_N (R53) -/
  inDrop   : Bool := false
  /-- DTIME at which the partial inbound message began (R35) -/
  partialAt : Option Nat := none
  /-- outbound FIFO, 16,384 bytes (R50) -/
  outFifo  : List FifoMsg := []
  /-- replies, events and batches waiting to be placed (R54) -/
  waiting  : List OutMsg := []
  /-- events waiting, 256 entries (R64) -/
  events   : List OutMsg := []
  /-- an event was dropped since the last one sent (R38) -/
  evLost   : Bool := false
  /-- link sequence of messages sent on SPI (R37) -/
  seqSpi   : U16 := 0
  /-- link sequence of messages sent on UDP (R37) -/
  seqUdp   : U16 := 0
  /-- bytes that the last read of MBX_OUT drove on the SPI lines (R50; MODEL: the wire) -/
  spiOut   : Bytes := []
  /-- frames handed to the MAC, newest first (MODEL: the wire) -/
  udpTx    : List EthOut := []
  /-- outstanding tags, at most 64 (R31, R40) -/
  tags     : List TagEntry := []
  /-- the 64 most recent final replies, newest first (R42) -/
  cache    : List CachedReply := []
  /-- source of the most recent command accepted over UDP (R59) -/
  lastUdp  : Option Src := none
  /-- delivery endpoint (R59) -/
  endpoint : Option Src := none
  /-- console lines in the transmit buffer, in bytes (R58) -/
  uartFill : Nat := 0
  /-- DTIME at which uartFill was right (MODEL) -/
  uartAt   : Nat := 0
  /-- console lines written, newest first: DTIME and text (MODEL: the wire) -/
  uartTx   : List (Nat × String) := []
  /-- stroke of the last EV_QUEUE_DROP (R63) -/
  dropEvAt : Option Nat := none
  /-- first sequence number dropped, and records dropped, since the last EV_QUEUE_DROP (R63) -/
  dropFirst : U32 := 0
  dropCount : U32 := 0
  /-- stroke of the last EV_MISSED_STROKE (R29) -/
  missedEvAt : Option Nat := none
  /-- DTIME of the last host message (R439) -/
  lastMsg  : Option Nat := none
  deriving DecidableEq, Repr

/-- The counters of GET_STATUS (R47), 32 bits each, and those accumulated since the last EV_MISSED_STROKE (R29). -/
structure Counters where
  behind     : U32 := 0
  ctxOverrun : U32 := 0
  /-- crew_missed[0..7], 32 bits each (R47) -/
  crewMissed : List U32 := List.replicate 8 0
  workSkipped : U32 := 0
  gambitRefused : U32 := 0
  sweepSkipped : U32 := 0
  gambitReleased : U32 := 0
  streamsDiscarded : U32 := 0
  queueDrops : U32 := 0
  msgsDiscarded : U32 := 0
  eventsLost : U32 := 0
  /-- since the last EV_MISSED_STROKE (R29) -/
  accOverrun : U32 := 0
  accMissed  : List U32 := List.replicate 8 0
  accSkipped : U32 := 0
  /-- UART bytes and Ethernet frames discarded and counted (R35) -/
  uartBad    : U32 := 0
  ethBad     : U32 := 0
  /-- PPS pulses outside their window (R35) -/
  ppsBad     : U32 := 0
  deriving DecidableEq, Repr

/-! ### Delivery (R59 to R62) -/

/-- A record in the delivery queue. -/
structure Rec where
  seq   : U32
  /-- the record, 48-byte header and payload (R236) -/
  bytes : Bytes
  /-- sent but unacknowledged (R61) -/
  sent  : Bool
  deriving DecidableEq, Repr

/-- The open record batch (R60). -/
structure Batch where
  dst    : Src
  recs   : List Rec
  /-- DTIME at which the first record entered -/
  opened : Nat
  deriving DecidableEq, Repr

/-- The delivery queue and its credits. -/
structure Delivery where
  /-- credit balance, from 0 to 16,777,215 (R32) -/
  credit  : Nat := 0
  /-- next sequence number, 32 bits (R62) -/
  nextSeq : U32 := 0
  /-- records, oldest first; at most 1,048,576 (R31) -/
  queue   : List Rec := []
  /-- highest sequence number sent (R61) -/
  highSent : Option U32 := none
  /-- records to be sent again, before new ones (R61) -/
  resend  : List U32 := []
  /-- the open batch (R60) -/
  batch   : Option Batch := none
  /-- DTIME of the last grant that advanced the acknowledgement, or of the first unacknowledged send (R61) -/
  ackAt   : Option Nat := none
  /-- DTIME at which a record last left the queue (R439) -/
  leftAt  : Option Nat := none
  deriving DecidableEq, Repr

/-! ### Configuration (chapter 3) -/

/-- Progress of a castling (R74 to R79). -/
inductive CastleSt where
  | idle
  /-- checks running since receipt -/
  | checking (tag : U16) (target : Nat) (received : Nat)
  /-- checks passed; castling at the given stroke -/
  | armed (tag : U16) (stroke : Nat) (late : Bool)
  /-- castled; the shadow copy is running -/
  | copying (tag : Option U16) (stroke : Nat) (late : Bool) (at_ : Nat)
  deriving DecidableEq, Repr

/-- A command on the configuration sets that waits for one received before it (R41). -/
inductive CfgJob where
  | check (active : Bool)
  | castle (target : Nat)
  | read (section_ set : U8) (offset length : U16)
  | write (section_ target : U8) (offset : U16) (data : Bytes)
  deriving DecidableEq, Repr

/-- The two configuration sets. -/
structure ConfigSets where
  /-- active set: bytes that differ from the reset content, by section × 65,536 + offset (R66) -/
  active  : List Host.Cell := []
  /-- shadow set, held in the same way (R66) -/
  shadow  : List Host.Cell := []
  /-- direct writes to the active set waiting for the first catch after their reply (R70) -/
  direct  : List Host.Cell := []
  /-- generation of the active set, 8 bits (R67) -/
  genAct  : U8 := 0
  /-- generation of the shadow set, 8 bits (R67) -/
  genShad : U8 := 0
  /-- castling in progress (R74) -/
  castle  : CastleSt := .idle
  /-- commands on the sets in order of receipt, each with its tag and DTIME of receipt; the first is in work while no CASTLE is, and a
  CFG_CHECK in front runs its group checks (R41, R79) -/
  waits   : List (U16 × Nat × CfgJob) := []
  deriving DecidableEq, Repr

/-! ### Chains, synthesisers, tuners (chapters 4 and 5) -/

/-- A receive chain (R88 to R107). -/
structure Chain where
  w         : Word := {}
  /-- state to be reached by the transition in progress (R103) -/
  target    : Option ChainSt := none
  /-- the next state on the way (R103) -/
  toward    : Option ChainSt := none
  /-- CHAIN_STATE commands waiting, oldest first: tag and requested state, none for a query behind a request (R41, R105) -/
  waits     : List (U16 × Option ChainSt) := []
  /-- DTIME of entry into the present state (R105) -/
  entered   : Nat := 0
  /-- state held before a transmission or a loss of lock (R104, R137) -/
  former    : Option ChainSt := none
  /-- tuner codes in use, 5 bits each (R96; log 4) -/
  series    : Nat := 0
  shunt     : Nat := 0
  /-- last return loss in 0.1 dB and its DTIME (R97) -/
  rl        : Nat := 0
  rlAt      : Nat := 0
  /-- the chain has entered RECEIVE since power-on reset (R418) -/
  seenRx    : Bool := false
  /-- entries into RECEIVE (true) and exits from it within the stroke, with their DTIME, newest first (R101, R158) -/
  rxLog     : List (Nat × Bool) := []
  deriving DecidableEq, Repr

/-- The gain control of one path: 0 H-A, 1 H-B, 2 L-A, 3 L-B, 4 chain B LF/MF, 5 chain B VHF (R93, R94). -/
structure Gain where
  /-- gain step g, from 0 to 15 (R93; log 4) -/
  g       : Nat := 0
  /-- DTIME of the last fast attack (R94) -/
  fastAt  : Option Nat := none
  /-- strokes in a row whose peak stayed below t − 6 dB (R94) -/
  quiet   : Nat := 0
  /-- gain log of the last 64 strokes: DTIME, old step, new step; newest first (R95) -/
  log     : List (Nat × Nat × Nat) := []
  deriving DecidableEq, Repr

/-- A band cache entry (R129). -/
structure BandEntry where
  n      : Nat
  d      : Nat
  band   : BitVec 6
  /-- die temperature at the search, 1/16 degree C -/
  temp   : Int
  /-- tuning-voltage margin in percent -/
  margin : Nat
  deriving DecidableEq, Repr

/-- A synthesiser (R125 to R139). -/
structure Synth where
  w       : Word := {}
  /-- feedback ratio N in force (R125) -/
  n       : Nat := 0
  /-- output divider D in force (R126) -/
  d       : Nat := 0
  /-- relock attempt running, 0 none, 1 to 3 (R136) -/
  attempt : Nat := 0
  /-- VCO band in force (R126; log 4) -/
  band    : BitVec 6 := 0
  /-- the lock on its way uses the cached band (R128, R136) -/
  cached  : Bool := false
  /-- the lock on its way leaves LOST: its failure returns there (R139) -/
  fromLost : Bool := false
  /-- a planned reprogramming or a hop is under way (R133, R138) -/
  planned : Bool := false
  /-- band cache, most recently used first, at most 256 entries (R129) -/
  cache   : List BandEntry := []
  /-- relocks since the previous survey (R426) -/
  relocks : Nat := 0
  /-- every entry is re-searched at the next lock (R426) -/
  research : Bool := false
  /-- DTIME of EV_LOCK_LOST, for the reset of R137 -/
  lostAt  : Option Nat := none
  deriving DecidableEq, Repr

/-- The ASHORE record (R124). -/
structure AshoreRec where
  dtimeEntry : Nat := 0
  aonEntry   : Nat := 0
  aonExit    : Nat := 0
  dtimeExit  : Nat := 0
  ratio      : Nat := 0
  flags      : U8 := 0
  deriving DecidableEq, Repr

/-- Reference, always-on counter and clocks (R119 to R124, R140). -/
structure Clocks where
  /-- TCXO mode; false is crystal mode (R119; log 5) -/
  tcxo     : Bool := false
  /-- AONCNT, 48 bits (R122) -/
  aon      : BitVec 48 := 0
  /-- RATIO in units of 2^-20 cycles (R123; nominal) -/
  ratio    : Nat := 1228800000
  /-- the last 1,024 captures: AONCNT and DTIME, newest first (R123) -/
  captures : List (Nat × Nat) := []
  /-- the nominal RATIO stands in for an average out of bounds (R123) -/
  nominal  : Bool := false
  /-- copy of the last ASHORE record (R124) -/
  ashore   : AshoreRec := {}
  /-- flag fall source 0x08 is in force (R36, R439) -/
  aonLost  : Bool := false
  /-- coarse band of the audio oscillator, 6 bits (R140; log 6) -/
  coarse   : Nat := 0
  /-- the reference is stopped: DTIME does not count (R7, R120, R431) -/
  stopped  : Bool := false
  deriving DecidableEq, Repr

/-! ### Lanes and contexts (chapters 6 to 8) -/

/-- A sample of both branches of a lane: I and Q of branch A and of branch B (R145, R158). -/
structure Quad where
  (ai aq bi bq : Int)
  deriving DecidableEq, Repr

/-- The watch of one branch (R162). -/
structure Watch where
  armed : Bool := false
  ref   : Int := 0
  below : Nat := 0
  /-- the sample before, I and Q -/
  prev  : Option (Int × Int) := none
  /-- d in units of 2^-40 turns and the squared magnitude of the last samples, newest first -/
  hist  : List (Int × Nat) := []
  /-- rho of the last 2 h + 1 samples, newest first -/
  rhos  : List Nat := []
  /-- index of the peak whose hit disarmed the branch (R168) -/
  by_   : Nat := 0
  deriving DecidableEq, Repr

/-- A hit descriptor (R163), with what the device keeps beside it. -/
structure Hit where
  j       : Nat
  a       : Bool
  b       : Bool
  riseA   : Bool
  riseB   : Bool
  rhoA    : Nat
  rhoB    : Nat
  levelA  : Int
  levelB  : Int
  offset  : Int
  frac    : Nat
  /-- indices of the peaks of branches A and B (R163) -/
  (ja jb  : Nat)
  /-- of a rise: index of the peak whose hit disarmed the branch (R168) -/
  (byA byB : Nat)
  deriving DecidableEq, Repr

/-- The block of one stroke on a lane: its descriptor (R159), and what the gain log and the Cox hold for the stroke. -/
structure Block where
  stroke  : Nat
  jFirst  : Nat
  buffer  : Nat
  count   : Nat
  gen     : U8
  k       : Nat
  bankB   : Bool
  flags   : U16
  shifts  : U16
  hits    : List Hit
  lost    : Nat
  /-- DTIMEs within the stroke at which a segment of R201 begins -/
  cuts    : List Nat := []
  /-- gain steps of branch A and of branch B, each with the DTIME from which it holds, oldest first (R95, R187) -/
  gainA   : List (Nat × Nat) := []
  gainB   : List (Nat × Nat) := []
  deriving DecidableEq, Repr

/-- A change of a lane's course that the datapath follows at the first sample from its DTIME on: the lane runs or not, its delay
lines are cleared, and the watch looks at samples from index `arm` on (R155, R156). -/
structure Turn where
  at_   : Nat
  run   : Bool
  clear : Bool
  arm   : Nat
  deriving DecidableEq, Repr

/-- A lane (R145 to R163). -/
structure Lane where
  w        : Word := {}
  /-- DTIME at which the settling in progress ends; 0 when settled (R156) -/
  settle   : Nat := 0
  /-- settling is of the watch only (R156) -/
  watchOnly : Bool := false
  /-- the watch of branch A and of branch B (R162) -/
  wa       : Watch := {}
  wb       : Watch := {}
  /-- hits of the block being filled, oldest first (R163) -/
  hits     : List Hit := []
  /-- hits dropped in the block being filled (R163) -/
  lost     : Nat := 0
  /-- block flags gathered for the block being filled (R159) -/
  flags    : U16 := 0
  /-- the last block posted (R22) -/
  last     : Option Block := none
  /-- delay lines of stages 1 to k, newest sample first (R147); what they do not hold is zero -/
  delay    : List (List Quad) := []
  /-- the datapath runs, as of its last sample (R108, R155) -/
  on       : Bool := false
  /-- changes it has still to follow, oldest first -/
  turns    : List Turn := []
  /-- index of the first sample the watch looks at (R156) -/
  armFrom  : Nat := 0
  /-- samples of the block being filled, and how many of them are blanked (R158, R159) -/
  made     : Nat := 0
  blanks   : Nat := 0
  /-- a segment of R201 begins at the first sample of the block being filled: a tuner code, a SCALE change or a castling -/
  cut      : Bool := false
  deriving DecidableEq, Repr

/-- A block that a context holds. -/
structure Held where
  blk   : Block
  /-- scull that has the work order of the block, once a credit was free (R31) -/
  scull : Option Nat := none
  /-- offset in the spill region, once the copy is done (R208) -/
  spill : Option Nat := none
  /-- it awaits its copy to DRAM (R208) -/
  await : Bool := false
  /-- samples of the residual block that stands in for the lane block (R201) -/
  res   : Option (List Quad) := none
  deriving DecidableEq, Repr

/-- A re-run or a sweep in progress (R202, R204). -/
structure Pace where
  /-- stroke c in which it was ordered -/
  start   : Nat
  /-- retained samples to process -/
  total   : Nat
  /-- retained samples processed -/
  done    : Nat
  /-- retained blocks processed -/
  pos     : Nat := 0
  /-- scull that has its work order, once a credit was free (R31) -/
  scull   : Option Nat := none
  /-- the watch of a sweep on branches A and B (R204) -/
  wa      : Watch := {}
  wb      : Watch := {}
  deriving DecidableEq, Repr

/-- A decided symbol: its level in thirds of the outer level, the end of the symbol in 2^-32 sample, the offset estimate it was
decided with in 2^-40 turn per sample, and its value y in 2^-40 turn (R179 to R181). -/
structure Sym where
  lev : Int
  tau : Int
  fo  : Int
  y   : Int
  deriving DecidableEq, Repr

/-- Timing, frequency and preamble estimates on one branch (R166, R178, R181). -/
structure Track where
  /-- end of the next symbol to decide, in 2^-32 sample -/
  tau   : Int := 0
  /-- offset estimate in 2^-40 turn per sample -/
  fo    : Int := 0
  /-- y of the symbol before, in 2^-40 turn -/
  yPrev : Option Int := none
  /-- symbols decided since the hit peak -/
  m     : Nat := 0
  /-- cnt, and the sums of u, u squared and |v| over the preamble symbols, with u and v in 2^-32 (R178, R180) -/
  cnt    : Nat := 0
  sumU   : Int := 0
  sumUU  : Int := 0
  sumAbs : Int := 0
  /-- sense of the preamble pattern: 1 or -1, 0 before the first symbol -/
  pol    : Int := 0
  /-- of a search from one symbol on: that symbol's number -/
  from_ : Nat := 0
  /-- symbols decided by this search, newest first -/
  syms  : List Sym := []
  /-- channel bits decided by this search, newest first: the shift register of R170 -/
  bits  : List Bool := []
  deriving DecidableEq, Repr

/-- What a context holds for one branch until its sync word is found (R166, R170). -/
structure Branch where
  /-- tracking by the running preamble mean -/
  pre    : Track := {}
  /-- one search for each symbol at which the sync word may begin, oldest first -/
  tries  : List Track := []
  /-- the search completed last -/
  past   : Option Track := none
  /-- the sample before, I and Q -/
  prev   : Option (Int × Int) := none
  /-- argument of x[n] conj x[n - 1] of the last samples in 2^-40 turn, newest first; none where a sample is zero (R179) -/
  ds     : List (Option Int) := []
  deriving DecidableEq, Repr

/-- A sync match of one branch (R170). -/
structure Match where
  branchB : Bool
  fmtB    : Bool
  errs    : Nat
  track   : Track
  deriving DecidableEq, Repr

/-- The confirmation of a context: the match whose position holds, the format and its bit errors, the picked branch (true is B), and
the preamble estimates of both branches (R170, R178). -/
structure Confirmed where
  mt    : Match
  fmtB  : Bool
  errs  : Nat
  pick  : Bool
  cntA  : Nat
  cntB  : Nat
  qA    : Int
  qB    : Int
  deriving DecidableEq, Repr

/-- A telegram sample of one branch, with its power at the port in 2^-60 mW (R187). -/
structure Tele where
  i : Int
  q : Int
  p : Nat
  deriving DecidableEq, Repr

/-- The demodulator of a context (R166 to R190). -/
structure Demod where
  /-- index of the next lane sample; none before the first -/
  next   : Option Nat := none
  a      : Branch := {}
  b      : Branch := {}
  /-- the last samples of branches A and B, newest first -/
  recent : List (Tele × Tele) := []
  /-- sync matches found, first first -/
  found  : List Match := []
  /-- the confirmation (R170) -/
  hit    : Option Confirmed := none
  /-- tracking after the sync position (R181) -/
  trk    : Track := {}
  /-- mean of |v| over the preamble of the picked branch, in 2^-32 (R180) -/
  amp    : Int := 0
  /-- bits decided after the sync position, first first -/
  bits   : List Bool := []
  /-- symbols decided after the sync position, newest first -/
  syms   : List Sym := []
  /-- samples of the picked branch after the sync position, newest first -/
  tele   : List Tele := []
  /-- length in symbols: outer none while not known, inner none for MALFORMED (R174) -/
  need   : Option (Option Nat) := none
  /-- the last symbol is decided -/
  done   : Bool := false
  deriving DecidableEq, Repr

/-- A reception context (R165 to R212). -/
structure Ctx where
  st       : CtxSt := .free
  lane     : Nat := 0
  profile  : Nat := 0
  /-- scull on which it is placed (R193) -/
  scull    : Nat := 0
  /-- priority class of R27 -/
  cls      : Nat := 5
  /-- blocks posted and not finished, oldest first (R31) -/
  blocks   : List Held := []
  /-- stroke of its first block (R169) -/
  first    : Nat := 0
  /-- the hit that opened it, its peak in lane-sample DTIME (R166) -/
  peak     : Nat := 0
  hit      : Option Hit := none
  /-- capture candidate against this context (R168) -/
  riseOn   : Option Nat := none
  /-- mean level of each branch over the last whole block processed, 1/16 dBFS (R167) -/
  refA     : Int := 0
  refB     : Int := 0
  /-- preamble symbols counted and quality per branch, 1/100 dB (R178) -/
  cntA     : Nat := 0
  cntB     : Nat := 0
  qA       : Int := -10000
  qB       : Int := -10000
  /-- picked branch: true is B (R178) -/
  pick     : Option Bool := none
  /-- the sync match was on SYNC_ALT (R170) -/
  fmtB     : Bool := false
  /-- sync position in lane-sample DTIME, and its bit errors (R170) -/
  syncAt   : Nat := 0
  syncErrs : Nat := 0
  /-- symbols after the sync position, once known (R174) -/
  need     : Option Nat := none
  /-- bits decided after the sync position (R175) -/
  bits     : List Bool := []
  /-- lane-sample DTIME of the end of the last symbol, once decided (R175) -/
  endAt    : Option Nat := none
  /-- link quality figures (R187 to R190) -/
  rssi     : Int := 0
  snr      : Int := 0
  freqOff  : Int := 0
  devErr   : Nat := 0
  /-- GEN of the lane at the catch that posted the block of the sync word (R85) -/
  gen      : U8 := 0
  blinded  : Bool := false
  entangled : Bool := false
  /-- demodulating a residual (R202) or opened by a sweep (R205) -/
  cancelled : Bool := false
  sweepCtx : Bool := false
  /-- partners and the level difference with each, 1/16 dB (R195, R196) -/
  partners : List (Nat × Int) := []
  /-- the telegram engine reported a pass (R197) -/
  passed   : Bool := false
  /-- its stream was taken by the engine (R176) -/
  taken    : Bool := false
  /-- stroke in which the stream was first held without credit (R175) -/
  heldAt   : Option Nat := none
  /-- telegrams cancelled from its retained samples (R201) -/
  residual : Nat := 0
  /-- passed contexts whose cancellation into this one waits for the verdict on its own stream (R197, R198) -/
  owed     : List Nat := []
  rerun    : Option Pace := none
  sweep    : Option Pace := none
  /-- blocks of the tail kept for the sweep (R206) -/
  tail     : List Held := []
  /-- retained blocks, oldest first: finished ones, and those of a re-run (R202, R207, R208) -/
  kept     : List Held := []
  /-- UNRETAINED (R208) -/
  unretained : Bool := false
  /-- marked behind at the last catch (R23) -/
  behind   : Bool := false
  /-- the demodulator (R179 to R190) -/
  dm       : Demod := {}
  deriving DecidableEq, Repr

/-- A work order of Molrel work that is not a context's (R25, R27, R31). -/
structure Order where
  scull  : Nat
  cls    : Nat
  cycles : Nat
  /-- 0 to 27 a circuit, 28 the VHF path, 29 the LF and MF path, 30 any other -/
  unit   : Nat
  /-- stroke whose work it is -/
  stroke : Nat
  deriving DecidableEq, Repr

/-- The capture counters of R213, 32 bits each. -/
structure CapCounters where
  pairs : U32 := 0
  entangled : U32 := 0
  cancellations : U32 := 0
  rerunsStarted : U32 := 0
  rerunsPassed : U32 := 0
  rerunsFailed : U32 := 0
  sweepsRun : U32 := 0
  sweepHits : U32 := 0
  sweepPassed : U32 := 0
  waitingExpired : U32 := 0
  unretained : U32 := 0
  spillPeak : U32 := 0
  deriving DecidableEq, Repr

/-- The counters of the telegram and directory engines (R222), 32 bits each. -/
structure EngCounters where
  taken : U32 := 0
  passed : U32 := 0
  lineErrors : U32 := 0
  crcErrors : U32 := 0
  malformed : U32 := 0
  rawStreams : U32 := 0
  unknownMeters : U32 := 0
  dupDiscarded : U32 := 0
  dupInHold : U32 := 0
  holdBypass : U32 := 0
  decryptOk : U32 := 0
  decryptFail : U32 := 0
  noKey : U32 := 0
  replay : U32 := 0
  keyUnwraps : U32 := 0
  missingReports : U32 := 0
  deriving DecidableEq, Repr

/-- A frame that passed the telegram engine and waits for the directory engine (R31). -/
structure Frame where
  lane    : Nat
  profile : Nat
  branchB : Bool
  fmtB    : Bool
  tSync   : Nat
  tEnd    : Nat
  /-- frame bytes from the L-field, block CRCs removed -/
  bytes   : Bytes
  flags   : U16
  lqi     : Nat
  rssi    : Int
  snr     : Int
  freqOff : Int
  devErr  : Nat
  gen     : U8
  deriving DecidableEq, Repr

/-- How a context ended (R137, R176). -/
inductive CtxEnd where
  | other | clockFault
  deriving DecidableEq, Repr

/-- Reception: lanes, contexts and the telegram engine. -/
structure Reception where
  /-- the 512 lanes by number -/
  lanes   : Tab Lane := []
  /-- the 1,024 contexts by number -/
  ctxs    : Tab Ctx := []
  /-- sample buffers taken: number, lane and stroke of the block each holds (R160) -/
  buffers : List (Nat × Nat × Nat) := []
  /-- instance of the last buffer taken (R392) -/
  lastInst : Nat := 41
  /-- lane buffers kept for customer crews beyond the rings (R468) -/
  listed  : Nat := 0
  /-- stream credits in use, of 256 (R31) -/
  streamsOut : Nat := 0
  /-- contexts whose stream the engine took and has not judged (R31) -/
  atEngine : List Nat := []
  /-- parsed frames waiting for the directory engine, oldest first, at most 512 (R31) -/
  frames  : List Frame := []
  /-- finished blocks that await their copy, at most 257 (R208) -/
  awaiting : Nat := 0
  /-- bytes of the spill region in use (R208) -/
  spill   : Nat := 0
  /-- class from which work is shed at the last catch; 8 when none is (R27) -/
  shedFrom : Nat := 8
  /-- work orders outstanding that are not a context's, oldest first (R27, R31, R193) -/
  orders  : List Order := []
  /-- such work that found no scull with a credit (R31) -/
  unplaced : List Order := []
  /-- how the context of each number ended last (R137, R176) -/
  ended   : Tab CtxEnd := []
  /-- bin samples taken in the stroke, by pair × 64 + bin (R144) -/
  air     : Tab Nat := []
  cap     : CapCounters := {}
  eng     : EngCounters := {}
  deriving DecidableEq, Repr

/-! ### Directory (chapter 9) -/

/-- A directory entry (R225). -/
structure DirEntry where
  ident   : U32 := 0
  mfr     : U16 := 0
  version : U8 := 0
  type_   : U8 := 0
  /-- IN_USE, KEY, WATCH, MISSING, LEARNED, PREDICTING, HAS_LAST in bits 0 to 6 -/
  flags   : U16 := 0
  expInterval : U16 := 0
  learned : U32 := 0
  lastArrival : Nat := 0
  window  : Nat := 0
  /-- eight intervals in ms -/
  history : List U32 := List.replicate 8 0
  histCount : Nat := 0
  histHead : Nat := 0
  missed  : Nat := 0
  lastAcc : U8 := 0
  lastCrc : U32 := 0
  lastDupT : Nat := 0
  wkey    : Bytes := List.replicate 24 0
  delivered : U32 := 0
  dups    : U32 := 0
  decFail : U32 := 0
  lastLqi : U8 := 0
  lastSec : U8 := 0
  lastSrc : U16 := 0
  m7      : U32 := 0
  deriving DecidableEq, Repr

/-- A telegram record on its way through the hold (R231, R236). -/
structure TelRec where
  /-- meter address: ident, mfr, version, type -/
  key     : U32 × U16 × U8 × U8
  dirIndex : Option Nat
  tEnd    : Nat
  lane    : Nat
  branchB : Bool
  profile : Nat
  lqi     : Nat
  rssi    : Int
  snr     : Int
  freqOff : Int
  devErr  : Nat
  gen     : U8
  flags   : U16
  access  : U8
  security : U8
  dedup   : U32
  payload : Bytes
  deriving DecidableEq, Repr

/-- A place of the hold: the best copy so far and the DTIME at which its hold ends (R231). -/
structure HoldPlace where
  best  : TelRec
  ends  : Nat
  deriving DecidableEq, Repr

/-- The meter directory and its engine. -/
structure Directory where
  /-- DRAM fitted, in MiB: 512, 1,024 or 2,048 (R224; log 7) -/
  dramMib : Nat := 2048
  /-- entries by index (R225) -/
  entries : Tab DirEntry := []
  /-- index table: slots that are not empty (R224) -/
  slots   : Tab U32 := []
  /-- freed indices and the DTIME at which each becomes assignable (R238) -/
  quarantine : List (Nat × Nat) := []
  /-- rebuild in progress: its tag and steps done (R240) -/
  rebuild : Option (U16 × Nat) := none
  /-- key cache, most recently used first, at most 4,096: index and unwrapped key (R227) -/
  keys    : List (Nat × Bytes) := []
  /-- the hold, oldest first, at most 4,096 places (R231) -/
  hold    : List HoldPlace := []
  /-- EV_MISMATCH: index, DTIME of the last event, failures since (R63) -/
  mismatch : List (Nat × Nat × U32) := []
  /-- keys of the last 256 automatic replies, newest first, with the DTIME they were queued (R255) -/
  replyKeys : List ((U32 × U16 × U8 × U8) × U8 × U32 × Nat) := []
  deriving DecidableEq, Repr

/-! ### Transmission (chapter 10) -/

/-- Kinds of queued items, in the order of R248 among equal planned starts. -/
inductive TxKind where
  | auto | atTime | asap
  deriving DecidableEq, Repr

/-- A queued or running transmission (R247, R248). -/
structure TxItem where
  kind    : TxKind
  /-- tag of its TX_SUBMIT; 0 for an automatic reply -/
  tag     : U16
  profile : Nat
  planned : Nat
  /-- latest DTIME of the first symbol -/
  latest  : Nat
  freq    : Nat
  /-- power in 0.5 dB -/
  power   : Int
  /-- link-layer bytes -/
  frame   : Bytes
  fmtB    : Bool
  /-- airtime in reference cycles (R243) -/
  airtime : Nat
  /-- governing range (R262) -/
  rule    : Nat
  /-- order of receipt -/
  order   : Nat
  /-- symbols per second (R184) -/
  rate    : Nat := 0
  /-- its symbols in the order sent, in thirds of the outer level and in the sense of the frequency (R243) -/
  air     : List Int := []
  /-- address, access number and CRC that an automatic reply answers (R255) -/
  answers : Option ((U32 × U16 × U8 × U8) × U8 × U32) := none
  deriving DecidableEq, Repr

/-- A line of the amplifier history: the end of a ramp-down, the frequency, the requested power in 0.5 dB, the settled drive, and the
die temperature in 1/16 degree C (R258). -/
structure AmpEntry where
  at_   : Nat
  freq  : Nat
  power : Int
  drive : Int
  temp  : Int
  deriving DecidableEq, Repr

/-- Where the running transmission stands (R249 to R252). -/
inductive TxPhase where
  | idle
  /-- branch A is in transition for a start at the given DTIME: the planned one, or the first its lead time allows (R248, R249) -/
  | transition (at_ : Nat)
  /-- the ramp-up began -/
  | ramping (at_ : Nat)
  /-- the first symbol radiated -/
  | radiating (first : Nat)
  /-- ramp-down commanded before the last symbol; truncated -/
  | rampingDown (at_ : Nat) (first : Nat)
  /-- idle in TRANSMIT between two items of a run (R250) -/
  | idleTx
  deriving DecidableEq, Repr

/-- The transmitter of one band. -/
structure TxBand where
  /-- queued items in order of service (R248) -/
  queue   : List TxItem := []
  /-- the item in service -/
  item    : Option TxItem := none
  phase   : TxPhase := .idle
  /-- blanking began at (R109) -/
  blankAt : Option Nat := none
  /-- ramp-down of the last item completed at (R109) -/
  downAt  : Option Nat := none
  /-- beginning and end of the last blanking, for BLINDED (R110) -/
  lastBlank : Option (Nat × Nat) := none
  /-- beginnings and ends of the blankings of the last 4,160 strokes, newest first (R110, R210) -/
  blanks    : List (Nat × Nat) := []
  /-- LO of the transmission when it hopped (R246) -/
  hopLo   : Option Nat := none
  /-- the power was reduced by 6 dB (R259) -/
  reduced : Bool := false
  /-- amplifier history, newest first (R258) -/
  ampHist : List AmpEntry := []
  /-- drive that the ramp-up started from (R258) -/
  drive   : Int := 0
  /-- symbols radiated in the transmission that runs or ran last (R243, R245) -/
  onAir   : List Int := []
  /-- PAX_x_EN and PAX_x_TR (R260) -/
  paxEn   : Bool := false
  paxTr   : Bool := false
  deriving DecidableEq, Repr

/-- A range of the rule card (R261). -/
structure Range where
  fLow    : Nat
  fHigh   : Nat
  ceiling : Int
  duty    : Nat
  band    : Nat
  maxBurst : Nat
  deriving DecidableEq, Repr

/-- The rule card in one-time-programmable memory (R261, R265). -/
structure RuleCard where
  extH   : Nat
  extL   : Nat
  ranges : List Range
  crc    : U32
  deriving DecidableEq, Repr

/-- Transmitters and the umpire. -/
structure Transmit where
  h       : TxBand := {}
  l       : TxBand := {}
  /-- tags of requests already complete, newest first, for outcome 2 of R253 -/
  complete : List U16 := []
  /-- order of the next receipt (MODEL) -/
  nextOrder : Nat := 0
  /-- burnt rule card (R261; log 8) -/
  card    : Option RuleCard := none
  /-- the burn failed (R265) -/
  cardBad : Bool := false
  /-- duty counters: by range, bins by number and the reference cycles radiated in each (R263) -/
  duty    : Tab (List (Nat × Nat)) := []
  /-- bins that had begun before the last reset, which restarts DTIME and keeps the counters (R263, R484; log 34) -/
  dutyBase : Nat := 0
  /-- reply counters of R257: queued, ok, late, expired, denied, suppressed, dropped -/
  replies : List U32 := List.replicate 7 0
  deriving DecidableEq, Repr

/-! ### Broadcast and time (chapter 11) -/

/-- A decoded RDS group (R272). Block states: 0 as received, 1 corrected, 2 uncorrectable. -/
structure RdsGroup where
  (b1 b2 b3 b4 : U16)
  (s1 s2 s3 s4 : Nat)
  corrected   : Nat
  /-- DTIME of the first bit of block 1 -/
  at_         : Nat
  rssi        : Int
  deriving DecidableEq, Repr

/-- A decoded LF frame (R278, R279). -/
structure LfFrame where
  slot     : Fin 2
  /-- frame bits (TYPE 1) or the decoded seconds (TYPE 2), first bit first -/
  bits     : List Bool
  syncErrs : Nat
  /-- DTIME of the last sync bit, or of the minute mark -/
  at_      : Nat
  /-- DTIME of the second marker that follows the minute mark -/
  marker   : Nat
  rssi     : Int
  deriving DecidableEq, Repr

/-- A tuned path of chain B (R267, R268). -/
structure BcPath where
  /-- frequency tuned, in Hz; 0 untuned -/
  freq    : Nat := 0
  profile : Nat := 0
  /-- tune in progress: tag of the BC_TUNE, or 0 for one of the device's own -/
  tuning  : Option U16 := none
  /-- frequency before the tune -/
  prev    : Nat := 0
  /-- gap to report in the next record (R280) -/
  gap     : Bool := false
  /-- stopped by SYN_V (R137) -/
  stopped : Bool := false
  deriving DecidableEq, Repr

/-- RDS decoding (R272, R273). -/
structure Rds where
  sync    : Bool := false
  /-- which of the last 20 blocks were uncorrectable, newest first (R272) -/
  recent  : List Bool := []
  /-- PI code of block 1 -/
  pi      : Option U16 := none
  /-- PS segments gathered, the previous full name and the last delivered -/
  ps      : List (Nat × U16) := []
  psPrev  : Bytes := []
  psSent  : Bytes := []
  /-- RadioText segments, A/B flag, the text received once -/
  rt      : List (Nat × U32) := []
  rtAb    : Option Bool := none
  rtPrev  : Bytes := []
  rtSent  : Bytes := []
  /-- AF list received -/
  af      : Bytes := []
  /-- AF list being gathered: its first code, the codes still to come, and the codes so far, first first -/
  afHead  : Option U8 := none
  afLeft  : Nat := 0
  afNew   : Bytes := []
  /-- announced ODAs: AID and group type × 2 + version -/
  oda     : List (U16 × Nat) := []
  /-- groups held until PI verification (R276) -/
  held    : List RdsGroup := []
  deriving DecidableEq, Repr

/-- Alternative frequency following (R274 to R276). -/
structure AfFollow where
  on      : Bool := false
  pi      : U16 := 0
  list    : Bytes := []
  /-- last checked RSSI of each candidate in 1/16 dBm, and its checks in a row above the margin -/
  checked : List (U8 × Int × Nat) := []
  /-- barred candidates and the DTIME at which the bar ends -/
  barred  : List (U8 × Nat) := []
  /-- RSSI of the tuned programme with the DTIME of each reading, newest first -/
  means   : List (Nat × Int) := []
  /-- switch awaiting PI verification: previous frequency, new code, DTIME -/
  verify  : Option (Nat × U8 × Nat) := none
  deriving DecidableEq, Repr

/-- What is known of a time source (R282). -/
structure TimeSrc where
  valid   : Bool := false
  /-- DTIME of the last sample -/
  last    : Option Nat := none
  /-- labelled pulses in a row, or samples seen -/
  run     : Nat := 0
  /-- label of the last pulse, or UTC of the last sample -/
  lastUtc : Int := 0
  deriving DecidableEq, Repr

/-- The time model and its sources (R282 to R286). -/
structure TimeD where
  /-- UTC in ns (R282) -/
  u0      : Int := 0
  /-- DTIME (R282) -/
  d0      : Nat := 0
  /-- rate correction in 10^-12 (R282) -/
  r       : Int := 0
  /-- rate estimate of the last fit (R284) -/
  rEst    : Int := 0
  /-- uncertainty in ns at d e (R282) -/
  e       : Nat := 0
  /-- DTIME at which e was right -/
  eAt     : Nat := 0
  /-- the model has had a sample (R285) -/
  related : Bool := false
  /-- offset still to be removed by slewing, in ns (R284) -/
  slew    : Int := 0
  /-- a fit exists, and its standard error in units of 10^-12 -/
  fit     : Option Nat := none
  /-- samples of sources 1, 2 and 4: DTIME and UTC, newest first (R284) -/
  samples : List (Nat × Int) := []
  /-- running order (R283) -/
  order   : List Nat := [0, 0, 0, 0]
  /-- source in use, 0 none (R283) -/
  inUse   : Nat := 0
  /-- the source in use has changed since the model took a sample of it (R284) -/
  changed : Bool := false
  /-- the six sources by code -/
  srcs    : Tab TimeSrc := []
  /-- sample waiting for the next catch: source, DTIME, UTC, uncertainty (R284) -/
  pendingS : List (Nat × Nat × Int × Nat) := []
  /-- PPS: last accepted pulse (R35) -/
  ppsAt   : Option Nat := none
  /-- PPS_OUT: last rising edge (R286) -/
  ppsOutAt : Option Nat := none
  deriving DecidableEq, Repr

/-- The audio of one frame period, taken at the aerial from a DTIME on: left and right, none where it is not there (R281). -/
structure AudioFrame where
  at_ : Nat
  lr  : Option (Int × Int)
  deriving DecidableEq, Repr

/-- A time over which the audio of a path is silent, with a fade before and after it or without (R268, R276, R281). -/
structure Mute where
  lf   : Bool
  from_ : Nat
  till : Nat
  fade : Bool
  deriving DecidableEq, Repr

/-- What the audio of a path is made of (R271, R281). -/
structure AudioPath where
  /-- the sample before, I and Q -/
  prev : Int × Int := (0, 0)
  /-- the last 1,200 values, newest first: of the VHF path the multiplex signal as frequency in 2^-40 turn per sample, of the LF and MF
  path the envelope -/
  past : List Int := []
  /-- de-emphasised left and right of the last frame, in 2^-40 turn per sample -/
  deL  : Int := 0
  deR  : Int := 0
  deriving DecidableEq, Repr

/-- Broadcast reception. -/
structure Broadcast where
  /-- audio: what it is made of, the last 512 frames newest first, and the last four silences newest first (R281) -/
  sound : AudioPath := {}
  audio : List AudioFrame := []
  mutes : List Mute := []
  vhf   : BcPath := {}
  lfmf  : BcPath := {}
  rds   : Rds := {}
  af    : AfFollow := {}
  /-- per slot: UTC minute of the last valid time frame, the marker expected next and its UTC (R279) -/
  lfLast : Tab (Int × Nat × Int) := []
  deriving DecidableEq, Repr

/-! ### Streams, TDM, energy and leak (chapters 12 and 13) -/

/-- The block of one stroke of a stream group (R299, R300). -/
structure SBlock where
  stroke  : Nat
  /-- index of the first sample -/
  jFirst  : Nat
  /-- DTIME of the sample at offset o: (tA + o × tP) / tQ -/
  tA      : Nat
  tP      : Nat
  tQ      : Nat
  buffer  : Nat
  gen     : U8
  stages  : Nat
  flags   : U16
  sat     : U8
  changed : U8
  /-- samples at the start of the block that still settle, per channel (R297) -/
  settle  : List Nat
  /-- offset at which a stall ended, from which every channel settles again (R293, R297) -/
  again   : Option Nat := none
  /-- DTIMEs of the samples of an external group, which need not lie evenly (R292, R295) -/
  times   : List Nat := []
  /-- invalid ranges: offset and count (R300) -/
  ranges  : List (Nat × Nat)
  /-- one row of eight words for each sample -/
  rows    : List (List Int)
  deriving DecidableEq, Repr

/-- The decimator of a channel: its bits, newest first, and the delay lines of its stages (R296, R297). -/
structure Decimator where
  bits  : List Bool := []
  lines : List (List Quad) := []
  deriving DecidableEq, Repr

/-- A stream group (R289 to R301). -/
structure Group where
  w       : Word := {}
  /-- DTIME of rising edge 0 (R291) -/
  t0      : Nat := 0
  /-- index of the first sample of the block being filled (R295) -/
  j       : Nat := 0
  /-- STREAM_START in progress: tag, DTIME of edge 0 or of acceptance, external (R294) -/
  starting : Option (U16 × Nat × Bool) := none
  /-- the whole stroke over which an external clock is measured at start (R294) -/
  measure : Option Nat := none
  /-- STREAM_STOP in progress: tag (R294) -/
  stopping : Option U16 := none
  /-- commands on the group that wait for the one in progress, oldest first: tag, and true for a start (R41) -/
  waits   : List (U16 × Bool) := []
  /-- SYN_A failed three relocks: stalled until restarted (R293) -/
  dead    : Bool := false
  /-- rate error of the last whole stroke in ppm (R293) -/
  ratePpm : Int := 0
  /-- input-bit index of the next rising edge (R290) -/
  edge    : Nat := 0
  /-- decimators of the group's eight channels (R296) -/
  deci    : List Decimator := List.replicate 8 {}
  /-- stalls (true) and their ends within the stroke, with their DTIME, newest first (R293) -/
  halts   : List (Nat × Bool) := []
  /-- the decimators stand, as of the last edge, and restart at the next (R293) -/
  halted  : Bool := false
  /-- index and DTIME of the last sample of an external group that was made of bits (R293) -/
  lastAt  : Nat × Nat := (0, 0)
  /-- samples of settling left per channel (R297) -/
  settle  : List Nat := List.replicate 8 0
  /-- channels changed in the block being filled (R298) -/
  changed : U8 := 0
  /-- flags of the block being filled (R300) -/
  flags   : U16 := 0
  /-- samples dropped in the block being filled: offsets (R301) -/
  drops   : List Nat := []
  /-- the blocks posted last, newest first: the two slots of the ring, and those before that energy work of up to four strokes ago may
  pair, whose buffers are still held (R25, R299) -/
  blocks  : List SBlock := []
  /-- buffer of the block being filled (R392; log 30) -/
  buffer  : Nat := 0
  /-- counters: drop_samples, stalls, stall_samples, rate_faults (R316) -/
  dropSamples : U32 := 0
  stalls  : U32 := 0
  stallSamples : U32 := 0
  rateFaults : U32 := 0
  deriving DecidableEq, Repr

/-- Silent frames that the TDM port sends (R311, R312). -/
inductive Silence where
  | none | start | restart
  deriving DecidableEq, Repr

/-- The TDM port (R305 to R316). -/
structure Tdm where
  w       : Word := {}
  /-- TDM_START in progress: tag and DTIME of acceptance (R312) -/
  starting : Option (U16 × Nat) := none
  /-- TDM_STOP in progress: tag (R312) -/
  stopping : Option U16 := none
  /-- commands on the port that wait for the one in progress, oldest first: tag, and true for a start (R41) -/
  waits   : List (U16 × Bool) := []
  silence : Silence := .none
  /-- frame length in BCLK periods (R305) -/
  lf      : Nat := 512
  /-- rate error of the frames against Fs in ppm (R313) -/
  ratePpm : Int := 0
  /-- words in the FIFO, oldest first (R309) -/
  fifo    : List Int := []
  /-- words of the stroke that found the FIFO empty (R310) -/
  missing : Nat := 0
  /-- frames of the stroke that TDM_OVERFLOW has counted already (R310) -/
  excess  : Nat := 0
  /-- audio oscillator cycles of the last stroke, and those left over from its last whole frame (R140) -/
  count   : Nat := 49152
  part    : Nat := 0
  /-- first frame sync of the stroke and number of them, for the last 17 strokes of a slave port, newest first (R313) -/
  fsLog   : List (Nat × Nat) := []
  /-- levels of TDM_FS and TDM_DOUT over the last frame, BCLK period by period, none where the ball is not driven (R305, R306) -/
  frame   : List (Option Bool × Option Bool) := []
  /-- words by which the slots are displaced, modulo the active words (R310) -/
  skew    : Nat := 0
  /-- tuning word w (R140) -/
  tune    : Int := 0
  /-- slave stall in force (R313) -/
  stalled : Bool := false
  underrun : U32 := 0
  overflow : U32 := 0
  slips   : U32 := 0
  restarts : U32 := 0
  invalidWords : U32 := 0
  fsErrors : U32 := 0
  deriving DecidableEq, Repr

/-- What the energy work of one stroke is done under (R317, R320). -/
structure Plan where
  /-- ENERGY_EN, and EN of the circuit -/
  en  : Bool := false
  cir : Bool := false
  v   : Nat := 0
  i   : Nat := 0
  win : Nat := 800
  /-- the counters return to 0 at this stroke (R322) -/
  fresh : Bool := false
  /-- EN, V_CH or I_CH changed at this stroke: the window in progress closes and the next carries RESTART (R322) -/
  mark : Bool := false
  deriving DecidableEq, Repr

/-- The energy work of a stroke that a circuit has not finished (R25, R325). -/
structure Due where
  stroke : Nat
  plan   : Plan
  /-- it is skipped (R25) -/
  skip   : Bool := false
  deriving DecidableEq, Repr

/-- A circuit of section METERING (R317 to R327). -/
structure Circuit where
  /-- the circuit runs (R317) -/
  running : Bool := false
  /-- plan of the stroke in progress -/
  plan    : Plan := {}
  /-- strokes whose work is not finished, oldest first (R25, R325) -/
  due     : List Due := []
  /-- a window is in progress -/
  open_   : Bool := false
  /-- its number k and its length in strokes (R320) -/
  k       : Nat := 0
  win     : Nat := 800
  /-- its channels -/
  wv      : Nat := 0
  wi      : Nat := 0
  /-- the next window carries RESUMED (R321), or SHORT (R322) -/
  resume  : Bool := false
  short   : Bool := false
  sVi     : Int := 0
  sVv     : Int := 0
  sIi     : Int := 0
  used    : U32 := 0
  gaps    : U32 := 0
  crossings : U32 := 0
  /-- first and last crossing in 1/256 reference cycle (R320) -/
  firstX  : Option Nat := none
  lastX   : Nat := 0
  /-- last voltage sample and its DTIME in 1/256 reference cycle -/
  prevV   : Option (Int × Nat) := none
  /-- offset of the voltage index against the current index, fixed at the start of a window (R318) -/
  pairing : Option Int := none
  skew    : Int := 0
  /-- record flags gathered (R323) -/
  flags   : U16 := 0
  eImp    : Nat := 0
  eExp    : Nat := 0
  /-- windows closed and awaiting their record: end and bytes from offset 20 (R325) -/
  closed  : List (Nat × Bytes) := []
  /-- total at the start of the pulse accounting, and pulses counted since (R326) -/
  base    : Nat := 0
  counted : Nat := 0
  pulses  : U32 := 0
  pending : Nat := 0
  /-- pulses were lost since the last record (R326) -/
  pulseLost : Bool := false
  /-- the output is high until, or low until, this DTIME -/
  highTill : Option Nat := none
  lowTill : Option Nat := none
  deriving DecidableEq, Repr

/-- Leak correlation (R329 to R333). -/
structure Leak where
  /-- a run is in progress: pairs left, the first of them in work -/
  run     : Option (List Nat) := none
  /-- the pair in work has been captured -/
  captured : Bool := false
  /-- samples of channel a and of channel b stored in DRAM so far (R329, R394) -/
  n       : Nat := 0
  nB      : Nat := 0
  /-- strokes captured, of which 4,000 make a step, and segment steps made, of the pair in work (R329) -/
  capStrokes : Nat := 0
  segs    : Nat := 0
  /-- of the first sample of each channel: the instant at the pins and the sample period, in 2^-32 reference cycle (R295, R330) -/
  firstA  : Option (Int × Nat) := none
  firstB  : Option (Int × Nat) := none
  /-- captured samples of channels a and b that are invalid or settling, by index (R330) -/
  bad     : List Nat := []
  badB    : List Nat := []
  /-- a group stopped or faulted during the capture -/
  broken  : Bool := false
  done    : Nat := 0
  total   : Nat := 0
  /-- DTIME of the previous start, and of the next -/
  startAt : Nat := 0
  nextAt  : Option Nat := none
  /-- DTIME at which the capture of the pair in work began, later by the time it waited, and at which it ended -/
  beganAt : Nat := 0
  endAt   : Nat := 0
  runs    : U32 := 0
  /-- paused by shedding (R27) -/
  paused  : Bool := false
  stepAt  : Nat := 0
  deriving DecidableEq, Repr

/-- Streams and what is made of them. -/
structure Streams where
  groups   : Tab Group := []
  tdm      : Tdm := {}
  circuits : Tab Circuit := []
  leak     : Leak := {}
  deriving DecidableEq, Repr

/-! ### Sculls (chapters 14 and 15) -/

/-- A branch on its way: delay slots left and the target (R344). -/
structure Branching where
  slots  : Nat
  target : Option U32
  /-- RETI: SR is restored at the end of the second slot -/
  reti   : Bool
  deriving DecidableEq, Repr

/-- A load on its way to its register: instructions still to issue, register code, value, 64-bit (R343). -/
structure Flight where
  left  : Nat
  code  : BitVec 7
  value : U64
  wide  : Bool
  deriving DecidableEq, Repr

/-- A store on its way to memory: instructions still to issue, system address and bytes (R343). An address below 0x100000 is
that of a DMA register in the scull's own view (R390). -/
structure StoreFl where
  left : Nat
  addr : Nat
  bytes : Bytes
  deriving DecidableEq, Repr

/-- A DMA descriptor (R400). -/
structure Desc where
  src : U32
  dst : U32
  len : Nat
  deriving DecidableEq, Repr

/-- A scull with its stroke interface and DMA channel (R336, R357, R400). -/
structure Scull where
  d    : List (BitVec 16) := List.replicate 8 0
  a    : List (BitVec 40) := List.replicate 4 0
  q2   : BitVec 40 := 0
  q3   : BitVec 40 := 0
  p    : List U32 := List.replicate 8 0
  wb   : List U32 := List.replicate 8 0
  wl   : List U32 := List.replicate 8 0
  ws   : List U32 := List.replicate 8 0
  lc   : U16 := 0
  lk   : U16 := 0
  sr   : U16 := 0
  pc   : U32 := 0
  lr   : U32 := 0
  ipc  : U32 := 0
  iss  : U16 := 0
  vb   : U32 := 0
  imr  : U8 := 0
  ipr  : U8 := 0
  fsr  : U16 := 0
  faddr : U32 := 0
  cyc  : U32 := 0
  stkLo : U32 := 0
  stkHi : U32 := 0
  /-- the whole number of the stroke signalled last; STROKE_HI before it is latched (R357) -/
  stroke : Nat := 0
  stkDone : U32 := 0
  missedCnt : U16 := 0
  err  : Bool := false
  behind : Bool := false
  missed : Bool := false
  run  : Bool := false
  inq  : U32 := 0
  /-- issue is stopped by HALT or a halting fault (R371, R352); a scull out of reset is not started -/
  halted : Bool := true
  /-- halted by a fault under R352, to be found at the next catch -/
  dead : Bool := false
  /-- waiting in IDLE (R371) -/
  idle : Bool := false
  /-- branch with its delay slots (R344) -/
  branch : Option Branching := none
  /-- repeat of the next instruction: its address (R346) -/
  rpt  : Option U32 := none
  /-- loop body: first address and length in instructions (R347) -/
  loopAt : U32 := 0
  loopK : Nat := 0
  /-- loads and moves on their way (R343) -/
  flights : List Flight := []
  /-- values of pointer-class registers, LR, IPC and VB that address generation, targets and entry still read, oldest first:
  code, old value, instructions left (R343) -/
  agOld : List (BitVec 7 × U32 × Nat) := []
  /-- flags as the branch class reads them: SR after the instruction before the last (R343) -/
  srPrev : U16 := 0
  /-- IE as interrupt acceptance reads it (R343) -/
  ieSeen : Bool := false
  /-- stores on their way to memory (R343) -/
  stores : List StoreFl := []
  /-- value of the last interface register read (MODEL) -/
  readBus : U32 := 0
  -- DMA channel (R400, R401)
  dmaSrc : U32 := 0
  dmaDst : U32 := 0
  dmaLen : U32 := 0
  /-- queued descriptors, the running one first, at most 4 (R401) -/
  dmaQ : List Desc := []
  /-- DTIME since which the first descriptor waits (R402) -/
  dmaAt : Nat := 0
  doneCnt : U16 := 0
  starved : Bool := false
  ovf  : Bool := false
  dmaErr : Bool := false
  deriving DecidableEq, Repr

/-- A command on a crew that waits for the one in progress (R41): CREW_START, CREW_STOP, or a chunk or the commit of CREW_LOAD. -/
inductive CrewJob where
  | start
  | stop
  | chunk (number pkgLen : Nat) (data : Bytes)
  | commit (pkgLen : Nat)
  deriving DecidableEq, Repr

/-- A crew (R18, R26, R463 to R468). -/
structure Crew where
  w      : Word := {}
  /-- CREW_START waiting for the next catch: tag (0 for an automatic start) -/
  starting : Option U16 := none
  /-- CREW_STOP waiting for the next catch: tag -/
  stopping : Option U16 := none
  /-- commands on the crew that wait for the one in progress, oldest first, each with its tag (R41) -/
  waits  : List (U16 × CrewJob) := []
  /-- first stroke whose completion the crew still owes (R26) -/
  owes   : Nat := 0
  /-- stroke of the last accepted STK_DONE write, or of the start (R36, R360) -/
  doneAt : Nat := 0
  /-- times the crew was found behind (R26) -/
  behindCnt : U32 := 0
  deriving DecidableEq, Repr

/-- The compute array. -/
structure Array_ where
  sculls : Tab Scull := []
  crews  : Tab Crew := []
  deriving DecidableEq, Repr

/-! ### Memories and patrol (chapter 16) -/

/-- The state byte of a memory instance (R395). -/
structure Inst where
  /-- 0 OFF, 1 RETENTION, 2 ON -/
  power : Nat := 2
  failed : Bool := false
  borrowed : Bool := false
  /-- number of the free value that its lost content is; 0 while nothing was lost (R396, MODEL) -/
  lost  : Nat := 0
  deriving DecidableEq, Repr

/-- A patrol engine (R404 to R406). -/
structure Patrol where
  /-- windows of the sweep still to test, next first: system addresses (R404) -/
  left     : List Nat := []
  /-- the window in work, with true while it is written back after being abandoned -/
  now      : Option (Nat × Bool) := none
  /-- windows to retry: address, windows still to pass, times abandoned -/
  retry    : List (Nat × Nat × Nat) := []
  deriving DecidableEq, Repr

/-- Memories, their instances and patrol. -/
structure Mems where
  /-- the DRAM is in self-refresh on the reference clock: accesses stall (R137) -/
  refresh : Bool := false
  /-- bytes by system address; an unlisted byte reads 0 (R389; log 2) -/
  cells   : List Host.Cell := []
  /-- addresses written since their instance lost its content, rising (MODEL) -/
  fresh   : List Nat := []
  /-- state of each of the 384 instances (R395) -/
  insts   : Tab Inst := []
  engines : Tab Patrol := []
  /-- a sweep is running: windows done, windows in all, DTIME of its last step (R404) -/
  sweep   : Option (Nat × Nat × Nat) := none
  /-- DTIME at which the last sweep started, and at which the next is due (R404) -/
  sweepAt : Nat := 0
  nextSweep : Option Nat := none
  /-- counters of R408, in the order of its table up to restore_fail -/
  counters : List U32 := List.replicate 10 0
  lastFail : U32 := 0
  /-- DMA channels 64 to 69 whose request is starved: stream groups, spill, the Cox (R402) -/
  starved : List Nat := []
  /-- DTIME of the last grant of the channels 64 to 69, by number (R402) -/
  granted : Tab Nat := []
  /-- sculls on which no more Molrel work is placed (R407) -/
  badSculls : List Nat := []
  deriving DecidableEq, Repr

/-! ### Trim and rigging (chapter 17) -/

/-- The trim item in progress (R412, R417). -/
structure TrimNow where
  code     : Nat
  started  : Nat
  /-- DTIME at which it was paused -/
  paused   : Option Nat
  /-- part of TRIM_RUN -/
  ofRun    : Bool
  /-- DTIME from which its steps are counted: its start, or its last resumption (R412, R251) -/
  steps    : Nat := 0
  deriving DecidableEq, Repr

/-- The margin ledger (R429). -/
structure Ledger where
  lastSurvey : Nat := 0
  surveys  : U32 := 0
  relocks  : U32 := 0
  /-- ledger floor in mV (R423) -/
  vfloor   : Nat := 650
  vcore    : Nat := 0
  tempMax  : Int := 0
  flags    : U16 := 0
  /-- twelve ring monitors: slack and change since the first survey (R420) -/
  ring     : List (Int × Int) := List.replicate 12 (0, 0)
  /-- slack at the first survey, for the change (MODEL) -/
  ringFirst : Option (List Int) := none
  /-- bands H and L: headroom and bias code -/
  pa       : List (Int × Nat) := List.replicate 2 (0, 0)
  /-- RFH_A and RFL_A: last return loss and its DTIME -/
  rl       : List (Nat × Nat) := List.replicate 2 (0, 0)
  /-- by synthesiser: lowest cache margin and entries re-planned -/
  vco      : List (Nat × Nat) := List.replicate 6 (0, 0)
  drift    : Int := 0
  slope    : Int := 0
  /-- drifts of the last 30 surveys: hour and drift, newest first (R427) -/
  drifts   : List (Nat × Int) := []
  /-- planned interval in hours (R424) -/
  interval : Nat := 24
  patrolFails : U32 := 0
  lastFail : U32 := 0
  trimFails : U32 := 0
  hours    : U32 := 0
  equivHours : U32 := 0
  lifeUsed : Nat := 0
  /-- survey base in mV (R423) -/
  vbase    : Nat := 635
  deriving DecidableEq, Repr

/-- Service since the last whole hour and since the last survey (R428). -/
structure Service where
  /-- DTIME up to which hours are closed -/
  from_  : Nat := 0
  /-- sums over the catches since then: die temperature in 1/16 degree C, VDD_CORE in mV, and their number -/
  temps  : Int := 0
  volts  : Int := 0
  n      : Nat := 0
  /-- hours closed and acceleration factors summed since the last survey, in 2^-32 hour -/
  hours  : Nat := 0
  equiv  : Nat := 0
  deriving DecidableEq, Repr

/-- Trim and rigging. -/
structure Trim where
  /-- converter values in force by item code (R409, R411; log 6) -/
  values  : Tab (List Int) := []
  /-- values to be applied at the next catch (R416) -/
  apply   : List (Nat × List Int) := []
  /-- DTIME and die temperature of the last pass, by item code (R418) -/
  passed  : Tab (Nat × Int) := []
  /-- measured value of the last pass, by item code (R424) -/
  last    : Tab Int := []
  /-- largest change between successive passes since the previous survey, for automatic image items in 0.1 dB and for
  automatic gain items in 0.01 dB; none while no such item passed (R424) -/
  chgImage : Option Nat := none
  chgGain : Option Nat := none
  /-- highest die temperature since the previous survey, 1/16 degree C (R429) -/
  tempMax : Int := 0
  /-- an automatic item failed since the previous survey (R424) -/
  anyFail : Bool := false
  /-- items marked for an automatic run (R414) -/
  marked  : List Nat := []
  /-- automatic items that wait for a state in which they run, or for their windows to pass, with the DTIME at which each fell
  due (R418) -/
  waiting : List (Nat × Nat) := []
  /-- items to run, first next; true when part of TRIM_RUN -/
  queue   : List (Nat × Bool) := []
  now     : Option TrimNow := none
  /-- TRIM_RUN outstanding: tag and items failed (R413) -/
  run     : Option (U16 × Nat) := none
  /-- survey running: tag (0 daily), its receipt (R420) -/
  survey  : Option U16 := none
  /-- parts of the survey that are done, 0 to 5 (R420) -/
  surveyDone : Nat := 0
  /-- DTIME of the last progress step of the survey (R34) -/
  surveyAt : Nat := 0
  /-- DTIME at which the last daily survey fell due (R420) -/
  dailyAt : Nat := 0
  /-- re-plans waiting for the first catch, with true when PLAN_OFF leaves only the floor (R421) -/
  replan  : Option Bool := none
  /-- no survey has run since power-on reset (R423) -/
  firstSurvey : Bool := true
  /-- die temperature in 1/16 degree C (R47; log 9) -/
  dieTemp : Int := 0
  service : Service := {}
  ledger  : Ledger := {}
  deriving DecidableEq, Repr

/-! ### Power (chapter 18) -/

/-- Power states and the planner. -/
structure Power where
  st       : PowerSt := .row
  /-- entry in progress toward this state, begun at the catch (R433) -/
  entering : Option PowerSt := none
  /-- on the way back to ROW after a wake (R435) -/
  waking   : Bool := false
  /-- the wake came from the host (R437) -/
  wakeHost : Bool := false
  /-- policy in force and its limit (R438) -/
  policy   : Nat := 0
  deepest  : Nat := 0
  /-- policy held for the rise of MAINS_GPIO (R445) -/
  saved    : Option (Nat × Nat) := none
  /-- change of policy waiting for the next catch (R445) -/
  change   : Option (Nat × Nat) := none
  /-- pending wakes: cookie and DTIME, at most 16 (R440) -/
  wakes    : List (U32 × Nat) := []
  /-- wake timer (R436) -/
  timer    : Option Nat := none
  /-- end of WAKE_HOLD (R437) -/
  holdTill : Nat := 0
  /-- VDD_CORE target in mV (R446) -/
  coreMv   : Nat := 650
  /-- voltage change under way: target, tries made (R447) -/
  vChange  : Option (Nat × Nat) := none
  /-- PMBus writes sent, newest first: command code and data (R448, MODEL: the wire) -/
  pmbus    : List (Nat × Nat) := []
  /-- VOUT_MODE read at boot is linear; its exponent (R448; log 10) -/
  voutLinear : Bool := true
  voutExp  : Int := -9
  /-- flag fall source 0x02 is in force (R439) -/
  i2cFail  : Bool := false
  /-- VDD_RF is outside its range (R106) -/
  rfBad    : Bool := false
  /-- MAINS_GPIO is low (R445) -/
  mainsLow : Bool := false
  /-- vigil: pairs listening, H and L, and the DTIME at which a scan ends (R441, R443) -/
  listenH  : Bool := false
  listenL  : Bool := false
  scanTill : Option Nat := none
  scanAt   : Nat := 0
  /-- scull idle strokes in a row (R432) -/
  idleStk  : Tab Nat := []
  /-- catches in a row at which a lower SYN_C ratio would do (R432) -/
  lowCatches : Nat := 0
  deriving DecidableEq, Repr

/-! ### Boot, firmware, crew packages, field access (chapter 19) -/

/-- A firmware slot, as its header and the checks over its body give it (R454). -/
structure FwSlot where
  /-- the slot's content -/
  bytes  : Bytes := []
  /-- the slot holds the image of production, whose bytes the spec does not give; it passes the checks of R454 with both of its
  versions 0 (MODEL, log 32) -/
  factory : Bool := false
  /-- marked failed (R456) -/
  failed : Bool := false
  deriving DecidableEq, Repr

/-- A chunked load in progress (R460). -/
structure Load where
  pkgLen : Nat
  /-- length of chunk 0 -/
  chunkLen : Nat
  /-- number of the next chunk, and the bytes received so far -/
  next   : Nat
  got    : Nat
  deriving DecidableEq, Repr

/-- Boot, flash, fuses and field access. -/
structure Boot where
  cause    : ResetCause := .powerOn
  /-- boot step in progress, 1 to 8; 0 when READY has been set or the device is held in reset (R456) -/
  step     : Nat := 1
  /-- held in reset by RESET_N, VDD_AON or temperature (R484) -/
  held     : Bool := false
  recovery : Bool := false
  /-- production test mode (R478) -/
  testMode : Bool := false
  /-- boots in a row without READY (R458, in PD_AON) -/
  fails    : Nat := 0
  slotA    : FwSlot := { factory := true }
  slotB    : FwSlot := {}
  /-- the slot that booted, confirmed, pending: false A, true B (R456) -/
  booted   : Bool := false
  confirmed : Bool := false
  pendingS : Option Bool := none
  trials   : Nat := 0
  /-- a trial boot is running and is not confirmed (R462) -/
  trial    : Bool := false
  /-- DTIME at which READY was set -/
  readyAt  : Nat := 0
  /-- fuses blown of the anti-rollback counter (R455) -/
  rollback : Nat := 0
  fwVersion : U32 := 0
  secVersion : U32 := 0
  /-- device identifier and stepping that the firmware reads (R4) -/
  devId    : U16 := 0x7216
  stepping : U8 := 0xB1
  serial   : U64 := 0
  /-- fused hash check of the root key, the root key and the key-wrapping key (R450, R469; log 11) -/
  rootKey  : Bytes := []
  wrapKey  : Bytes := List.replicate 32 0
  /-- fused maker_id (R451) -/
  makerId  : Option U32 := none
  /-- maker certificate in the flash (R451) -/
  makerCert : Bytes := []
  /-- maker key accepted at this boot -/
  makerKey : Option Bytes := none
  /-- configuration image in the flash (R453) -/
  cfgImage : Bytes := []
  /-- ledger copies in the flash: sequence and ledger, when valid (R452) -/
  ledger0  : Option (U32 × Ledger) := none
  ledger1  : Option (U32 × Ledger) := none
  /-- package halves of crews 6 and 7: content, and which half is current (R450, R466) -/
  pkg6     : List Bytes := [[], []]
  pkg7     : List Bytes := [[], []]
  cur6     : Option Bool := none
  cur7     : Option Bool := none
  /-- flag falls of steps 6 and 7, to be reported once READY is set (R458) -/
  lateFalls : List Nat := []
  fwLoad   : Option Load := none
  /-- firmware commit in progress: tag and package length (R461) -/
  fwCommit : Option (U16 × Nat) := none
  crewLoad : Tab Load := []
  /-- crew commits in progress, by crew: tag and package length (R466) -/
  crewCommit : Tab (U16 × Nat) := []
  /-- DTIME of a successful firmware commit's final reply (R461) -/
  resetDue : Option Nat := none
  /-- open challenge: scope, nonce, duration, DTIME drawn (R472) -/
  challenge : Option (Nat × Bytes × Nat × Nat) := none
  /-- open scopes: number and closing DTIME (R472) -/
  scopes   : List (Nat × Nat) := []
  /-- Ethernet address fused at production, first octet first (R56; log 151) -/
  mac      : Bytes := List.replicate 6 0
  /-- IEEE 1149.1 instruction register, 5 bits (R481) -/
  ir       : BitVec 5 := 0x01
  /-- IEEE 1149.1 identification register, 32 bits, read only (R481) -/
  idReg    : U32 := 0xB7216593
  /-- IEEE 1149.1 data register that the instruction selects, as it captures at the update, the bit shifted out first in front (R481) -/
  dr       : List Bool := []
  /-- what the copy of the SRAM in DRAM held when it was made: it stands for the SHA-256 of the copy in PD_AON (R470; log 174) -/
  sramCopy : Option (List Host.Cell) := none
  deriving DecidableEq, Repr

/-- Pins that hold a level of their own (R260, R286, R326, R478). -/
structure Pins where
  /-- HOST_IRQ_N on GPIO0; true is high (R52) -/
  irqN    : Bool := true
  ppsOut  : Bool := false
  /-- GPIOs driven high as pulse outputs, by number (R326) -/
  pulses  : List Nat := []
  /-- TEST_EN as sampled at the release of reset (R478; log 12) -/
  testEn  : Bool := false
  /-- RESET_N is low (R35) -/
  resetLow : Bool := false
  /-- digital filter of each GPIO in reference cycles, 0 to 65,535 (R35) -/
  gpioFilter : List Nat := List.replicate 16 384
  deriving DecidableEq, Repr

/-- The machine. -/
structure State where
  /-- commands waiting, first in first out -/
  pending : List Instr := []
  /-- DTIME, reference cycles since the release of reset (R7) -/
  dtime   : Nat := 0
  /-- number of the stroke whose catch came last (R9) -/
  stroke  : Nat := 0
  /-- MODEL: counter of free values drawn (log 1) -/
  fresh   : Nat := 0
  links   : Links := {}
  cnt     : Counters := {}
  dlv     : Delivery := {}
  cfg     : ConfigSets := {}
  /-- the five chains by index (R88) -/
  chains  : Tab Chain := []
  /-- the six gain paths (R93) -/
  gains   : Tab Gain := []
  /-- the six synthesisers by index (R125) -/
  synths  : Tab Synth := []
  clk     : Clocks := {}
  rx      : Reception := {}
  dir     : Directory := {}
  tx      : Transmit := {}
  bc      : Broadcast := {}
  time    : TimeD := {}
  str     : Streams := {}
  arr     : Array_ := {}
  mem     : Mems := {}
  trim    : Trim := {}
  pwr     : Power := {}
  boot    : Boot := {}
  pins    : Pins := {}
  deriving DecidableEq, Repr

/-- The machine right after the release of a power-on reset: every field at the value its docstring names. -/
def State.reset : State := {}

end Sys2Proof.Machine
end

