-- ==== Sys2Proof/Machine/Ops.lean ====
section
/-! DEFINITION. Named operations over the state: unit tables, configuration fields, unit state words, the console,
events and time. Every meaning is written over these. -/

namespace Sys2Proof.Machine

/-- What a meaning answers. -/
abbrev Out := Host.Outcome State Fault Refusal

/-- Reference cycles in a millisecond (R7). -/
def ms : Nat := 38400
/-- Reference cycles in a second (R7). -/
def sec : Nat := 38400000

/-! ### Unit tables -/

def State.chain (s : State) (i : Nat) : Chain := getT {} s.chains i
def State.setChain (s : State) (i : Nat) (c : Chain) : State := { s with chains := putT s.chains i c }
def State.gain (s : State) (i : Nat) : Gain := getT {} s.gains i
def State.setGain (s : State) (i : Nat) (g : Gain) : State := { s with gains := putT s.gains i g }
def State.synth (s : State) (i : Nat) : Synth := getT {} s.synths i
def State.setSynth (s : State) (i : Nat) (x : Synth) : State := { s with synths := putT s.synths i x }
def State.lane (s : State) (i : Nat) : Lane := getT {} s.rx.lanes i
def State.setLane (s : State) (i : Nat) (x : Lane) : State := { s with rx := { s.rx with lanes := putT s.rx.lanes i x } }
def State.ctx (s : State) (i : Nat) : Ctx := getT {} s.rx.ctxs i
def State.setCtx (s : State) (i : Nat) (x : Ctx) : State := { s with rx := { s.rx with ctxs := putT s.rx.ctxs i x } }
def State.group (s : State) (i : Nat) : Group := getT {} s.str.groups i
def State.setGroup (s : State) (i : Nat) (x : Group) : State := { s with str := { s.str with groups := putT s.str.groups i x } }
def State.setTdm (s : State) (x : Tdm) : State := { s with str := { s.str with tdm := x } }
def State.circuit (s : State) (i : Nat) : Circuit := getT {} s.str.circuits i
def State.setCircuit (s : State) (i : Nat) (x : Circuit) : State := { s with str := { s.str with circuits := putT s.str.circuits i x } }
def State.scull (s : State) (i : Nat) : Scull := getT {} s.arr.sculls i
def State.setScull (s : State) (i : Nat) (x : Scull) : State := { s with arr := { s.arr with sculls := putT s.arr.sculls i x } }
def State.crew (s : State) (i : Nat) : Crew := getT {} s.arr.crews i
def State.setCrew (s : State) (i : Nat) (x : Crew) : State := { s with arr := { s.arr with crews := putT s.arr.crews i x } }
def State.inst (s : State) (i : Nat) : Inst := getT {} s.mem.insts i
def State.setInst (s : State) (i : Nat) (x : Inst) : State := { s with mem := { s.mem with insts := putT s.mem.insts i x } }
def State.entry (s : State) (i : Nat) : DirEntry := getT {} s.dir.entries i
def State.setEntry (s : State) (i : Nat) (x : DirEntry) : State := { s with dir := { s.dir with entries := putT s.dir.entries i x } }
/-- The transmitter of a band. -/
def State.txb (s : State) : Band → TxBand
  | .h => s.tx.h
  | .l => s.tx.l
def State.setTxb (s : State) (b : Band) (x : TxBand) : State :=
  match b with
  | .h => { s with tx := { s.tx with h := x } }
  | .l => { s with tx := { s.tx with l := x } }

/-! ### Small updates of one part -/

def State.onLinks (s : State) (f : Links → Links) : State := { s with links := f s.links }
def State.onCnt (s : State) (f : Counters → Counters) : State := { s with cnt := f s.cnt }
def State.onDlv (s : State) (f : Delivery → Delivery) : State := { s with dlv := f s.dlv }
def State.onCfg (s : State) (f : ConfigSets → ConfigSets) : State := { s with cfg := f s.cfg }
def State.onRx (s : State) (f : Reception → Reception) : State := { s with rx := f s.rx }
def State.onDir (s : State) (f : Directory → Directory) : State := { s with dir := f s.dir }
def State.onTx (s : State) (f : Transmit → Transmit) : State := { s with tx := f s.tx }
def State.onBc (s : State) (f : Broadcast → Broadcast) : State := { s with bc := f s.bc }
def State.onTime (s : State) (f : TimeD → TimeD) : State := { s with time := f s.time }
def State.onMem (s : State) (f : Mems → Mems) : State := { s with mem := f s.mem }
def State.onTrim (s : State) (f : Trim → Trim) : State := { s with trim := f s.trim }
def State.onPwr (s : State) (f : Power → Power) : State := { s with pwr := f s.pwr }
def State.onBoot (s : State) (f : Boot → Boot) : State := { s with boot := f s.boot }
def State.onPins (s : State) (f : Pins → Pins) : State := { s with pins := f s.pins }
def State.onClk (s : State) (f : Clocks → Clocks) : State := { s with clk := f s.clk }
def State.onLeak (s : State) (f : Leak → Leak) : State := { s with str := { s.str with leak := f s.str.leak } }
def State.onCap (s : State) (f : CapCounters → CapCounters) : State := { s with rx := { s.rx with cap := f s.rx.cap } }
def State.onEng (s : State) (f : EngCounters → EngCounters) : State := { s with rx := { s.rx with eng := f s.rx.eng } }
def State.onLane (s : State) (i : Nat) (f : Lane → Lane) : State := s.setLane i (f (s.lane i))
def State.onCtx (s : State) (i : Nat) (f : Ctx → Ctx) : State := s.setCtx i (f (s.ctx i))
def State.onChain (s : State) (i : Nat) (f : Chain → Chain) : State := s.setChain i (f (s.chain i))
def State.onSynth (s : State) (i : Nat) (f : Synth → Synth) : State := s.setSynth i (f (s.synth i))
def State.onGain (s : State) (i : Nat) (f : Gain → Gain) : State := s.setGain i (f (s.gain i))
def State.onGroup (s : State) (i : Nat) (f : Group → Group) : State := s.setGroup i (f (s.group i))
def State.onTdm (s : State) (f : Tdm → Tdm) : State := s.setTdm (f s.str.tdm)
def State.onCircuit (s : State) (i : Nat) (f : Circuit → Circuit) : State := s.setCircuit i (f (s.circuit i))
def State.onScull (s : State) (i : Nat) (f : Scull → Scull) : State := s.setScull i (f (s.scull i))
def State.onCrew (s : State) (i : Nat) (f : Crew → Crew) : State := s.setCrew i (f (s.crew i))
def State.onInst (s : State) (i : Nat) (f : Inst → Inst) : State := s.setInst i (f (s.inst i))
def State.onEntry (s : State) (i : Nat) (f : DirEntry → DirEntry) : State := s.setEntry i (f (s.entry i))
def State.onTxb (s : State) (b : Band) (f : TxBand → TxBand) : State := s.setTxb b (f (s.txb b))

/-- `l` with entry `i` changed. -/
def modifyAt {α : Type} (f : α → α) : List α → Nat → List α
  | [], _ => []
  | x :: xs, 0 => f x :: xs
  | x :: xs, i + 1 => x :: modifyAt f xs i

/-- `l` with entry `i` replaced. -/
def setAt {α : Type} (v : α) (l : List α) (i : Nat) : List α := modifyAt (fun _ => v) l i

/-- `f` applied for each number of a list in turn. -/
def State.each {α : Type} (s : State) (l : List α) (f : State → α → State) : State := l.foldl f s

/-- `s` changed only where `c` holds. -/
def State.when (s : State) (c : Bool) (f : State → State) : State := if c then f s else s

/-! ### Time (R7, R9) -/

/-- DTIME advanced to an instant, when that lies ahead; it stands still while the reference is stopped (R7). -/
def State.at (s : State) (t : Nat) : State := if s.clk.stopped then s else { s with dtime := max s.dtime t }

/-- The number of the present stroke: floor (DTIME / 9,600) (R9). -/
def State.strokeNow (s : State) : Nat := s.dtime / strokeLen

/-- The next fresh number for a free value (log 1). -/
def State.draw (s : State) : State := { s with fresh := s.fresh + 1 }

/-! ### Configuration fields (R66, R71) -/

/-- Where the byte at `ofs` of section `sec` is held. -/
def cfgKey (sec ofs : Nat) : Nat := sec * 65536 + ofs

/-- Reset content of the configuration sets: every byte 0 but those for which a chapter states another
(R56: HOLD_MS 1, UDP_PORT 47,000, PHY_ADDR 0xFF; R438: PMIC_PAGE and MAINS_GPIO 0xFF). -/
def cfgReset (k : Nat) : U8 :=
  if k == cfgKey 10 1 then 1
  else if k == cfgKey 10 2 then 0x98
  else if k == cfgKey 10 3 then 0xB7
  else if k == cfgKey 10 13 then 0xFF
  else if k == cfgKey 9 9 then 0xFF
  else if k == cfgKey 9 10 then 0xFF
  else 0

/-- An unsigned field of a set: `n` bytes at `ofs` of section `sec`. -/
def setNat (set : List Host.Cell) (sec ofs n : Nat) : Nat := ofLe (readCells cfgReset set (cfgKey sec ofs) n)

/-- A signed field of a set. -/
def setInt (set : List Host.Cell) (sec ofs n : Nat) : Int := signed (8 * n) (setNat set sec ofs n)

/-- An unsigned field of the active set. -/
def State.cfgNat (s : State) (sec ofs n : Nat) : Nat := setNat s.cfg.active sec ofs n
/-- A signed field of the active set. -/
def State.cfgInt (s : State) (sec ofs n : Nat) : Int := setInt s.cfg.active sec ofs n
/-- Bits of a byte of the active set. -/
def State.cfgBits (s : State) (sec ofs lo n : Nat) : Nat := bitsOf (s.cfgNat sec ofs 1) lo n
/-- A bit of a byte of the active set. -/
def State.cfgBit (s : State) (sec ofs i : Nat) : Bool := bitOf (s.cfgNat sec ofs 1) i

/-! ### State words (R81, R82) -/

/-- GEN advanced by one, once for each reference cycle (R82). -/
def Word.bump (t : Nat) (w : Word) : Word :=
  if w.genAt == some t then w else { w with gen := w.gen + 1, genAt := some t }

/-- A change of STATE, with the advance of GEN it brings (R82). -/
def Word.move (t st : Nat) (w : Word) : Word :=
  if w.st == st then w else { w.bump t with st := st, touched := true }

/-- The word as DIAG_PEEK and EV_STATE_AUDIT show it (R81). -/
def Word.bits (w : Word) : Nat := w.gen.toNat * 256 + w.st

/-- Codes of R83. -/
def ChainSt.code : ChainSt → Nat
  | .sleep => 0 | .standby => 1 | .synth => 2 | .receive => 3 | .transmit => 4 | .fault => 5
def SynSt.code : SynSt → Nat
  | .off => 0 | .search => 1 | .locked => 2 | .fallback => 3 | .lost => 4
def LaneSt.code : LaneSt → Nat
  | .off => 0 | .running => 1 | .blanked => 2
def CrewSt.code : CrewSt → Nat
  | .off => 0 | .molrel => 1 | .customerLoaded => 2 | .customerRunning => 3 | .faulted => 4
def GroupSt.code : GroupSt → Nat
  | .stopped => 0 | .running => 1 | .stalled => 2 | .rateFault => 3
def TdmSt.code : TdmSt → Nat
  | .stopped => 0 | .running => 1 | .slipped => 2
def PowerSt.code : PowerSt → Nat
  | .row => 0 | .paddle => 1 | .easy => 2 | .feather => 3 | .ashore => 4
def ResetCause.code : ResetCause → Nat
  | .powerOn => 0 | .resetN => 1 | .refLoss => 2 | .watchdog => 3 | .fwUpdate => 4 | .testPort => 5 | .coreSupply => 6 | .overTemp => 7

/-- The chain state of a code. -/
def ChainSt.ofCode : Nat → ChainSt
  | 1 => .standby | 2 => .synth | 3 => .receive | 4 => .transmit | 5 => .fault | _ => .sleep

def State.chainSt (s : State) (i : Nat) : ChainSt := ChainSt.ofCode (s.chain i).w.st
def State.chainIs (s : State) (i : Nat) (x : ChainSt) : Bool := (s.chain i).w.st == x.code
def State.synIs (s : State) (i : Nat) (x : SynSt) : Bool := (s.synth i).w.st == x.code
def State.laneIs (s : State) (i : Nat) (x : LaneSt) : Bool := (s.lane i).w.st == x.code
def State.crewIs (s : State) (i : Nat) (x : CrewSt) : Bool := (s.crew i).w.st == x.code
def State.groupIs (s : State) (i : Nat) (x : GroupSt) : Bool := (s.group i).w.st == x.code
def State.tdmIs (s : State) (x : TdmSt) : Bool := s.str.tdm.w.st == x.code

def State.moveSyn (s : State) (i : Nat) (x : SynSt) : State := s.onSynth i fun y => { y with w := y.w.move s.dtime x.code }
def State.moveLane (s : State) (i : Nat) (x : LaneSt) : State := s.onLane i fun y => { y with w := y.w.move s.dtime x.code }
def State.moveCrew (s : State) (i : Nat) (x : CrewSt) : State := s.onCrew i fun y => { y with w := y.w.move s.dtime x.code }
def State.moveGroup (s : State) (i : Nat) (x : GroupSt) : State := s.onGroup i fun y => { y with w := y.w.move s.dtime x.code }
def State.moveTdm (s : State) (x : TdmSt) : State := s.onTdm fun y => { y with w := y.w.move s.dtime x.code }
/-- A chain enters a state: its word moves, the DTIME of entry is kept (R82, R105), and entries into RECEIVE and exits are noted for the
samples of the stroke (R101, R158). -/
def State.moveChain (s : State) (i : Nat) (x : ChainSt) : State :=
  s.onChain i fun y =>
    if y.w.st == x.code then y
    else { y with w := y.w.move s.dtime x.code, entered := s.dtime
                  rxLog := if (x == .receive) == (y.w.st == ChainSt.receive.code) then y.rxLog else (s.dtime, x == .receive) :: y.rxLog }

/-- The state word of a unit by event unit kind and index (R83). -/
def State.wordOf (s : State) (kind idx : Nat) : Option Word :=
  match kind with
  | 1 => some (s.chain idx).w
  | 2 => some (s.lane idx).w
  | 3 => some (s.crew idx).w
  | 4 => some (if idx == 4 then s.str.tdm.w else (s.group idx).w)
  | 5 => some (s.synth idx).w
  | _ => none

/-- The state word of a unit replaced. -/
def State.setWord (s : State) (kind idx : Nat) (w : Word) : State :=
  match kind with
  | 1 => s.onChain idx fun y => { y with w := w }
  | 2 => s.onLane idx fun y => { y with w := w }
  | 3 => s.onCrew idx fun y => { y with w := w }
  | 4 => if idx == 4 then s.onTdm fun y => { y with w := w } else s.onGroup idx fun y => { y with w := w }
  | 5 => s.onSynth idx fun y => { y with w := w }
  | _ => s

/-! ### Console (R58, R478) -/

/-- Bytes the UART sends in `dt` cycles at 115,200 baud, ten bits a byte (R478). -/
def uartDrain (dt : Nat) : Nat := dt * 11520 / 38400000

/-- A line offered to the 4 KiB transmit buffer: dropped whole when it does not fit (R58). 16 digits of DTIME, the
text and the line end count. -/
def State.console (s : State) (text : String) : State :=
  let fill := s.links.uartFill - uartDrain (s.dtime - s.links.uartAt)
  let n := 18 + text.length
  if 4096 < fill + n then s
  else s.onLinks fun l => { l with uartFill := fill + n, uartAt := s.dtime, uartTx := (s.dtime, text) :: l.uartTx }

/-! ### Events (R63, R64) -/

/-- Event names, for the console line of R58. -/
def evName : Nat → String
  | 0x8001 => "EV_LOCK_LOST" | 0x8002 => "EV_MISSED_STROKE" | 0x8003 => "EV_TRIM_FAIL" | 0x8004 => "EV_MISMATCH"
  | 0x8005 => "EV_SLOT_SLIP" | 0x8006 => "EV_STREAM_FAULT" | 0x8007 => "EV_UMPIRE_DENY" | 0x8008 => "EV_STATE_AUDIT"
  | 0x8009 => "EV_METER_MISSING" | 0x800A => "EV_FLAG_FALL" | 0x800B => "EV_PROGRESS" | 0x800C => "EV_CASTLED"
  | 0x800D => "EV_DMA_STARVED" | _ => "EV_QUEUE_DROP"

/-- The 12-byte prefix of an event payload (R63). -/
def evPrefix (t kind gen idx : Nat) : Bytes := le 8 t ++ le 1 kind ++ le 1 gen ++ le 2 (if 65535 < idx then 65535 else idx)

/-- The console line of an event that is sent: its name, unit kind and unit index (R58). -/
def State.eventLine (s : State) (m : OutMsg) : State :=
  if m.kind == .event then
    s.console (evName m.opcode ++ " " ++ toString (ofLe ((m.payload.drop 8).take 1)) ++ " " ++ toString (ofLe ((m.payload.drop 10).take 2)))
  else s

/-- The console line of a flag fall: the source code of R36, or the name of a wait that has none (R58; log 118). -/
def State.fallLine (s : State) (what : String) : State := s.console ("flag fall " ++ what)

/-- An event put into its queue of 256 entries, or dropped and counted (R64). -/
def State.pushEvent (s : State) (code kind gen idx : Nat) (fields : Bytes) : State :=
  let m : OutMsg := { kind := .event, opcode := code, tag := 0, flags := 0, status := 0
                      payload := evPrefix s.dtime kind gen idx ++ fields, dst := .spi, recs := [] }
  if s.links.events.length < 256 then
    s.onLinks fun l => { l with events := l.events ++ [m] }
  else (s.onCnt fun c => { c with eventsLost := c.eventsLost + 1 }).onLinks fun l => { l with evLost := true }

/-- The comparison of R87 between a unit's word and its management copy. Equal generations with different states raise
EV_STATE_AUDIT; the hardware state wins and BUMP is written. -/
def State.audit (s : State) (kind idx : Nat) : State :=
  match s.wordOf kind idx with
  | none => s
  | some w =>
    if w.gen != w.mgGen then s.setWord kind idx { w with mgGen := w.gen, mgSt := w.st }
    else if w.st != w.mgSt then
      let w2 := { w with gen := w.gen + 1, genAt := some s.dtime, mgGen := w.gen + 1, mgSt := w.st }
      (s.pushEvent 0x8008 kind w.gen.toNat idx (le 2 w.bits ++ le 2 (w.mgGen.toNat * 256 + w.mgSt))).setWord kind idx w2
    else s

/-- GEN of a unit's word, 0 for a unit that has none (R83, R85). -/
def State.genOf (s : State) (kind idx : Nat) : Nat :=
  match s.wordOf kind idx with
  | some w => w.gen.toNat
  | none => 0

/-- An event about a unit, after the comparison that every report makes (R63, R85, R86). -/
def State.raise (s : State) (code kind idx : Nat) (fields : Bytes) : State :=
  let s1 := s.audit kind idx
  s1.pushEvent code kind (s1.genOf kind idx) idx fields

/-- EV_FLAG_FALL with its source and detail (R36, R495), and the console line of a flag fall (R58). -/
def State.flagFall (s : State) (source detail : Nat) : State :=
  (s.pushEvent 0x800A 0 0 0 (le 1 source ++ le 3 0 ++ le 4 detail)).fallLine (toString source)

/-- EV_MISSED_STROKE with the counts accumulated since the previous one, no more often than once in 4,000 strokes (R29). A missed stroke
that falls into the 4,000 strokes after an event is reported at the first catch after them, and does not wait for the next missed stroke:
the rule does not say which (log 155). -/
def State.missedEvent (s : State) : State :=
  let c := s.cnt
  if c.accOverrun == 0 && c.accSkipped == 0 && c.accMissed.all (· == 0) then s
  else
    let free := match s.links.missedEvAt with
      | none => true
      | some k => decide (k + 4000 ≤ s.strokeNow)
    if free then
      let s1 := s.pushEvent 0x8002 0 0 0
        (le 4 c.accOverrun.toNat ++ (c.accMissed.map fun x => le 4 x.toNat).flatten ++ le 4 c.accSkipped.toNat)
      (s1.onCnt fun c => { c with accOverrun := 0, accSkipped := 0, accMissed := List.replicate 8 0 }).onLinks
        fun l => { l with missedEvAt := some s.strokeNow }
    else s

/-- EV_QUEUE_DROP with the first number dropped and the count, at most once in 4,000 strokes (R63). -/
def State.dropEvent (s : State) : State :=
  if s.links.dropCount == 0 then s
  else
    let free := match s.links.dropEvAt with
      | none => true
      | some k => decide (k + 4000 ≤ s.strokeNow)
    if free then
      (s.pushEvent 0x800E 0 0 0 (le 4 s.links.dropFirst.toNat ++ le 4 s.links.dropCount.toNat)).onLinks
        fun l => { l with dropEvAt := some s.strokeNow, dropCount := 0 }
    else s

end Sys2Proof.Machine
end

