-- ==== Sys2Proof/Machine/Flags.lean ====
section
/-! DEFINITION. SR and the flag computations of the sculls: 40-bit and 16-bit arithmetic, shifts, stores, division and the
conditions (R337, R353, R354, R372, R375 to R387). -/

namespace Sys2Proof.Machine

/-! ### SR (R337) -/

def srZ : Nat := 0
def srN : Nat := 1
def srC : Nat := 2
def srV : Nat := 3
def srAV : Nat := 4
def srSV : Nat := 5
def srCW : Nat := 6
def srDQ : Nat := 7
def srIE : Nat := 15

/-- A bit of a 16-bit register set or cleared. -/
def putBit (w : U16) (i : Nat) (b : Bool) : U16 := if b then w ||| (1#16 <<< i) else w &&& ~~~(1#16 <<< i)

/-- The defined bits of SR; the reserved ones read as 0 (R14, R337). -/
def srMask : U16 := 0x80FF#16

/-- Flags that an instruction writes: `none` leaves the flag; the sticky ones are only ever set (R337). -/
structure Flags where
  z  : Option Bool := none
  n  : Option Bool := none
  c  : Option Bool := none
  v  : Option Bool := none
  dq : Option Bool := none
  av : Bool := false
  sv : Bool := false
  cw : Bool := false
  deriving DecidableEq, Repr

/-- A flag written where the instruction writes it. -/
def putOpt (w : U16) (i : Nat) (b : Option Bool) : U16 := match b with | some x => putBit w i x | none => w

/-- SR after an instruction's flags (R337). -/
def Flags.apply (f : Flags) (sr : U16) : U16 :=
  let a := putOpt (putOpt (putOpt (putOpt (putOpt sr srZ f.z) srN f.n) srC f.c) srV f.v) srDQ f.dq
  let b := if f.av then putBit a srAV true else a
  let c := if f.sv then putBit b srSV true else b
  if f.cw then putBit c srCW true else c

/-- The conditions of R372 on a value of SR. -/
def condHolds (cond : BitVec 4) (sr : U16) : Bool :=
  let z := sr.getLsbD srZ
  let n := sr.getLsbD srN
  let c := sr.getLsbD srC
  let v := sr.getLsbD srV
  match cond.toNat with
  | 0 => true | 1 => z | 2 => !z | 3 => n != v | 4 => n == v | 5 => z || n != v | 6 => !z && n == v | 7 => n | 8 => !n
  | 9 => c | 10 => !c | 11 => v | 12 => !v | 13 => sr.getLsbD srAV | 14 => sr.getLsbD srSV | _ => false

/-! ### 40-bit arithmetic (R353) -/

/-- An exact result wrapped to 40 bits. -/
def wrap40 (x : Int) : BitVec 40 := BitVec.ofInt 40 x

/-- The exact result lies outside the 40-bit range: AV (R353). -/
def out40 (x : Int) : Bool := decide (x < -549755813888) || decide (549755813887 < x)

/-- The wrapped result uses the guard bits: V (R353). -/
def usesGuard (r : BitVec 40) : Bool := decide (r.toInt < -2147483648) || decide (2147483647 < r.toInt)

/-- Z, N, C, V and AV of R353 for an exact result with its carry or borrow out of bit 39. -/
def flags40 (exact : Int) (carry : Bool) : Flags :=
  let r := wrap40 exact
  { z := some (r == 0), n := some (r.getLsbD 39), c := some carry, v := some (usesGuard r), av := out40 exact }

/-- Carry out of bit 39 of a sum. -/
def carry40 (a b : BitVec 40) : Bool := decide (2 ^ 40 ≤ a.toNat + b.toNat)
/-- Borrow out of bit 39 of a difference. -/
def borrow40 (a b : BitVec 40) : Bool := decide (a.toNat < b.toNat)

/-- A D register sign-extended in bits 39 to 16 (R338). -/
def sx40 (d : BitVec 16) : BitVec 40 := BitVec.ofInt 40 (d.toInt * 65536)

/-! ### 16-bit arithmetic (R353, R376, R377) -/

/-- Result and flags of an addition with carry in. -/
def add16 (a b : BitVec 16) (cin : Bool) : BitVec 16 × Flags :=
  let u := a.toNat + b.toNat + b2n cin
  let i := a.toInt + b.toInt + b2n cin
  let r := BitVec.ofNat 16 u
  (r, { z := some (r == 0), n := some (r.getLsbD 15), c := some (decide (65536 ≤ u)), v := some (decide (i < -32768) || decide (32767 < i)) })

/-- Result and flags of a subtraction with borrow in; C is set on a borrow. -/
def sub16 (a b : BitVec 16) (bin : Bool) : BitVec 16 × Flags :=
  let i := a.toInt - b.toInt - b2n bin
  let r := a - b - BitVec.ofNat 16 (b2n bin)
  (r, { z := some (r == 0), n := some (r.getLsbD 15), c := some (decide (a.toNat < b.toNat + b2n bin))
        v := some (decide (i < -32768) || decide (32767 < i)) })

/-- Result and flags of a logical operation: Z and N, with C and V cleared (R376). -/
def logic16 (r : BitVec 16) : BitVec 16 × Flags := (r, { z := some (r == 0), n := some (r.getLsbD 15), c := some false, v := some false })

/-- Result and flags of a shift: Z, N and C, with V cleared (R376). -/
def shift16 (r : BitVec 16) (c : Bool) : BitVec 16 × Flags := (r, { z := some (r == 0), n := some (r.getLsbD 15), c := some c, v := some false })

/-- SHL: C is bit 16 − s, 0 for s of 0 and of 17 or more (R377). -/
def shl16 (a : BitVec 16) (s : Nat) : BitVec 16 × Flags := shift16 (a <<< s) (decide (1 ≤ s) && decide (s ≤ 16) && a.getLsbD (16 - s))
/-- SHR: C is bit s − 1, 0 for s of 0 and of 17 or more (R377). -/
def shr16 (a : BitVec 16) (s : Nat) : BitVec 16 × Flags := shift16 (a >>> s) (decide (1 ≤ s) && a.getLsbD (s - 1))
/-- ASR: copies of bit 15 shift in, and C is bit 15 for s of 17 or more (R377). -/
def asr16 (a : BitVec 16) (s : Nat) : BitVec 16 × Flags := shift16 (a.sshiftRight s) (decide (1 ≤ s) && a.getLsbD (min (s - 1) 15))

/-! ### Stores from accumulators (R354) -/

/-- The value stored, the new residue register, and SV and AV. -/
def sacc (n s w : Nat) (a q : BitVec 40) : Int × BitVec 40 × Flags :=
  let p : Int := ((2 ^ s : Nat) : Int)
  let top : Int := ((2 ^ (w - 1) : Nat) : Int)
  let r := if n < 2 && s != 0 then floorDiv (a.toInt + ((2 ^ (s - 1) : Nat) : Int)) p else floorDiv a.toInt p
  if top - 1 < r then (top - 1, q, { sv := true })
  else if r < -top then (-top, q, { sv := true })
  else if n < 2 then (r, q, {})
  else
    let sum := q.toNat + (a.toInt - r * p).toNat
    (r, BitVec.ofNat 40 sum, { av := decide (2 ^ 40 ≤ sum) })

/-! ### Division (R386, R387) -/

/-- One non-restoring step: the accumulator and the flags it writes. -/
def divStep (first : Bool) (dq : Bool) (a : BitVec 40) (ds : BitVec 16) : BitVec 40 × Flags :=
  let t := 2 * a.toInt
  let low := t % 65536
  let r0 := floorDiv t 65536
  let r := if first || dq then r0 - ds.toInt else r0 + ds.toInt
  let qb := decide (0 ≤ r)
  (wrap40 (r * 65536 + low + b2n qb), { dq := some qb, c := some qb, v := some (decide (ds.toInt ≤ 0)) })

/-- The end of a division: quotient, accumulator with the remainder, and flags. -/
def divEnd (dq : Bool) (a : BitVec 40) (ds : BitVec 16) : BitVec 16 × BitVec 40 × Flags :=
  let q := BitVec.ofNat 16 (a.toNat % 65536)
  let r0 := floorDiv a.toInt 65536
  let r := if dq then r0 else r0 + ds.toInt
  (q, wrap40 (r * 65536), { z := some (q == 0), n := some (q.getLsbD 15), c := some false, v := some false })

end Sys2Proof.Machine
end

