-- ==== Sys2Proof/Machine/Real.lean ====
section
/-! DEFINITION. The real functions that the rules on samples use (arguments, logarithms, powers, sines, the error function), in
fixed point: a real number is an integer number of 2^-60, an angle an integer number of 2^-40 turns (log 127). -/

namespace Sys2Proof.Machine

/-! ### Rounding -/

/-- `a / b` to the nearest integer, halves up, for `b > 0`. -/
def roundI (a b : Int) : Int := Int.fdiv (2 * a + b) (2 * b)

/-- Saturation to a two's-complement width (R146, R147, R201). -/
def satI (bits : Nat) (x : Int) : Int :=
  let m : Int := ((2 ^ (bits - 1) : Nat) : Int)
  if x < -m then -m else if m - 1 < x then m - 1 else x

/-- Bits of the integer square root, from bit `k - 1` down. -/
def isqrtBits : (k n r : Nat) → Nat
  | 0, _, r => r
  | k + 1, n, r => let c := r + 2 ^ k; if c * c ≤ n then isqrtBits k n c else isqrtBits k n r

/-- The integer square root. -/
def isqrt (n : Nat) : Nat := isqrtBits (Nat.log2 n / 2 + 1) n 0

/-! ### Constants, in units of 2^-60 -/

/-- One. -/
def unit60 : Int := 1152921504606846976
def twoPi60 : Int := 7244019458077122842
def invTwoPi60 : Int := 183493156455125077
def ln2At60 : Int := 799144290325165979
def lgTwo60 : Int := 347063955532709821
def log2Ten60 : Int := 3829922337353294528
def twoBySqrtPi60 : Int := 1300932607094779154
/-- π √(2 / ln 2). -/
def gaussScale60 : Int := 6152503647455502061

/-- One turn. -/
def turn40 : Int := 1099511627776

/-- A product of two reals. -/
def mul60 (a b : Int) : Int := Int.fdiv (a * b) unit60

/-! ### Sine and cosine -/

/-- Terms of the cosine series (n = 0) or the sine series (n = 1) of an angle whose square is `x2`; `t` is the next term. -/
def trigSeries : (fuel n : Nat) → (x2 t : Int) → Int
  | 0, _, _, _ => 0
  | f + 1, n, x2, t => t + trigSeries f (n + 2) x2 (-(Int.fdiv (mul60 t x2) (((n + 1) * (n + 2) : Nat) : Int)))

/-- Cosine and sine of an angle in turns. -/
def cosSin (p : Int) : Int × Int :=
  let a := p % turn40
  let q := a / 274877906944
  let x := Int.fdiv (a % 274877906944 * twoPi60) turn40
  let x2 := mul60 x x
  let c := trigSeries 14 0 x2 unit60
  let s := trigSeries 14 1 x2 x
  if q == 0 then (c, s) else if q == 1 then (-s, c) else if q == 2 then (-c, -s) else (s, -c)

/-! ### The argument of a complex number -/

/-- Arctangents of 0, 1/16, ... 1. -/
def atanTable : List Int :=
  [0, 71963988336308046, 143371547418228444, 213691637384831045, 282441168888798124, 349202478169518835, 413634420977155108
  , 475476866842033966, 534549298976576474, 590744827526146019, 644021163118254586, 694390033311587746, 741906266566127762
  , 786657429064354824, 828754564720302567, 868324308043507300, 905502432259640355]

/-- The arctangent series of `q` from the term with denominator `n` on. -/
def atanSeries : (fuel n : Nat) → (q2 t : Int) → Int
  | 0, _, _, _ => 0
  | f + 1, n, q2, t => Int.fdiv t (n : Int) + atanSeries f (n + 2) q2 (-(mul60 t q2))

/-- The arctangent of `lo / hi`, for `0 ≤ lo ≤ hi` and `hi > 0`, in turns. -/
def atanTurn (lo hi : Int) : Int :=
  let r := lo * unit60 / hi
  let k := (16 * r + 576460752303423488) / unit60
  let q := Int.fdiv ((16 * r - k * unit60) * unit60) (16 * unit60 + k * r)
  roundI ((atanTable.getD k.toNat 0 + atanSeries 7 1 (mul60 q q) q) * invTwoPi60) 1208925819614629174706176

/-- The argument of `x + i y` in turns, above -1/2 up to 1/2; 0 for zero. -/
def argTurn (x y : Int) : Int :=
  if x == 0 && y == 0 then 0
  else
    let ax := (x.natAbs : Int)
    let ay := (y.natAbs : Int)
    let a := if ay ≤ ax then atanTurn ay ax else 274877906944 - atanTurn ax ay
    let b := if x < 0 then 549755813888 - a else a
    if y < 0 then -b else b

/-! ### Logarithms and powers -/

/-- Bits of the binary logarithm of `m / 2^62`, a number from 1 up to 2. -/
def log2Bits : (fuel m acc : Nat) → Nat
  | 0, _, acc => acc
  | f + 1, m, acc =>
    let q := m * m / 2 ^ 62
    if 2 ^ 63 ≤ q then log2Bits f (q / 2) (2 * acc + 1) else log2Bits f q (2 * acc)

/-- The binary logarithm of `a / b`, both positive, in units of 2^-32. -/
def log2Of (a b : Nat) : Int :=
  let e : Int := (Nat.log2 a : Int) - (Nat.log2 b : Int)
  let m := if 0 ≤ e then a * 2 ^ 62 / (b * 2 ^ e.toNat) else a * 2 ^ (62 + (-e).toNat) / b
  let (e, m) := if m < 2 ^ 62 then (e - 1, 2 * m) else (e, m)
  e * 4294967296 + (log2Bits 32 m 0 : Int)

/-- `k × 10 log10 (a / b)`, rounded to the nearest, for positive `a` and `b`. -/
def decibels (k a b : Nat) : Int := roundI ((10 * k : Nat) * log2Of a b * lgTwo60) (4294967296 * unit60)

/-- Terms of the exponential series; `t` is the next term. -/
def expSeries : (fuel n : Nat) → (x t : Int) → Int
  | 0, _, _, _ => 0
  | f + 1, n, x, t => t + expSeries f (n + 1) x (Int.fdiv (mul60 t x) ((n + 1 : Nat) : Int))

/-- 10^(c / 1000): the power ratio of `c` hundredths of a decibel. -/
def powerRatio (c : Int) : Int :=
  let x := Int.fdiv (c * log2Ten60) 1000
  let n := Int.fdiv x unit60
  let m := expSeries 24 0 (mul60 (x % unit60) ln2At60) unit60
  if 0 ≤ n then m * ((2 ^ n.toNat : Nat) : Int) else Int.fdiv m ((2 ^ (-n).toNat : Nat) : Int)

/-- e to the power of a real. -/
def exp60 (x : Int) : Int :=
  let y := mul60 x 1663314137230540311
  let n := Int.fdiv y unit60
  let m := expSeries 24 0 (mul60 (y % unit60) ln2At60) unit60
  if 0 ≤ n then m * ((2 ^ n.toNat : Nat) : Int) else Int.fdiv m ((2 ^ (-n).toNat : Nat) : Int)

/-! ### The Gaussian pulse -/

/-- Terms of the series of the error function. -/
def erfSeries : (fuel k : Nat) → (x2 t : Int) → Int
  | 0, _, _, _ => 0
  | f + 1, k, x2, t => Int.fdiv t ((2 * k + 1 : Nat) : Int) + erfSeries f (k + 1) x2 (-(Int.fdiv (mul60 t x2) ((k + 1 : Nat) : Int)))

/-- The error function, 1 in magnitude beyond 4. -/
def erf60 (x : Int) : Int :=
  if 4 * unit60 < x then unit60
  else if x < -(4 * unit60) then -unit60
  else mul60 twoBySqrtPi60 (erfSeries 90 0 (mul60 x x) x)

/-- The frequency of a single symbol of unit deviation at `t` symbol periods from its middle, for a BT product in 1/100
(R184, R199; log 128). -/
def gaussPulse (bt : Nat) (t : Int) : Int :=
  let a := Int.fdiv (gaussScale60 * (bt : Int)) 100
  Int.fdiv (erf60 (mul60 a (t + 576460752303423488)) - erf60 (mul60 a (t - 576460752303423488))) 2

end Sys2Proof.Machine
end

