-- ==== Sys2Proof/Machine/Clock.lean ====
section
/-! DEFINITION. The relation of UTC to DTIME: the model, its uncertainty and the UTC fields (R11, R282, R284, R285). -/

namespace Sys2Proof.Machine

/-- UTC of a DTIME by the linear model; division truncates toward zero (R12, R282). -/
def TimeD.utcOf (m : TimeD) (d : Nat) : Int :=
  m.u0 + Int.tdiv (((d : Int) - m.d0) * 78125 * (1000000000000 + m.r)) 3000000000000000

/-- Nanoseconds of a number of reference cycles. -/
def nsOf (cycles : Nat) : Nat := cycles * 78125 / 3000

/-- Rate uncertainty in 10^-12: 2 ppm before the first fit, then its standard error, at least 0.01 ppm (R284). -/
def TimeD.rateUnc (m : TimeD) : Nat :=
  match m.fit with
  | none => 2000000
  | some x => max 10000 x

/-- The uncertainty e at a DTIME (R284). -/
def TimeD.uncAt (m : TimeD) (d : Nat) : Nat := m.e + nsOf (d - m.eAt) * m.rateUnc / 1000000000000

/-- MAX_UNC; 0 selects 1,000,000,000 (R287). -/
def State.maxUnc (s : State) : Nat := let x := s.cfgNat 12 12 4; if x == 0 then 1000000000 else x

/-- UTC fields are written: the model has had a sample and e does not exceed MAX_UNC (R285). -/
def State.utcKnown (s : State) : Bool := s.time.related && s.time.uncAt s.dtime ≤ s.maxUnc

/-- The UTC field for a DTIME (R11, R285). -/
def State.utcField (s : State) (d : Nat) : Nat := if s.utcKnown then (s.time.utcOf d).toNat else 0

/-- Sums of a list of integers. -/
def sumI (l : List Int) : Int := l.foldl (· + ·) 0

/-- The least-squares rate and its standard error in 10^-12 over samples (DTIME, UTC), newest first (R284). Ordinates are the
UTC in excess of the nominal 78,125 / 3,000 ns per cycle, times 3,000. Two samples have no standard error and make no fit (log 170). -/
def rateFit (l : List (Nat × Int)) : Option (Int × Nat) :=
  match l.getLast? with
  | none => none
  | some base =>
    let p := l.map fun e => ((e.1 : Int) - base.1, (e.2 - base.2) * 3000 - ((e.1 : Int) - base.1) * 78125)
    let n : Int := p.length
    let sx := sumI (p.map (·.1))
    let sy := sumI (p.map (·.2))
    let sxx := sumI (p.map fun e => e.1 * e.1) * n - sx * sx
    let sxy := sumI (p.map fun e => e.1 * e.2) * n - sx * sy
    let syy := sumI (p.map fun e => e.2 * e.2) * n - sy * sy
    if sxx ≤ 0 || n < 3 then none
    else
      let r := Int.fdiv (sxy * 1000000000000) (sxx * 78125)
      let sse := syy * sxx - sxy * sxy
      let q := Int.fdiv (sse * 1000000000000000000000000) (sxx * sxx * (n - 2) * 78125 * 78125)
      some (r, isqrt q.toNat)

/-- The samples of the last 1,024 s span at least 16 s (R284). -/
def fitReady (l : List (Nat × Int)) : Bool :=
  match l.head?, l.getLast? with
  | some a, some b => decide (16 * sec ≤ a.1 - b.1)
  | _, _ => false

/-- The model with its anchor moved to a DTIME and a new rate, the uncertainty carried along. -/
def TimeD.anchor (m : TimeD) (d : Nat) (r : Int) : TimeD :=
  { m with u0 := m.utcOf d, d0 := d, r := r, e := m.uncAt d, eAt := d }

/-- A slew that has removed its offset ends: the rate returns to the estimate (R284). -/
def TimeD.endSlew (m : TimeD) (d : Nat) : TimeD :=
  if m.slew != 0 && decide (m.slew.natAbs * 10000 ≤ nsOf (d - m.d0)) then { m.anchor d m.rEst with slew := 0 } else m

/-- One sample of the source in use changes the model at a catch (R284): a step, or a slew of 100 ppm (log 22). -/
def TimeD.take (m : TimeD) (stepNs now : Nat) (smp : Nat × Nat × Int × Nat) : TimeD :=
  let (src, d, utc, unc) := smp
  let keep := src == 1 || src == 2 || src == 4
  let samples := if keep then ((d, utc) :: m.samples).filter fun e => decide (d ≤ e.1 + 1024 * sec) else m.samples
  let fit := if keep && fitReady samples then rateFit samples else none
  let m1 := { m with samples := samples, rEst := match fit with | some f => f.1 | none => m.rEst
                     fit := match fit with | some f => some f.2 | none => m.fit }
  let x := utc - m.utcOf d
  if !m.related || m.changed || stepNs ≤ x.natAbs then
    { m1 with u0 := utc, d0 := d, r := m1.rEst, e := unc, eAt := d, related := true, changed := false, slew := 0 }
  else if x == 0 then { m1.anchor now m1.rEst with e := unc, eAt := d, slew := 0 }
  else { m1.anchor now (m1.rEst + if 0 < x then 100000000 else -100000000) with e := unc, eAt := d, slew := x }

/-- The samples waiting at a catch: those of the source in use change the model, and no other enters the fit (R283, R284; log 170). -/
def State.takeSamples (s : State) : State :=
  let step := let x := s.cfgNat 12 8 4; if x == 0 then 1000000 else x
  s.onTime fun m =>
    let m1 := (m.pendingS.filter fun p => p.1 == m.inUse).foldl (fun m p => m.take step s.dtime p) (m.endSlew s.dtime)
    { m1 with pendingS := [] }

end Sys2Proof.Machine
end

