-- ==== Sys2Proof/Machine/Links.lean ====
section
/-! DEFINITION. Host links: message form, replies, the checks common to every host command, the delivery queue and the batches. -/

namespace Sys2Proof.Machine

/-! ### Transports (R55, R56, R59) -/

/-- The SPI transport is enabled: SPI_OFF of section DELIVERY is clear (R56). -/
def State.spiOn (s : State) : Bool := !s.cfgBit 10 0 7
/-- The UDP transport is enabled (R56). -/
def State.udpOn (s : State) : Bool := s.cfgBit 10 0 6

/-- The transport of an endpoint is enabled. -/
def State.reachable (s : State) : Src → Bool
  | .spi => s.spiOn
  | .udp _ _ => s.udpOn

/-- An address lies in the subnet of the device; PREFIX 0 selects 24 (R56). -/
def State.onSubnet (s : State) (ip : Nat) : Bool :=
  let p := let x := s.cfgNat 10 12 1; if x == 0 then 24 else x
  ip / 2 ^ (32 - p) == s.cfgNat 10 4 4 / 2 ^ (32 - p)

/-- Where a frame for an address goes first: the address itself, or IPV4_GW for one outside the subnet (R56). -/
def State.nextHop (s : State) (ip : U32) : U32 := if s.onSubnet ip.toNat then ip else BitVec.ofNat 32 (s.cfgNat 10 8 4)

/-- The Ethernet address of the device: MAC_ADDR, or the fused one where it is all zero (R56). -/
def State.ownMac (s : State) : Bytes :=
  let m := (List.range 6).map fun i => BitVec.ofNat 8 (s.cfgNat 10 (14 + i) 1)
  if m.all (· == 0) then s.boot.mac else m

/-- A frame handed to the MAC (R55, R56). -/
def State.sendEth (s : State) (dst : Src) (data : Bytes) : State :=
  let ip := match dst with | .udp ip _ => ip | .spi => 0
  s.onLinks fun l => { l with udpTx := { dst := dst, hop := s.nextHop ip, mac := s.ownMac, data := data } :: l.udpTx }

/-- Payload limit of a transport (R37, R46). -/
def payloadLimit : Src → Nat
  | .spi => 4096
  | .udp _ _ => 1452

/-- The KIND field of a message (R38). -/
def MsgKind.code : MsgKind → Nat
  | .reply => 1 | .event => 2 | .batch => 3

/-- A message as it is sent: header of R37, payload, CRC-32. -/
def encodeMsg (m : OutMsg) (seq : U16) : Bytes :=
  let body := [0x4C, 0x4D, 0x01, 0x00] ++ le 2 m.opcode ++ le 2 m.tag.toNat
    ++ le 2 (m.kind.code * 16384 + m.flags.toNat) ++ le 2 m.payload.length ++ le 2 m.status ++ le 2 seq.toNat ++ m.payload
  body ++ le 4 (crc32 body).toNat

/-! ### HOST_IRQ_N (R52) -/

/-- HOST_IRQ_N is low while a bit is set in both SPI_IRQ and SPI_IRQ_EN and the SPI transport is enabled (R52). -/
def State.refreshIrq (s : State) : State :=
  s.onPins fun p => { p with irqN := !(s.spiOn && (s.links.irq &&& s.links.irqEn) != 0) }

/-- Causes latched in SPI_IRQ (R52). -/
def State.setIrq (s : State) (bits : U16) : State :=
  (s.onLinks fun l => { l with irq := l.irq ||| bits }).refreshIrq

/-! ### Status codes (R45) -/

/-- The status codes of R45. -/
inductive Status where
  | ok | queued | late | expired | deniedUmpire | invalidArg | range | busy | noCredit | inconsistent | locked | notFound
  | timeout | authFail | hwFault
  deriving DecidableEq, Repr

/-- Code of a status (R45). -/
def Status.code : Status → Nat
  | .ok => 0 | .queued => 1 | .late => 2 | .expired => 3 | .deniedUmpire => 4 | .invalidArg => 5 | .range => 6 | .busy => 7
  | .noCredit => 8 | .inconsistent => 9 | .locked => 10 | .notFound => 11 | .timeout => 12 | .authFail => 13 | .hwFault => 14

/-! ### Replies (R38, R40, R43) -/

/-- A reply put among the waiting messages, or dropped and counted when its transport is disabled (R56). -/
def State.post (s : State) (m : OutMsg) : State :=
  if s.reachable m.dst then s.onLinks fun l => { l with waiting := l.waiting ++ [m] }
  else s.onCnt fun c => { c with msgsDiscarded := c.msgsDiscarded + 1 }

/-- The reply message to a command (R37, R38). -/
def mkReply (src : Src) (op : Nat) (tag flags : U16) (st : Status) (payload : Bytes) : OutMsg :=
  { kind := .reply, opcode := op, tag := tag, flags := flags, status := st.code, payload := payload, dst := src, recs := [] }

/-- A final reply: FINAL set, the tag ends, the reply enters the cache of 64 (R38, R40, R42). -/
def State.final (s : State) (src : Src) (op : Nat) (tag : U16) (crc : U32) (st : Status) (payload : Bytes) : State :=
  let m := mkReply src op tag 0x2000 st payload
  (s.post m).onLinks fun l =>
    { l with tags := l.tags.filter (fun t => t.tag != tag)
             cache := ({ tag := tag, opcode := op, crc := crc, msg := m, sentAt := s.dtime } :: l.cache).take 64 }

/-- The final reply to the command whose header is at hand. -/
def State.answer (s : State) (h : Hdr) (op : Nat) (st : Status) (payload : Bytes) : State :=
  s.final h.src op h.tag h.crc st payload

/-- The final reply to an outstanding tag; nothing where the tag is not outstanding. -/
def State.finish (s : State) (tag : U16) (st : Status) (payload : Bytes) : State :=
  match s.links.tags.find? (fun t => t.tag == tag) with
  | some t => s.final t.src t.opcode tag t.crc st payload
  | none => s

/-- A tag becomes outstanding (R40). -/
def State.hold (s : State) (h : Hdr) (op : Nat) (long : Bool) : State :=
  s.onLinks fun l => { l with tags := l.tags ++ [{ tag := h.tag, opcode := op, crc := h.crc, src := h.src, received := s.dtime
                                                   long := long, stepAt := s.dtime, done := 0, total := 1 }] }

/-- A QUEUED reply, FINAL clear; the tag is outstanding (R44). -/
def State.queued (s : State) (h : Hdr) (op : Nat) (long : Bool) : State :=
  (s.hold h op long).post (mkReply h.src op h.tag 0 .queued [])

/-! ### Progress (R65) -/

/-- Progress in thousandths (R65). -/
def progressOf (done total : Nat) : Nat := if total == 0 then 1000 else 1000 * done / total

/-- EV_PROGRESS when progress reaches or passes a multiple of 50 from 50 to 950 (R65). -/
def State.progressEvent (s : State) (tag : U16) (code old new total : Nat) : State :=
  let p0 := progressOf old total
  let p1 := progressOf new total
  if p1 < 1000 && p0 / 50 < p1 / 50 then
    s.pushEvent 0x800B 0 0 0 (le 2 tag.toNat ++ le 2 code ++ le 2 p1 ++ le 2 0 ++ le 4 new ++ le 4 total)
  else s

/-- A progress step of the long operation of a tag (R34, R65). -/
def State.progress (s : State) (tag : U16) (done total : Nat) : State :=
  match s.links.tags.find? (fun t => t.tag == tag) with
  | none => s
  | some t =>
    (s.progressEvent tag t.opcode (if t.total == total then t.done else 0) done total).onLinks fun l =>
      { l with tags := l.tags.map fun e => if e.tag == tag then { e with done := done, total := total, stepAt := s.dtime } else e }

/-- `n` more steps of the long operation of a tag are made, one after the other, as far as the one before the last (R65). -/
def State.steps (s : State) (tag : U16) : (n : Nat) → State
  | 0 => s
  | n + 1 =>
    match s.links.tags.find? (fun t => t.tag == tag) with
    | none => s
    | some t => if t.done + 1 < t.total then (s.progress tag (t.done + 1) t.total).steps tag n else s

/-- The steps of a long operation that are still open when it completes, the last of which the final reply stands for (R65). -/
def State.lastSteps (s : State) (tag : U16) : State :=
  match s.links.tags.find? (fun t => t.tag == tag) with
  | none => s
  | some t => s.steps tag (t.total - t.done)

/-! ### Inbound FIFO (R39, R50, R53) -/

/-- Opcodes of R46. -/
def knownOpcode (op : Nat) : Bool :=
  [0x0001, 0x0002, 0x0003, 0x0010, 0x0011, 0x0012, 0x0013, 0x0020, 0x0030, 0x0031, 0x0032, 0x0040, 0x0041, 0x0042, 0x0043, 0x0044,
   0x0050, 0x0060, 0x0061, 0x0070, 0x0071, 0x0072, 0x0073, 0x0080, 0x0081, 0x0090, 0x0091, 0x00A0, 0x00A1, 0x00A2, 0x00B0, 0x00B1,
   0x00C0, 0x00D0, 0x00E0, 0x00E1, 0x00F0, 0x00F1].contains op

/-- What stands at the head of a byte string: nothing whole, a message of so many bytes, or an unusable one (R39, R53). -/
inductive Head where
  | none
  | whole (n : Nat)
  | bad
  deriving DecidableEq, Repr

/-- The head of the inbound bytes under R39: magic, payload length and KIND, then the CRC-32 once the message is whole. -/
def headOf (limit : Nat) (b : Bytes) : Head :=
  if b.length < 16 then .none
  else if fieldAt 0 2 b != 0x4D4C || limit < fieldAt 10 2 b then .bad
  else
    let n := fieldAt 10 2 b
    if b.length < 20 + n then .none
    else if (crc32 (b.take (16 + n))).toNat != fieldAt (16 + n) 4 b || bitsOf (fieldAt 8 2 b) 14 2 != 0 then .bad
    else .whole (20 + n)

/-- Splits inbound bytes into the whole messages at their head, the rest, and whether an unusable message follows. -/
def splitFifo : (fuel : Nat) → Bytes → Bytes × Bytes × Bool
  | 0, b => ([], b, false)
  | f + 1, b =>
    match headOf 4096 b with
    | .none => ([], b, false)
    | .bad => ([], b, true)
    | .whole n =>
      let r := splitFifo f (b.drop n)
      (b.take n ++ r.1, r.2)

/-- A cached reply to a tag, opcode and CRC-32 that was sent less than 5 s before (R42). -/
def State.cachedReply (s : State) (tag : U16) (op : Nat) (crc : U32) : Option CachedReply :=
  s.links.cache.find? fun c => c.tag == tag && c.opcode == op && c.crc == crc && decide (s.dtime < c.sentAt + 5 * sec)

/-- Answers INVALID_ARG to a message with an unknown opcode: from the reply cache, without ending an outstanding tag, or with a
final reply (R42, R45; log 44). -/
def State.refuseUnknown (s : State) (src : Src) (b : Bytes) : State :=
  let op := fieldAt 4 2 b
  let tag := BitVec.ofNat 16 (fieldAt 6 2 b)
  let crc := BitVec.ofNat 32 (fieldAt (16 + fieldAt 10 2 b) 4 b)
  match s.cachedReply tag op crc with
  | some r => s.post { r.msg with flags := r.msg.flags ||| 0x1000, dst := src }
  | none =>
    if s.links.tags.any fun t => t.tag == tag then s.post (mkReply src op tag 0 .invalidArg [])
    else s.final src op tag crc .invalidArg []

/-- Takes messages with an unknown opcode from the head of the inbound FIFO and refuses them, in order of receipt (R41, R45). -/
def State.serveUnknown (s : State) : (fuel : Nat) → State
  | 0 => s
  | f + 1 =>
    match headOf 4096 s.links.inFifo with
    | .whole n =>
      if knownOpcode (fieldAt 4 2 s.links.inFifo) then s
      else ((s.refuseUnknown .spi s.links.inFifo).onLinks fun l => { l with inFifo := l.inFifo.drop n }).serveUnknown f
    | _ => s

/-- The inbound FIFO after bytes came, its whole messages having been `before` bytes long: the first unusable message and all that follows is
discarded, and the time at which the partial message at its end began is kept; one that begins behind a message just completed began
now (R35, R53). -/
def State.scanFifo (s : State) (before : Nat) (endsTxn : Bool) : State :=
  let r := splitFifo 512 s.links.inFifo
  if r.2.2 then
    (((s.onLinks fun l => { l with inFifo := r.1, inDrop := !endsTxn, partialAt := none }).onCnt
      fun c => { c with msgsDiscarded := c.msgsDiscarded + 1 }).setIrq 0x8).serveUnknown 512
  else
    (s.onLinks fun l => { l with partialAt := if r.2.1.isEmpty then none else if l.partialAt.isSome && r.1.length ≤ before then l.partialAt else some s.dtime
                                 inDrop := l.inDrop && !endsTxn }).serveUnknown 512

/-- A command taken from its transport: an SPI command leaves the head of the inbound FIFO, and the last message of the host is noted (R50, R439). -/
def State.receive (s : State) (h : Hdr) (op : Nat) : State :=
  let s1 := s.onLinks fun l => { l with lastMsg := some s.dtime }
  match h.src with
  | .udp _ _ => s1
  | .spi =>
    let f := s1.links.inFifo
    if headOf 4096 f == .whole (20 + h.len) && fieldAt 4 2 f == op && fieldAt 6 2 f == h.tag.toNat then
      (s1.onLinks fun l => { l with inFifo := l.inFifo.drop (20 + h.len) }).serveUnknown 512
    else s1

/-! ### The checks common to host commands (R33, R39, R40, R42) -/

/-- What is particular to one opcode in the checks of R33. -/
structure Check where
  op      : Nat
  /-- the payload length and reserved content are right -/
  form    : Bool
  range   : Bool
  /-- the state check: the status that refuses it -/
  state   : Option Status
  /-- payload of a refusal (R43) -/
  refusal : Bytes := []

/-- The header of a command carries what R39 asks of it, flags bits and status included. -/
def hdrClean (h : Hdr) : Bool := h.version == 1 && h.rsv == 0 && h.flags == 0 && h.status == 0

/-- A cached reply that answers the command: same tag, opcode and CRC-32, sent less than 5 s before (R42). -/
def State.cached (s : State) (h : Hdr) (op : Nat) : Option CachedReply :=
  s.cachedReply h.tag op h.crc

/-- The outstanding command of a tag (R40). -/
def State.outstanding (s : State) (tag : U16) : Option TagEntry := s.links.tags.find? fun t => t.tag == tag

/-- A message the device discards without reply: counted, and on SPI the rest up to the rise of SPI_CS_N goes too (R39, R53). -/
def State.discard (s : State) (src : Src) : State :=
  let s1 := s.onCnt fun c => { c with msgsDiscarded := c.msgsDiscarded + 1 }
  match src with
  | .spi => (s1.onLinks fun l => { l with inFifo := (splitFifo 512 l.inFifo).1, inDrop := true, partialAt := none }).setIrq 0x8
  | .udp _ _ => s1

/-- A command accepted over UDP is noted for the routing of events (R59). -/
def State.noteUdp (s : State) (src : Src) : State :=
  match src with
  | .spi => s
  | .udp _ _ => s.onLinks fun l => { l with lastUdp := some src }

/-- Every check of a command in the order of R33 once its message is taken: an outstanding tag, the reply cache,
form, range, state, credit; then the action. In recovery mode only PING, GET_INFO and FW_UPDATE are answered (R459). -/
def State.checked (s : State) (h : Hdr) (c : Check) (act : State → State) : State :=
  let dup := s.outstanding h.tag
  if (dup.any fun t => t.opcode == c.op && t.crc == h.crc) then s
  else match s.cached h c.op with
  | some r => s.post { r.msg with flags := r.msg.flags ||| 0x1000, dst := h.src }
  | none =>
    let refuse (st : Status) : State :=
      if dup.isSome then s.post (mkReply h.src c.op h.tag 0 st c.refusal) else s.answer h c.op st c.refusal
    if !(hdrClean h && c.form) || (s.boot.recovery && !([0x0001, 0x0002, 0x00D0].contains c.op)) then refuse .invalidArg
    else if h.tag == 0 || !c.range then refuse .range
    else if dup.isSome then s.post (mkReply h.src c.op h.tag 0x0800 .busy c.refusal)
    else match c.state with
    | some st => refuse st
    | none => if 64 ≤ s.links.tags.length then refuse .noCredit else act (s.noteUdp h.src)

/-- The message of a command reached the device: its transport is enabled, or it stands whole at the head of the inbound FIFO of an SPI
transport that was disabled since (R56). -/
def State.arrived (s : State) (h : Hdr) : Bool :=
  s.reachable h.src || (h.src == .spi && headOf 4096 s.links.inFifo == .whole (20 + h.len))

/-- A host command: discarded while READY is clear or its transport is off (R53, R56), discarded with a payload above the limit of its
transport or a KIND other than command (R39), else checked and carried out. `c` and `act` see the state after the message was taken. -/
def State.command (s : State) (h : Hdr) (op : Nat) (c : State → Check) (act : State → State) : State :=
  if !s.links.ready || !s.arrived h then
    match h.src with
    | .spi => (s.onLinks fun l => { l with inFifo := [], partialAt := none }).setIrq 0x8
    | .udp _ _ => s
  else if payloadLimit h.src < h.len || bitsOf h.flags.toNat 14 2 != 0 then s.discard h.src
  else
    let s1 := s.receive h op
    s1.checked h (c s1) act

/-! ### Delivery stream (R59 to R62) -/

/-- Where events go (R59): the delivery endpoint, else SPI when enabled, else the last accepted UDP source. -/
def State.eventRoute (s : State) : Option Src :=
  match s.links.endpoint with
  | some e => some e
  | none => if s.spiOn then some .spi else s.links.lastUdp

/-- Payload of a batch (R60). -/
def batchPayload (recs : List Rec) : Bytes :=
  le 2 recs.length ++ le 2 0 ++ (recs.map fun r => pad4 (le 2 r.bytes.length ++ le 2 0 ++ r.bytes)).flatten

/-- Bytes of a batch payload. -/
def batchSize (recs : List Rec) : Nat := (recs.map fun r => 4 + (r.bytes.length + 3) / 4 * 4).sum + 4

/-- The open batch closes and waits to be sent (R60). -/
def State.closeBatch (s : State) : State :=
  match s.dlv.batch with
  | none => s
  | some b =>
    (s.onDlv fun d => { d with batch := none }).onLinks fun l =>
      { l with waiting := l.waiting ++ [{ kind := .batch, opcode := 0xC000, tag := 0, flags := 0, status := 0
                                          payload := batchPayload b.recs, dst := b.dst, recs := b.recs.map (·.seq) }] }

/-- `a` lies below `b` in sequence-number order modulo 2^32 (R61). -/
def seqBelow (a b : U32) : Bool := let d := (b - a).toNat; decide (1 ≤ d) && decide (d < 2147483648)

/-- A record enters a batch for the endpoint. A new one consumes a credit; a resent one does not (R60, R61). -/
def State.intoBatch (s : State) (dst : Src) (r : Rec) (new : Bool) : State :=
  if new && s.dlv.credit == 0 then s
  else
    let s1 := match s.dlv.batch with
      | some b => if payloadLimit dst < batchSize (b.recs ++ [r]) then s.closeBatch else s
      | none => s
    let s2 := s1.onDlv fun d =>
      { d with batch := some (match d.batch with
                 | some b => { b with recs := b.recs ++ [r] }
                 | none => { dst := dst, recs := [r], opened := s.dtime })
               queue := d.queue.map fun q => if q.seq == r.seq then { q with sent := true } else q
               resend := d.resend.filter (· != r.seq)
               credit := if new then d.credit - 1 else d.credit
               highSent := some (match d.highSent with
                 | some x => if seqBelow x r.seq then r.seq else x
                 | none => r.seq)
               ackAt := if d.ackAt.isSome then d.ackAt else some s.dtime }
    if new && s2.dlv.credit == 0 then s2.closeBatch else s2

/-- Records move into batches: resent ones first, then new ones while credit lasts (R60, R61). Nothing moves while no
endpoint is set or READY is clear (R59). -/
def State.pump (s : State) : State :=
  match s.links.endpoint with
  | none => s
  | some dst =>
    if !s.links.ready || !s.reachable dst then s
    else
      let again := s.dlv.queue.filter fun r => s.dlv.resend.contains r.seq
      let s1 := s.each again fun s r => s.intoBatch dst r false
      let s2 := if again.isEmpty then s1 else s1.closeBatch
      let s3 := s2.each (s2.dlv.queue.filter fun r => !r.sent) fun s r => s.intoBatch dst r true
      if s3.cfgNat 10 1 1 == 0 then s3.closeBatch else s3

/-- A record reaches the delivery queue: it takes the next sequence number, and is dropped when the queue is full (R31, R62). -/
def State.deliver (s : State) (mk : U32 → Bytes) : State :=
  let q := s.dlv.nextSeq
  let s1 := s.onDlv fun d => { d with nextSeq := d.nextSeq + 1 }
  if 1048576 ≤ s.dlv.queue.length then
    ((s1.onCnt fun c => { c with queueDrops := c.queueDrops + 1 }).onLinks fun l =>
      { l with dropFirst := if l.dropCount == 0 then q else l.dropFirst, dropCount := l.dropCount + 1 }).dropEvent
  else (s1.onDlv fun d => { d with queue := d.queue ++ [{ seq := q, bytes := mk q, sent := false }] }).pump

/-- Records acknowledged leave the queue and return their slots (R61). -/
def State.acknowledge (s : State) (p : U32 → Bool) : State :=
  s.onDlv fun d => { d with queue := d.queue.filter (fun r => !(r.sent && p r.seq)), resend := d.resend.filter (fun x => !p x)
                            leftAt := if d.queue.any (fun r => r.sent && p r.seq) then some s.dtime else d.leftAt }

/-- Every sent but unacknowledged record is to be sent again; batches not yet placed are withdrawn, their records
being among them (R61). -/
def State.resendAll (s : State) (p : U32 → Bool) : State :=
  (s.onDlv fun d => { d with resend := (d.queue.filter fun r => r.sent && p r.seq).map (·.seq), batch := none }).onLinks fun l =>
    { l with waiting := l.waiting.filter fun m => m.kind != .batch }

/-- The delivery endpoint becomes `e`; on a change what was sent and not acknowledged is resent to it (R59, R61). -/
def State.setEndpoint (s : State) (e : Src) : State :=
  if s.links.endpoint == some e then s
  else (s.onLinks fun l => { l with endpoint := some e }).resendAll fun _ => true

end Sys2Proof.Machine
end

