-- ==== Sys2Proof/Machine/Lanes.lean ====
section
/-! DEFINITION. Lanes and profiles: the fields of sections LANES and PROFILES, sample periods and delays, settling, blanking and
the preamble watch (chapters 6 and 7). -/

namespace Sys2Proof.Machine

/-! ### Section PROFILES (R184, R185) -/

/-- An unsigned field of profile `p`. -/
def profNat (set : List Host.Cell) (p ofs n : Nat) : Nat := setNat set 3 (32 * p + ofs) n
def profEn (set : List Host.Cell) (p : Nat) : Bool := bitOf (profNat set p 0 1) 7
def profMod4 (set : List Host.Cell) (p : Nat) : Bool := bitOf (profNat set p 0 1) 6
def profLine (set : List Host.Cell) (p : Nat) : Nat := bitsOf (profNat set p 0 1) 4 2
def profLenRule (set : List Host.Cell) (p : Nat) : Nat := bitsOf (profNat set p 0 1) 2 2
def profMode (set : List Host.Cell) (p : Nat) : Nat := bitsOf (profNat set p 1 1) 0 3
def profBT (set : List Host.Cell) (p : Nat) : Nat := profNat set p 2 1
def profW (set : List Host.Cell) (p : Nat) : Nat := profNat set p 3 1
def profRate (set : List Host.Cell) (p : Nat) : Nat := profNat set p 4 4
def profDev (set : List Host.Cell) (p : Nat) : Nat := profNat set p 8 4
def profSync (set : List Host.Cell) (p : Nat) : Nat := profNat set p 12 4
def profSyncAlt (set : List Host.Cell) (p : Nat) : Nat := profNat set p 16 4
def profSyncLen (set : List Host.Cell) (p : Nat) : Nat := profNat set p 20 1
def profAltLen (set : List Host.Cell) (p : Nat) : Nat := profNat set p 21 1
def profSyncErr (set : List Host.Cell) (p : Nat) : Nat := bitsOf (profNat set p 22 1) 0 3
def profPreLen (set : List Host.Cell) (p : Nat) : Nat := profNat set p 24 2
def profFixedLen (set : List Host.Cell) (p : Nat) : Nat := profNat set p 26 2
def profTxPre (set : List Host.Cell) (p : Nat) : Nat := profNat set p 30 2
/-- Bits per symbol: two for 4-GFSK (R180). -/
def profBps (set : List Host.Cell) (p : Nat) : Nat := if profMod4 set p then 2 else 1
/-- `n` symbols of a profile in reference cycles, rounded up. -/
def symCycles (set : List Host.Cell) (p n : Nat) : Nat := ceilDiv (n * 38400000) (profRate set p)

/-! ### Section LANES (R151 to R154) -/

/-- An unsigned field of lane `i`. -/
def laneNat (set : List Host.Cell) (i ofs n : Nat) : Nat := setNat set 2 (16 * i + ofs) n
def laneEn (set : List Host.Cell) (i : Nat) : Bool := bitOf (laneNat set i 0 1) 7
def laneK (set : List Host.Cell) (i : Nat) : Nat := bitsOf (laneNat set i 0 1) 0 3
def laneBankB (set : List Host.Cell) (i : Nat) : Bool := bitOf (laneNat set i 0 1) 6
def lanePair (set : List Host.Cell) (i : Nat) : Nat := bitsOf (laneNat set i 1 1) 6 2
def laneBin (set : List Host.Cell) (i : Nat) : Nat := bitsOf (laneNat set i 1 1) 0 6
def laneProf (set : List Host.Cell) (i : Nat) : Nat := bitsOf (laneNat set i 2 1) 0 5
def laneNco (set : List Host.Cell) (i : Nat) : Int := setInt set 2 (16 * i + 4) 4
def laneShifts (set : List Host.Cell) (i : Nat) : Nat := laneNat set i 8 2
/-- Correlation threshold; 0 selects 150 (R151). -/
def laneThr (set : List Host.Cell) (i : Nat) : Nat := let t := laneNat set i 10 1; if t == 0 then 150 else t
def laneFloor (set : List Host.Cell) (i : Nat) : Nat := laneNat set i 11 1
def laneRiseOff (set : List Host.Cell) (i : Nat) : Bool := bitOf (laneNat set i 12 1) 1
def laneWatchOff (set : List Host.Cell) (i : Nat) : Bool := bitOf (laneNat set i 12 1) 0

/-- The enabled lanes of a set in rising order. -/
def enabledLanes (set : List Host.Cell) : List Nat :=
  set.filterMap fun c => if c.1 / 65536 == 2 && c.1 % 16 == 0 && c.2.getLsbD 7 then some (c.1 % 65536 / 16) else none

/-- Sample period P in reference cycles (R150). -/
def laneP (set : List Host.Cell) (i : Nat) : Nat := (if lanePair set i == 1 then 64 else 32) * 2 ^ laneK set i

/-- Lane delay G in reference cycles (R150): G_front + 23 × Pbin × (2^k − 1). -/
def laneG (set : List Host.Cell) (i : Nat) : Nat :=
  if lanePair set i == 1 then 840 + 23 * 64 * (2 ^ laneK set i - 1) else 416 + 23 * 32 * (2 ^ laneK set i - 1)

/-- The watch window N in samples: round (W × sps) (R161). A half is rounded up: the spec does not say how, so this is the model's
choice (log 130). -/
def laneN (set : List Host.Cell) (i : Nat) : Nat :=
  let p := laneProf set i
  roundDiv (profW set p * 38400000) (laneP set i * profRate set p)

/-- Samples per symbol rounded up (R163). -/
def laneSpsCeil (set : List Host.Cell) (i : Nat) : Nat := ceilDiv 38400000 (laneP set i * profRate set (laneProf set i))

/-- Length of settling in samples (R156). -/
def laneSettle (set : List Host.Cell) (i : Nat) : Nat := ceilDiv (laneG set i) (laneP set i) + laneN set i

/-- Index of the first sample of the block of stroke `n` (R158). -/
def blockFirst (p n : Nat) : Nat := ceilDiv (strokeLen * n) p
/-- Samples in the block of stroke `n` (R158). -/
def blockCount (p n : Nat) : Nat := blockFirst p (n + 1) - blockFirst p n

/-! ### Branches and blanking (R100, R101, R107 to R109, R137) -/

/-- The band whose transmissions blank a chain pair. -/
def pairBand (pair : Nat) : Band := if pair == 0 then .h else .l

/-- Diversity mode of a pair (R100). -/
def State.pairDiv (s : State) (pair : Nat) : Nat := s.cfgBits 1 (64 * pair) 5 2

/-- Branch A or B of a pair is offered to contexts: in RECEIVE and not excluded by DIV (R100). -/
def State.offered (s : State) (pair : Nat) (b : Bool) : Bool :=
  if b then s.pairDiv pair != 1 && s.chainIs (2 * pair + 1) .receive
  else s.pairDiv pair != 2 && s.chainIs (2 * pair) .receive

/-- The synthesiser of a pair (R125). -/
def pairSyn (pair : Nat) : Nat := 3 + pair

/-- The chain a trim item works on; branch A of the band for tuner and power-amplifier items (R409, R415). -/
def trimChain (code : Nat) : Option Nat :=
  match code / 256 with
  | 1 | 2 | 3 => some (code % 256)
  | 4 | 5 => some (2 * (code % 256))
  | _ => none

/-- A trim item in progress, or one that awaits its application catch, blanks the lanes of a pair (R415). -/
def State.trimBlanks (s : State) (pair : Nat) : Bool :=
  let mine (code : Nat) : Bool := (trimChain code).any fun c => c / 2 == pair
  s.trim.apply.any (fun a => mine a.1) || s.trim.now.any fun n => n.paused.isNone && mine n.code

/-- A lane of the pair runs: no blanking on its band, an offered branch in RECEIVE, no chain on its way back to RECEIVE, no hop in
progress, SYN_A locked, and no trim item on the pair (R101, R107 to R109, R137, R415). -/
def State.pairRuns (s : State) (pair : Nat) : Bool :=
  (s.txb (pairBand pair)).blankAt.isNone && (s.offered pair false || s.offered pair true)
    && (s.chain (2 * pair)).former != some .receive && (s.chain (2 * pair + 1)).former != some .receive
    && !(s.synth (pairSyn pair)).planned && s.synIs 1 .locked && !s.trimBlanks pair

/-- The end of a settling of `n` samples that starts at `t`: just after the last of them is emitted (R156). -/
def settleEnd (t p n : Nat) : Nat := (ceilDiv t p + n - 1) * p + 1

/-- Index of the first sample after a settling of `n` samples that starts at `t` (R156). -/
def settledFrom (t p n : Nat) : Nat := ceilDiv t p + n

/-- The datapath of a lane follows a change from the present instant on. -/
def State.turnLane (s : State) (i : Nat) (run clear : Bool) (arm : Nat) : State :=
  s.onLane i fun l => { l with turns := l.turns ++ [{ at_ := s.dtime, run := run, clear := clear, arm := arm }] }

/-- A lane restarts: delay lines cleared, watch unarmed, settling from its first sample (R155, R156). -/
def State.restartLane (s : State) (i : Nat) : State :=
  let p := laneP s.cfg.active i
  let n := laneSettle s.cfg.active i
  (s.turnLane i (s.laneIs i .running) true (settledFrom s.dtime p n)).onLane i fun l =>
    { l with settle := settleEnd s.dtime p n, watchOnly := false }

/-- One enabled lane follows the state of its pair (R101, R108, R155). -/
def State.followLane (s : State) (i : Nat) : State :=
  if s.pairRuns (lanePair s.cfg.active i) then
    if s.laneIs i .running then s else (s.moveLane i .running).restartLane i
  else if s.laneIs i .blanked then s
  else (s.moveLane i .blanked).turnLane i false false 0

/-- Every enabled lane of a pair follows its pair. -/
def State.followLanes (s : State) (pair : Nat) : State :=
  s.each ((enabledLanes s.cfg.active).filter fun i => lanePair s.cfg.active i == pair) State.followLane

/-- Lanes of both pairs follow. -/
def State.followAll (s : State) : State := (s.followLanes 0).followLanes 1

/-- A segment of R201 begins on every lane of a pair: the tuner of the pair changes (R99). -/
def State.cutLanes (s : State) (pair : Nat) : State :=
  s.each ((enabledLanes s.cfg.active).filter fun i => lanePair s.cfg.active i == pair) fun s i => s.onLane i fun l => { l with cut := true }

/-- Distance of two indices. -/
def distance (a b : Nat) : Nat := if a < b then b - a else a - b

end Sys2Proof.Machine
end

