-- ==== Sys2Proof/Machine/Line.lean ====
section
/-! DEFINITION. Line codes, block CRCs and frame layouts of the telegram engine (R215 to R220, R244). -/

namespace Sys2Proof.Machine

/-! ### Line codes (R215, R216) -/

/-- Bits, the first being the most significant (R215). -/
def bitsMsb : List Bool → Nat := fun l => l.foldl (fun n b => 2 * n + b2n b) 0

/-- The 3-out-of-6 code table of EN 13757-4, by nibble (log 19). -/
def code36 : List Nat := [0x16, 0x0D, 0x0E, 0x0B, 0x1C, 0x19, 0x1A, 0x13, 0x2C, 0x25, 0x26, 0x23, 0x34, 0x31, 0x32, 0x29]

/-- The nibble of a 6-chip group, if it is in the table (R216). -/
def nibbleOf (g : Nat) : Option Nat := (List.range 16).find? fun n => code36.getD n 64 == g

/-- Manchester chips to bits, a pair of equal chips being a line error; an odd last chip is ignored (R215, R216; log 15). -/
def manchester : List Bool → Option (List Bool)
  | a :: b :: l => if a == b then none else (manchester l).map (fun r => b :: r)
  | _ => some []

/-- 3-out-of-6 chips to bits; chips after the last whole group are ignored (R215, R216; log 19). -/
def threeOfSix : List Bool → Option (List Bool)
  | a :: b :: c :: d :: e :: f :: l =>
    match nibbleOf (bitsMsb [a, b, c, d, e, f]) with
    | none => none
    | some n => (threeOfSix l).map (fun r => bitOf n 3 :: bitOf n 2 :: bitOf n 1 :: bitOf n 0 :: r)
  | _ => some []

/-- Bits to bytes, most significant bit first; bits after the last whole byte are left out (R215). -/
def toBytes : List Bool → Bytes
  | a :: b :: c :: d :: e :: f :: g :: h :: l => BitVec.ofNat 8 (bitsMsb [a, b, c, d, e, f, g, h]) :: toBytes l
  | _ => []

/-- The bits of a stream after its line code; none for a line error (R215, R216). -/
def lineDecode (line : Nat) (bits : List Bool) : Option (List Bool) :=
  match line with
  | 1 => manchester bits
  | 2 => threeOfSix bits
  | _ => some bits

/-- Bits of bytes, most significant first (R215). -/
def ofBytes (m : Bytes) : List Bool := m.flatMap fun b => ((List.range 8).map fun k => b.getLsbD k).reverse

/-- The bits of a value of `n` bits, most significant first. -/
def msbBits (n v : Nat) : List Bool := ((List.range n).map fun k => bitOf v k).reverse

/-- The nibbles of bits, four at a time, each as its 6-chip group (R215; log 19). -/
def chips36 : List Bool → List Bool
  | a :: b :: c :: d :: l => msbBits 6 (code36.getD (bitsMsb [a, b, c, d]) 0) ++ chips36 l
  | _ => []

/-- Channel bits of the bits sent: the inverse of the line decoding (R215, R243). -/
def lineEncode (line : Nat) (bits : List Bool) : List Bool :=
  match line with
  | 1 => bits.flatMap fun b => [!b, b]
  | 2 => chips36 bits
  | _ => bits

/-- Channel bits that the line code spends on a byte (R215). -/
def lineBits (line : Nat) : Nat :=
  match line with
  | 1 => 16
  | 2 => 12
  | _ => 8

/-- Channel symbols per byte of a profile (R215). -/
def symPerByte (set : List Host.Cell) (p : Nat) : Nat := lineBits (profLine set p) / profBps set p

/-! ### Block CRCs (R217) -/

/-- One bit of the CRC-16 with polynomial 0x3D65 (R217). -/
def crc16Bit (c : U16) : U16 := if c.getLsbD 15 then (c <<< 1) ^^^ 0x3D65#16 else c <<< 1

/-- Eight bits of the CRC-16, not reflected (R217). -/
def crc16Byte (c : U16) (b : U8) : U16 :=
  crc16Bit (crc16Bit (crc16Bit (crc16Bit (crc16Bit (crc16Bit (crc16Bit (crc16Bit (c ^^^ (b.zeroExtend 16 <<< 8)))))))))

/-- The block CRC: initial value 0, final XOR 0xFFFF (R217). -/
def crc16 (m : Bytes) : U16 := m.foldl crc16Byte 0 ^^^ 0xFFFF#16

/-- A block's CRC in transmission order, high byte first (R217). -/
def crcBytes (m : Bytes) : Bytes := [(crc16 m).extractLsb' 8 8, (crc16 m).extractLsb' 0 8]

/-! ### Frame lengths (R218 to R220, R244) -/

/-- Blocks of a format A frame with a given L-field (R218). -/
def blocksA (l : Nat) : Nat := 1 + ceilDiv (l - 9) 16

/-- Bytes of a frame, CRCs included; none where the L-field is MALFORMED (R218 to R220). -/
def frameBytes (fmtB : Bool) (l : Nat) : Option Nat :=
  if fmtB then (if l < 12 || l == 128 || l == 129 then none else some (l + 1))
  else if l < 10 then none
  else some (l + 1 + 2 * blocksA l)

/-- The frame length in symbols that the length probe answers (R220). -/
def probeLength (set : List Host.Cell) (p : Nat) (fmtB : Bool) (l : Nat) : Option Nat :=
  (frameBytes fmtB l).map (· * symPerByte set p)

/-- The data bytes of format A blocks, each checked against its CRC; none where one fails (R218). `n` bytes of data remain. -/
def openBlocksA : (fuel n : Nat) → Bytes → Option Bytes
  | 0, n, _ => if n == 0 then some [] else none
  | f + 1, n, b =>
    if n == 0 then some []
    else
      let k := min 16 n
      if b.length < k + 2 || crcBytes (b.take k) != (b.drop k).take 2 then none
      else (openBlocksA f (n - k) (b.drop (k + 2))).map (b.take k ++ ·)

/-- The frame without its block CRCs, when every block CRC matches (R217 to R219, R221). -/
def openFrame (fmtB : Bool) (b : Bytes) : Option Bytes :=
  let l := fieldAt 0 1 b
  match frameBytes fmtB l with
  | none => none
  | some n =>
    if b.length < n then none
    else if !fmtB then
      if crcBytes (b.take 10) != (b.drop 10).take 2 then none
      else (openBlocksA 16 (l - 9) (b.drop 12)).map (b.take 10 ++ ·)
    else if l ≤ 127 then
      if crcBytes (b.take (l - 1)) == (b.drop (l - 1)).take 2 then some (b.take (l - 1)) else none
    else if crcBytes (b.take 126) == (b.drop 126).take 2 && crcBytes ((b.drop 128).take (l - 129)) == (b.drop (l - 1)).take 2 then
      some (b.take 126 ++ (b.drop 128).take (l - 129))
    else none

/-- The blocks of 16 after the first of format A, each with its CRC (R218). -/
def sealBlocksA : (fuel : Nat) → Bytes → Bytes
  | 0, _ => []
  | f + 1, b => if b.isEmpty then [] else b.take 16 ++ crcBytes (b.take 16) ++ sealBlocksA f (b.drop 16)

/-- A frame with the block CRCs of its format (R217 to R219, R244). -/
def sealFrame (fmtB : Bool) (b : Bytes) : Bytes :=
  if !fmtB then b.take 10 ++ crcBytes (b.take 10) ++ sealBlocksA 16 (b.drop 10)
  else if b.length ≤ 126 then b ++ crcBytes b
  else b.take 126 ++ crcBytes (b.take 126) ++ b.drop 126 ++ crcBytes (b.drop 126)

/-- Bytes that block CRCs add to a frame of `f` bytes sent in a format (R244). -/
def crcCount (fmtB : Bool) (f : Nat) : Nat :=
  if fmtB then (if f ≤ 126 then 2 else 4) else 2 * blocksA (f - 1)

/-- The frame's L-field fits its length for a format (R244). -/
def lengthFits (fmtB : Bool) (l f : Nat) : Bool :=
  if fmtB then (12 ≤ l && l ≤ 127 && f + 1 == l) || (130 ≤ l && l ≤ 255 && f + 3 == l)
  else 10 ≤ l && l ≤ 255 && f == l + 1

/-- Symbols radiated for a frame of `f` bytes: preamble, sync word, frame and postamble (R243). -/
def txSymbols (set : List Host.Cell) (p f : Nat) (fmtB crcs : Bool) : Nat :=
  let pre := if profTxPre set p == 0 then profPreLen set p else profTxPre set p
  let post := let x := setNat set 4 12 1; if x == 0 then 4 else x
  pre + profSyncLen set p / profBps set p + (f + if crcs then crcCount fmtB f else 0) * symPerByte set p + post

/-- Airtime in reference cycles, rounded up (R243). -/
def airtime (set : List Host.Cell) (p f : Nat) (fmtB crcs : Bool) : Nat := symCycles set p (txSymbols set p f fmtB crcs)

end Sys2Proof.Machine
end

