-- ==== Sys2Proof/Machine/DirOps.lean ====
section
/-! DEFINITION. The meter directory, its hold and its schedule, and the delivery records of telegrams (chapter 9). -/

namespace Sys2Proof.Machine

/-! ### Entries and the index table (R224, R225, R238 to R240) -/

/-- A meter address: identification, manufacturer, version, type (R223). -/
abbrev Addr := U32 × U16 × U8 × U8

/-- Flags of an entry (R225). -/
def fInUse : Nat := 0
def fKey : Nat := 1
def fWatch : Nat := 2
def fMissing : Nat := 3
def fLearned : Nat := 4
def fPredicting : Nat := 5
def fHasLast : Nat := 6

/-- A flag of an entry. -/
def DirEntry.has (e : DirEntry) (i : Nat) : Bool := e.flags.getLsbD i
/-- An entry with a flag set or cleared. -/
def DirEntry.mark (e : DirEntry) (i : Nat) (v : Bool) : DirEntry :=
  let bit := BitVec.ofNat 16 (2 ^ i)
  { e with flags := if v then e.flags ||| bit else e.flags &&& ~~~bit }

/-- Capacity by the DRAM fitted (R224). -/
def State.capacity (s : State) : Nat :=
  if s.dir.dramMib == 512 then 262144 else if s.dir.dramMib == 1024 then 2097152 else 8388608

/-- The address of an entry. -/
def DirEntry.addr (e : DirEntry) : Addr := (e.ident, e.mfr, e.version, e.type_)

/-- The entry in use with an address, if any (R224). -/
def State.lookup (s : State) (a : Addr) : Option Nat :=
  (s.dir.entries.find? fun e => e.2.has fInUse && e.2.addr == a).map (·.1)

/-- The key of R224: identification, manufacturer, version, type as a u64. -/
def addrKey (a : Addr) : Nat := a.1.toNat + 2 ^ 32 * a.2.1.toNat + 2 ^ 48 * a.2.2.1.toNat + 2 ^ 56 * a.2.2.2.toNat

/-- The first slot of an address in a table of `2 × capacity` slots (R224; log 14). -/
def State.firstSlot (s : State) (a : Addr) : Nat := Config.addressHash (addrKey a) % (2 * s.capacity)

/-- The first empty slot from `k` on (R224; log 14). -/
def emptySlot (slots : Tab U32) (n : Nat) : (fuel k : Nat) → Nat
  | 0, k => k
  | f + 1, k => if getT 0 slots k == 0 then k else emptySlot slots n f ((k + 1) % n)

/-- The slot that holds an index, if any. -/
def slotOf (slots : Tab U32) (index : Nat) : Option Nat := (slots.find? fun e => e.2 == BitVec.ofNat 32 (index + 1)).map (·.1)

/-- An index enters the index table (R224). -/
def State.addSlot (s : State) (a : Addr) (index : Nat) : State :=
  let n := 2 * s.capacity
  s.onDir fun d => { d with slots := putT d.slots (emptySlot d.slots n d.slots.length (s.firstSlot a)) (BitVec.ofNat 32 (index + 1)) }

/-- The slot of an index is marked removed (R239). -/
def State.dropSlot (s : State) (index : Nat) : State :=
  s.onDir fun d => match slotOf d.slots index with
    | some k => { d with slots := putT d.slots k 0xFFFFFFFF }
    | none => d

/-- The index table rebuilt from the entries in use, without removed slots (R240). -/
def State.rebuildSlots (s : State) : State :=
  let s1 := s.onDir fun d => { d with slots := [] }
  s1.each (s.dir.entries.filter fun e => e.2.has fInUse) fun s e => s.addSlot e.2.addr e.1

/-- The lowest free index not in quarantine (R238). -/
def State.freeIndex (s : State) : Option Nat :=
  let used (i : Nat) : Bool := (getT {} s.dir.entries i).has fInUse || s.dir.quarantine.any fun q => q.1 == i && decide (s.dtime < q.2)
  (List.range (min s.capacity (s.dir.entries.length + s.dir.quarantine.length + 1))).find? fun i => !used i

/-- Entries in use. -/
def State.entriesUsed (s : State) : Nat := (s.dir.entries.filter fun e => e.2.has fInUse).length

/-- The unwrapped key of an index leaves the key cache (R227). -/
def State.dropKey (s : State) (index : Nat) : State := s.onDir fun d => { d with keys := d.keys.filter fun k => k.1 != index }

/-- The unwrapped key of an entry through the cache; a miss unwraps it and advances key_unwraps (R227). -/
def State.meterKey (s : State) (index : Nat) : State × Bytes :=
  match s.dir.keys.find? (fun k => k.1 == index) with
  | some k => (s.onDir fun d => { d with keys := k :: d.keys.filter fun x => x.1 != index }, k.2)
  | none =>
    let key := (unwrapKey s.boot.wrapKey (s.entry index).wkey).getD []
    ((s.onDir fun d => { d with keys := ((index, key) :: d.keys).take 4096 }).onEng fun e => { e with keyUnwraps := e.keyUnwraps + 1 }, key)

/-! ### Headers of a frame (R223; log 24) -/

/-- What the headers of a frame say: meter address, access number, security mode, where the encrypted part begins and its
16-byte blocks, and the message counter of the authentication and fragmentation layer. -/
structure Header where
  addr    : Addr
  access  : Nat
  mode    : Nat
  start   : Nat
  blocks  : Nat
  counter : Nat
  deriving DecidableEq, Repr

/-- The link-layer address of a frame without block CRCs (R223). -/
def linkAddr (f : Bytes) : Addr :=
  (BitVec.ofNat 32 (fieldAt 4 4 f), BitVec.ofNat 16 (fieldAt 2 2 f), BitVec.ofNat 8 (fieldAt 8 1 f), BitVec.ofNat 8 (fieldAt 9 1 f))

/-- The headers from the CI-field at `o` (R223). -/
def headerAt (f : Bytes) (o counter : Nat) : Header :=
  let plain : Header := { addr := linkAddr f, access := 0, mode := 0, start := 0, blocks := 0, counter := 0 }
  let ci := fieldAt o 1 f
  let cfg (a : Nat) := fieldAt a 2 f
  let mk (addr : Addr) (acc : Nat) : Header :=
    let mode := bitsOf (cfg (acc + 2)) 8 5
    { addr := addr, access := fieldAt acc 1 f, mode := mode, start := acc + 4 + (if mode == 7 then 1 else 0)
      blocks := bitsOf (cfg (acc + 2)) 4 4, counter := counter }
  if ci == 0x7A && o + 5 ≤ f.length then mk (linkAddr f) (o + 1)
  else if ci == 0x72 && o + 13 ≤ f.length then
    mk (BitVec.ofNat 32 (fieldAt (o + 1) 4 f), BitVec.ofNat 16 (fieldAt (o + 5) 2 f), BitVec.ofNat 8 (fieldAt (o + 7) 1 f)
        , BitVec.ofNat 8 (fieldAt (o + 8) 1 f)) (o + 9)
  else plain

/-- The headers of a frame without block CRCs (R223). -/
def headerOf (f : Bytes) : Header :=
  if fieldAt 10 1 f == 0x90 then
    let fcl := fieldAt 12 2 f
    let o := 14 + (if bitOf fcl 13 then 1 else 0) + (if bitOf fcl 9 then 2 else 0)
    let next := 12 + fieldAt 11 1 f
    let h := headerAt f next (fieldAt o 4 f)
    if h.start == 0 then h else { h with mode := 7 }
  else headerAt f 10 0

/-! ### Records (R236) -/

/-- Flag bits of a record (R236). -/
def rCaptured : U16 := 0x0001
def rCancelled : U16 := 0x0002
def rEntangled : U16 := 0x0004
def rBlinded : U16 := 0x0008
def rDuplicate : U16 := 0x0010
def rFormatB : U16 := 0x0020
def rUnknown : U16 := 0x0040
def rEncrypted : U16 := 0x0080
def rDecrypted : U16 := 0x0100
def rVerifyFail : U16 := 0x0200
def rReplay : U16 := 0x0400
def rRaw : U16 := 0x0800
def rTruncated : U16 := 0x1000

/-- A telegram record with its sequence number and UTC (R236). -/
def TelRec.bytes (r : TelRec) (utc : Nat) (seq : U32) : Bytes :=
  le 4 seq.toNat ++ le 8 r.tEnd ++ le 8 utc ++ le 4 (r.dirIndex.getD 0xFFFFFFFF) ++ leI 4 r.freqOff ++ leI 2 r.rssi ++ leI 2 r.snr
    ++ le 2 r.devErr ++ le 2 (b2n r.branchB * 512 + r.lane) ++ le 1 r.lqi ++ le 1 r.gen.toNat ++ le 2 r.flags.toNat
    ++ le 1 r.profile ++ le 1 r.access.toNat ++ le 1 r.security.toNat ++ le 1 0 ++ le 4 r.dedup.toNat ++ r.payload

/-- The common head of records of other kinds: sequence, DTIME, UTC at offsets 0 to 19 (R236). -/
def recordHead (seq : U32) (t utc : Nat) : Bytes := le 4 seq.toNat ++ le 8 t ++ le 8 utc

/-- The de-duplication CRC: CRC-32 over the frame from the C-field on, before decryption (R229). -/
def dedupCrc (frame : Bytes) : U32 := crc32 (frame.drop 1)

/-- LQI (R191). -/
def lqiOf (snr : Int) (devErr errs : Nat) : Nat :=
  let q1 := floorDiv (snr + 82) 4
  let c1 := if q1 < 0 then 0 else if 160 < q1 then 160 else q1.toNat
  c1 + (64 - devErr * 64 / 500) + (31 - 8 * errs)

/-! ### The hold and the schedule (R229 to R233) -/

/-- Two records are copies (R229). -/
def sameCopy (a b : TelRec) : Bool := a.key == b.key && a.access == b.access && a.dedup == b.dedup

/-- `a` leaves the hold rather than `b`: LQI, SNR, earlier t_end, lower lane (R231). -/
def betterCopy (a b : TelRec) : Bool :=
  b.lqi < a.lqi || (a.lqi == b.lqi && (b.snr < a.snr || (a.snr == b.snr && (a.tEnd < b.tEnd || (a.tEnd == b.tEnd && a.lane < b.lane)))))

/-- The lower median of the intervals held (R232). -/
def insertNat (x : Nat) : List Nat → List Nat
  | [] => [x]
  | y :: l => if x ≤ y then x :: y :: l else y :: insertNat x l
def lowerMedian (l : List Nat) : Nat := (l.foldl (fun a x => insertNat x a) []).getD ((l.length - 1) / 2) 0

/-- An interval enters the ring of eight (R232). -/
def DirEntry.pushInterval (e : DirEntry) (msec : Nat) : DirEntry :=
  { e with history := setAt (BitVec.ofNat 32 msec) e.history e.histHead, histHead := (e.histHead + 1) % 8, histCount := min 8 (e.histCount + 1) }

/-- The interval a prediction uses, in reference cycles; 0 when none is known (R232, R233). -/
def DirEntry.interval (e : DirEntry) : Nat :=
  if e.has fLearned then e.learned.toNat * ms else e.expInterval.toNat * sec

/-- The half-width w of a window, in whole ms (R233; log 25). -/
def DirEntry.halfWidth (e : DirEntry) : Nat :=
  max (2 * sec) ((if e.has fLearned then e.learned.toNat / 16 else e.expInterval.toNat * 1000 / 16) * ms)

/-- The update of an entry by an arrival at `t` (R232). -/
def DirEntry.arrive (e : DirEntry) (t : Nat) : DirEntry :=
  let e1 := if e.lastArrival != 0 && decide (e.lastArrival + sec ≤ t) then e.pushInterval ((t - e.lastArrival) / ms) else e
  let e2 := { e1 with lastArrival := t, missed := 0 }.mark fMissing false
  let e3 := if 4 ≤ e2.histCount then
      { e2 with learned := BitVec.ofNat 32 (lowerMedian ((e2.history.take e2.histCount).map fun x : U32 => x.toNat)) }.mark fLearned true
    else e2
  if e3.interval == 0 then { e3 with window := 0 }.mark fPredicting false
  else { e3 with window := t + e3.interval }.mark fPredicting true

/-- A record of a known meter leaves the hold or bypasses it: its entry notes it, and it is an arrival (R231, R232). The entry
must still belong to the meter (R242). -/
def State.noteArrival (s : State) (r : TelRec) : State :=
  match r.dirIndex with
  | none => s
  | some i =>
    if (s.entry i).has fInUse && (s.entry i).addr == r.key then
      s.onEntry i fun e =>
        ({ e with lastAcc := r.access, lastCrc := r.dedup, lastDupT := r.tEnd, lastLqi := BitVec.ofNat 8 r.lqi
                  lastSrc := BitVec.ofNat 16 (b2n r.branchB * 512 + r.lane), lastSec := r.security
                  delivered := e.delivered + 1 }.mark fHasLast true).arrive r.tEnd
    else s

/-- A record enters the delivery queue (R237). -/
def State.deliverTel (s : State) (r : TelRec) : State :=
  (s.deliver (r.bytes (s.utcField r.tEnd))).noteArrival r

/-- A record goes into the hold: it joins its group, takes a place, or bypasses a full hold (R231). -/
def State.intoHold (s : State) (r : TelRec) : State :=
  match s.dir.hold.find? (fun p => sameCopy p.best r) with
  | some _ =>
    let join (p : HoldPlace) : HoldPlace :=
      if sameCopy p.best r then
        let best := if betterCopy r p.best then r else p.best
        { p with best := { best with flags := best.flags ||| rDuplicate } }
      else p
    (s.onDir fun d => { d with hold := d.hold.map join }).onEng fun e => { e with dupInHold := e.dupInHold + 1 }
  | none =>
    if 4096 ≤ s.dir.hold.length then (s.onEng fun e => { e with holdBypass := e.holdBypass + 1 }).deliverTel r
    else s.onDir fun d => { d with hold := d.hold ++ [{ best := r, ends := s.dtime + 768000 }] }

/-- EV_MISMATCH at most once per meter in 3,600 s, with the failures since the previous one (R63). -/
def State.mismatch (s : State) (index mode : Nat) : State :=
  let old := s.dir.mismatch.find? fun m => m.1 == index
  let rest := s.dir.mismatch.filter fun m => m.1 != index
  match old with
  | some (_, t, n) =>
    if s.dtime < t + 3600 * sec then s.onDir fun d => { d with mismatch := (index, t, n + 1) :: rest }
    else (s.onDir fun d => { d with mismatch := (index, s.dtime, 0) :: rest }).pushEvent 0x8004 6 0 index
      (le 4 index ++ le 1 mode ++ le 3 0 ++ le 4 (n + 1).toNat)
  | none => (s.onDir fun d => { d with mismatch := (index, s.dtime, 0) :: rest }).pushEvent 0x8004 6 0 index
      (le 4 index ++ le 1 mode ++ le 3 0 ++ le 4 1)

/-! ### Decryption (R228) -/

/-- What decryption makes of a frame: frame bytes, flags, state with its counters. -/
def State.decrypt (s : State) (index : Nat) (h : Header) (frame : Bytes) : State × Bytes × U16 :=
  let e := s.entry index
  let n := 16 * h.blocks
  let beyond := frame.length < h.start + n
  let failed (s : State) : State × Bytes × U16 :=
    (((s.onEng fun c => { c with decryptFail := c.decryptFail + 1 }).onEntry index
      fun e => { e with decFail := e.decFail + 1 }).mismatch index h.mode, frame, rEncrypted ||| rVerifyFail)
  let accept (s : State) (plain : Bytes) : State × Bytes × U16 :=
    if (plain.take 2) == [0x2F, 0x2F] then
      let s1 := s.onEng fun c => { c with decryptOk := c.decryptOk + 1 }
      let s2 := if h.mode == 7 then s1.onEntry index fun e => { e with m7 := BitVec.ofNat 32 h.counter } else s1
      (s2, frame.take h.start ++ plain ++ frame.drop (h.start + n), rDecrypted)
    else failed s
  if h.mode == 5 then
    if n == 0 then (s, frame, 0)
    else if !e.has fKey then (s.onEng fun c => { c with noKey := c.noKey + 1 }, frame, rEncrypted)
    else if beyond then failed s
    else
      let (s1, key) := s.meterKey index
      let acc := BitVec.ofNat 8 h.access
      accept s1 (cbcDecrypt key h.blocks (slice 2 8 frame ++ List.replicate 8 acc) ((frame.drop h.start).take n))
  else if h.mode == 7 then
    if h.counter ≤ e.m7.toNat then (s.onEng fun c => { c with replay := c.replay + 1 }, frame, rEncrypted ||| rReplay)
    else if !e.has fKey then
      if n == 0 then (s, frame, 0) else (s.onEng fun c => { c with noKey := c.noKey + 1 }, frame, rEncrypted)
    else if beyond then failed s
    else
      let (s1, key) := s.meterKey index
      let keys := Config.mode7Keys key (slice 2 8 frame) h.counter
      if !Config.layerMacOk keys.2 frame then failed s1
      else if n == 0 then (s1, frame, 0)
      else accept s1 (cbcDecrypt keys.1 h.blocks (List.replicate 16 0) ((frame.drop h.start).take n))
  else (s, frame, if h.mode == 0 then 0 else rEncrypted)

/-- The directory engine processes one parsed frame (R228 to R231, R234). -/
def State.processFrame (s : State) (f : Frame) : State :=
  let h := headerOf f.bytes
  let crc := dedupCrc f.bytes
  let acc := BitVec.ofNat 8 h.access
  let mk (index : Option Nat) (frame : Bytes) (flags : U16) : TelRec :=
    { key := h.addr, dirIndex := index, tEnd := f.tEnd, lane := f.lane, branchB := f.branchB, profile := f.profile, lqi := f.lqi
      rssi := f.rssi, snr := f.snr, freqOff := f.freqOff, devErr := f.devErr, gen := f.gen, flags := f.flags ||| flags
      access := acc, security := BitVec.ofNat 8 h.mode, dedup := crc, payload := frame.drop 1 }
  match s.lookup h.addr with
  | none =>
    (s.onEng fun e => { e with unknownMeters := e.unknownMeters + 1 }).intoHold
      (mk none f.bytes (rUnknown ||| (if h.mode == 0 then 0 else rEncrypted)))
  | some i =>
    let e := s.entry i
    if e.has fHasLast && e.lastAcc == acc && e.lastCrc == crc && decide (distance f.tEnd e.lastDupT ≤ 4608000000) then
      (s.onEng fun c => { c with dupDiscarded := c.dupDiscarded + 1 }).onEntry i fun e => { e with dups := e.dups + 1 }
    else
      let (s1, frame, flags) := s.decrypt i h f.bytes
      s1.intoHold (mk (some i) frame flags)

end Sys2Proof.Machine
end

