-- ==== Sys2Proof/Machine/Memory.lean ====
section
/-! DEFINITION. Memories: the system address map, instances and their power, bytes, and the patrol engines (R389 to R408). -/

namespace Sys2Proof.Machine

/-! ### The system address map (R389, R395) -/

/-- What a system address is (R389). -/
inductive Place where
  | unmapped
  | coxSram
  /-- a byte of an on-chip memory instance -/
  | inst (n : Nat)
  | diag
  | dram
  deriving DecidableEq, Repr

/-- The place of a system address, with `mib` of DRAM fitted (R389, R395). -/
def placeOf (mib a : Nat) : Place :=
  if a < 0x200000 then .coxSram
  else if 0x04000000 ≤ a && a < 0x05000000 then
    let c := (a - 0x04000000) / 0x40000
    let r := (a - 0x04000000) % 0x40000
    if r % 0x10000 < 0x8000 && r / 0x10000 < 3 then .inst (3 * c + r / 0x10000) else .unmapped
  else if 0x10000000 ≤ a && a < 0x10800000 then
    .inst (192 + (a - 0x10000000) / 0x10000)
  else if 0x20000000 ≤ a && a < 0x21000000 then .inst (320 + (a - 0x20000000) / 0x40000)
  else if 0x2F000000 ≤ a && a < 0x2F010000 then .diag
  else if 0x80000000 ≤ a && a < 0x80000000 + mib * 0x100000 then .dram
  else .unmapped

def State.place (s : State) (a : Nat) : Place := placeOf s.dir.dramMib a

/-- First system address of an instance (R395). -/
def instBase (n : Nat) : Nat :=
  if n < 192 then 0x04000000 + 0x40000 * (n / 3) + 0x10000 * (n % 3)
  else if n < 320 then 0x10000000 + 0x10000 * (n - 192)
  else 0x20000000 + 0x40000 * (n - 320)

/-- Size of an instance in bytes (R389, R395). -/
def instSize (n : Nat) : Nat := if n < 192 then 0x8000 else if n < 320 then 0x10000 else 0x40000

/-! ### Bytes (R396; log 2, log 13) -/

/-- The byte store is in its canonical form: addresses strictly rising, and no entry equal to what an unlisted address reads as. -/
def Mems.wf (m : Mems) : Bool := cellsWf (fun _ => 0) m.cells

/-- The byte of plain memory at a system address: written content, 0 where nothing was written, a free value where the content was lost. -/
def State.memByte (s : State) (a : Nat) : U8 :=
  match s.place a with
  | .inst n =>
    let i := s.inst n
    if i.lost != 0 && !s.mem.fresh.contains a then Config.lostByte i.lost a else readCell (fun _ => 0) s.mem.cells a
  | _ => readCell (fun _ => 0) s.mem.cells a

/-- `n` bytes of memory from `a` on. -/
def State.memRead (s : State) (a n : Nat) : Bytes := (List.range n).map fun i => s.memByte (a + i)

/-- An address kept among those written since the last loss, rising. -/
def insertAddr (x : Nat) : List Nat → List Nat
  | [] => [x]
  | y :: l => if x < y then x :: y :: l else if x == y then y :: l else y :: insertAddr x l

/-- A byte of plain memory written. -/
def State.pokeByte (s : State) (a : Nat) (b : U8) : State :=
  match s.place a with
  | .inst n =>
    s.onMem fun m => { m with cells := writeCell (fun _ => 0) m.cells a b
                              fresh := if (s.inst n).lost != 0 then insertAddr a m.fresh else m.fresh }
  | _ => s.onMem fun m => { m with cells := writeCell (fun _ => 0) m.cells a b }

/-- Bytes of plain memory written in ascending order. -/
def State.pokeBytes (s : State) : Nat → Bytes → State
  | _, [] => s
  | a, b :: bs => (s.pokeByte a b).pokeBytes (a + 1) bs

/-- A counter of R408, by its place in the table, advances. -/
def State.countMem (s : State) (i : Nat) : State := s.onMem fun m => { m with counters := modifyAt (· + 1) m.counters i }

/-! ### Patrol windows (R404 to R406) -/

def State.engine (s : State) (e : Nat) : Patrol := getT {} s.mem.engines e
def State.onEngine (s : State) (e : Nat) (f : Patrol → Patrol) : State := s.onMem fun m => { m with engines := putT m.engines e (f (getT {} m.engines e)) }

/-- The patrol engine of an instance: one for each crew, and engine 8 for the shared store (R404). -/
def engineOf (n : Nat) : Nat := if n < 192 then n / 24 else if n < 320 then (n - 192) / 16 else 8

/-- Windows of an instance (R404). -/
def instWindows (n : Nat) : List Nat := (List.range (instSize n / 2048)).map fun i => instBase n + 2048 * i

/-- Progress of a sweep: `k` more windows count as done (R65, R404). -/
def State.patrolStep (s : State) (k : Nat) : State :=
  match s.mem.sweep with
  | none => s
  | some (d, t, _) => (s.progressEvent 0 0x0001 d (d + k) t).onMem fun m => { m with sweep := some (d + k, t, s.dtime) }

/-- An instance's window is borrowed, or returned (R395, R405). -/
def State.setBorrowed (s : State) (w : Nat) (b : Bool) : State :=
  match s.place w with
  | .inst n => s.onInst n fun i => { i with borrowed := b }
  | _ => s

/-- The instance of a window is ON. -/
def State.windowOn (s : State) (w : Nat) : Bool :=
  match s.place w with
  | .inst n => (s.inst n).power == 2
  | _ => false

/-- The next window of an engine: one to be retried after 64 others or at the end of the pass, else the next of the pass (R404, R406). -/
def Patrol.pick (p : Patrol) : Option (Nat × Patrol) :=
  match p.retry.find? (fun r => r.2.1 == 0 || p.left.isEmpty) with
  | some r => some (r.1, p)
  | none =>
    match p.left with
    | [] => none
    | w :: rest => some (w, { p with left := rest })

/-- An engine borrows its next window; windows of instances that are not ON count as done, untested (R404, R405). -/
def State.nextWindow (s : State) (e : Nat) : (fuel : Nat) → State
  | 0 => s
  | f + 1 =>
    let p := s.engine e
    if p.now.isSome then s
    else match p.pick with
      | none => s
      | some (w, p1) =>
        if s.windowOn w then (s.onEngine e fun _ => { p1 with now := some (w, false) }).setBorrowed w true
        else ((s.onEngine e fun _ => { p1 with retry := p1.retry.filter fun r => r.1 != w }).patrolStep 1).nextWindow e f

/-- The sweep ends when no engine has a window left (R404). -/
def State.endSweep (s : State) : State :=
  if s.mem.sweep.isSome && s.mem.engines.all (fun x => x.2.now.isNone && x.2.left.isEmpty && x.2.retry.isEmpty) then
    (s.onMem fun m => { m with sweep := none, nextSweep := some (max (m.sweepAt + 3600 * sec) s.dtime) }).countMem 4
  else s

/-- An engine is done with a window and goes on to the next (R405, R406). `again` says that the window is to be retried. -/
def State.releaseWindow (s : State) (e w : Nat) (again : Bool) : State :=
  let p := s.engine e
  let tries := match p.retry.find? (fun r => r.1 == w) with | some r => r.2.2 | none => 0
  let others := (p.retry.filter fun r => r.1 != w).map fun r => (r.1, r.2.1 - 1, r.2.2)
  let keep := again && tries + 1 < 8
  let s1 := (s.onEngine e fun p => { p with now := none, retry := if keep then others ++ [(w, 64, tries + 1)] else others }).setBorrowed w false
  let s2 := if again then s1.countMem 6 else s1
  let s3 := if again && !keep then s2.countMem 7 else s2
  let s4 := if keep then s3 else s3.patrolStep 1
  (s4.nextWindow e 8192).endSweep

/-- A write reaches a window under test: the window is abandoned and its copy, with the write, is written back (R406). -/
def State.touchWindow (s : State) (a : Nat) : State :=
  match s.place a with
  | .inst n =>
    let e := engineOf n
    if (s.engine e).now == some (a / 2048 * 2048, false) then s.onEngine e fun p => { p with now := some (a / 2048 * 2048, true) } else s
  | _ => s

/-- Bytes written by a processor, a producer or DMA (R406). -/
def State.memWrite (s : State) (a : Nat) (b : Bytes) : State :=
  ((if b.isEmpty then s else (s.touchWindow a).touchWindow (a + b.length - 1))).pokeBytes a b

/-- The window of an instance that leaves ON is abandoned: written back for RETENTION, discarded for OFF (R406). -/
def State.leaveOn (s : State) (n : Nat) : State :=
  let e := engineOf n
  match (s.engine e).now with
  | some (w, _) => if s.place w == .inst n then s.releaseWindow e w true else s
  | none => s

/-! ### Instance power (R395, R396) -/

/-- The content of an instance is lost: undefined until written (R396). -/
def State.loseInst (s : State) (n : Nat) : State :=
  let keep (a : Nat) : Bool := a < instBase n || instBase n + instSize n ≤ a
  ((s.onMem fun m => { m with cells := m.cells.filter fun c => keep c.1, fresh := m.fresh.filter keep }).onInst n
    fun i => { i with lost := s.fresh + 1 }).draw

/-- The Cox sets the power of an instance: 0 OFF, 1 RETENTION, 2 ON (R396). -/
def State.setPower (s : State) (n p : Nat) : State :=
  if (s.inst n).power == p then s
  else
    let s1 := s.onInst n fun i => { i with power := p }
    let s2 := if p == 2 then s1 else s1.leaveOn n
    if p == 0 then s2.loseInst n else s2

/-- The Cox sets the power of several instances. -/
def State.setPowers (s : State) (l : List Nat) (p : Nat) : State := s.each l fun s n => s.setPower n p

/-- An access wakes an instance in RETENTION, which is counted (R396). -/
def State.wakeInst (s : State) (n : Nat) : State :=
  if (s.inst n).power == 1 then (s.onInst n fun i => { i with power := 2 }).countMem 2 else s

/-! ### Meanings -/

/-- PATROL_SWEEP_START: a sweep over every ON instance starts when it is due, in ROW or PADDLE (R404, R437). -/
def execPatrolSweepStart (s : State) : Out :=
  match s.mem.nextSweep with
  | none => .next s
  | some t =>
    if s.mem.sweep.isSome || !(s.pwr.st == .row || s.pwr.st == .paddle) then .next s
    else
      let s1 := s.at t
      let on := (List.range 384).filter fun n => (s.inst n).power == 2
      let total := (on.map fun n => instSize n / 2048).sum
      let s2 := s1.onMem fun m => { m with sweep := some (0, total, s1.dtime), sweepAt := s1.dtime, nextSweep := none }
      let s3 := s2.each (List.range 9) fun s e =>
        (s.onEngine e fun _ => { left := ((on.filter fun n => engineOf n == e).map instWindows).flatten }).nextWindow e 8192
      .next s3.endSweep

/-- A failing word of a window (R407). -/
def State.wordFails (s : State) (w k : Nat) (readBackBad : Bool) : State :=
  let a := w + 8 * (k % 256)
  match s.place w with
  | .inst n =>
    let s1 := (s.onInst n fun i => { i with failed := true }).countMem 8
    let s2 := s1.onMem fun m => { m with lastFail := BitVec.ofNat 32 a
                                         badSculls := if n < 192 && !m.badSculls.contains (n / 3) then m.badSculls ++ [n / 3] else m.badSculls }
    let s3 := s2.onTrim fun t => { t with ledger := { t.ledger with patrolFails := t.ledger.patrolFails + 1, lastFail := BitVec.ofNat 32 a } }
    if readBackBad then
      ((s3.countMem 9).pokeBytes a ((List.range 8).map fun i => Config.lostByte (s.fresh + 1) (a + i))).draw
    else s3
  | _ => s

/-- PATROL_WINDOW_DONE: save, test and restore of an engine's window are complete (R405, R407). -/
def execPatrolWindowDone (engine : Fin 9) (badWord : Option Nat) (readBackBad : Bool) (s : State) : Out :=
  match (s.engine engine.val).now with
  | some (w, false) =>
    let s1 := match badWord with | some k => s.wordFails w k readBackBad | none => s
    .next ((s1.countMem 5).releaseWindow engine.val w false)
  | _ => .next s

/-- PATROL_WRITE_BACK_DONE: an abandoned window is released, to be retried (R406). -/
def execPatrolWriteBackDone (engine : Fin 9) (s : State) : Out :=
  match (s.engine engine.val).now with
  | some (w, true) => .next (s.releaseWindow engine.val w true)
  | _ => .next s

end Sys2Proof.Machine
end

