-- ==== Sys2Proof/Machine/Filter.lean ====
section
/-! DEFINITION. The lane datapath and the preamble watch: mixer, half-band stages, blocks as they fill, correlation, peaks and hits
(R143 to R163). -/

namespace Sys2Proof.Machine

/-! ### Mixer (R145, R146) -/

def Quad.zero : Quad := { ai := 0, aq := 0, bi := 0, bq := 0 }
def Quad.add (x y : Quad) : Quad := { ai := x.ai + y.ai, aq := x.aq + y.aq, bi := x.bi + y.bi, bq := x.bq + y.bq }
def Quad.scale (h : Int) (x : Quad) : Quad := { ai := h * x.ai, aq := h * x.aq, bi := h * x.bi, bq := h * x.bq }
def Quad.map (f : Int → Int) (x : Quad) : Quad := { ai := f x.ai, aq := f x.aq, bi := f x.bi, bq := f x.bq }
/-- A branch of a sample, true for B. -/
def Quad.branch (x : Quad) (b : Bool) : Int × Int := if b then (x.bi, x.bq) else (x.ai, x.aq)
/-- A sample with the branches that are not received at zero (R158). -/
def Quad.mask (x : Quad) (a b : Bool) : Quad :=
  { ai := if a then x.ai else 0, aq := if a then x.aq else 0, bi := if b then x.bi else 0, bq := if b then x.bq else 0 }

/-- A sample with what saturated on its way: branch A, branch B. -/
structure Satted where
  x : Quad
  a : Bool
  b : Bool
  deriving DecidableEq, Repr

/-- Saturation of a sample to a width (R146, R147). -/
def Quad.sat (bits : Nat) (x : Quad) : Satted :=
  let y := x.map (satI bits)
  { x := y, a := x.ai != y.ai || x.aq != y.aq, b := x.bi != y.bi || x.bq != y.bq }

/-- Bin rate of a pair in samples per second, and bin period Pbin in reference cycles (R143). -/
def binRate (pair : Nat) : Nat := if pair == 1 then 600000 else 1200000
def binPeriod (pair : Nat) : Nat := if pair == 1 then 64 else 32
/-- Bin samples of a stroke (R143). -/
def binsPerStroke (pair : Nat) : Nat := strokeLen / binPeriod pair

/-- The NCO frequency word F = round (NCO_HZ × 2^32 / bin rate), ties toward +∞ (R146). -/
def ncoWord (set : List Host.Cell) (i : Nat) : Int := roundI (laneNco set i * 4294967296) (binRate (lanePair set i))

/-- Phase of the NCO at bin sample `jb`: (F × jb) mod 2^32 (R146). -/
def ncoPhase (f : Int) (jb : Nat) : Nat := (f * jb % 4294967296).toNat

/-- Entry `p` of cos_table and of sin_table: round (32,767 × cos (2 π p / 16,384)) (R146). -/
def ncoTable (p : Nat) : Int × Int :=
  let c := cosSin ((p : Int) * 67108864)
  (roundI (32767 * c.1) unit60, roundI (32767 * c.2) unit60)

/-- The mixer at bin sample `jb` (R146). -/
def mixer (f : Int) (jb : Nat) (b : BinSample) : Satted :=
  let t := ncoTable (ncoPhase f jb / 262144)
  let i (x y : U16) : Int := Int.fdiv (x.toInt * t.1 + y.toInt * t.2 + 16384) 32768
  let q (x y : U16) : Int := Int.fdiv (y.toInt * t.1 - x.toInt * t.2 + 16384) 32768
  Quad.sat 24 { ai := i b.ai b.aq, aq := q b.ai b.aq, bi := i b.bi b.bq, bq := q b.bi b.bq }

/-! ### Half-band stages (R147 to R149, R154) -/

/-- Taps of a filter recipe; 6 is the intermediate design (R148). -/
def tapsOf : Nat → Nat
  | 0 => 47 | 1 => 39 | 2 => 31 | 3 => 23 | 4 => 15 | 5 => 47 | _ => 19

/-- Coefficient h[i] of a recipe, `i` up to 23: padded with zeros to 47 taps, the centre tap 16,384 (R147, R148; log 27). -/
def tap (r i : Nat) : Int := if i == 23 then 16384 else if i < (47 - tapsOf r) / 2 then 0 else (Config.coefficient r i).toInt

/-- The 47 coefficients of a recipe, symmetric about h[23] (R148). -/
def recipe (r : Nat) : List Int := (List.range 47).map fun i => tap r (if i ≤ 23 then i else 46 - i)

/-- The recipe in the bank that BANK_SEL selects. The set in force over a stroke is what the banks were loaded with at its first
catch, so that a changed recipe or BANK_SEL acts from the first output sample on (R149, R154). -/
def bankRecipe (set : List Host.Cell) (i : Nat) : Nat := bitsOf (laneNat set i 3 1) (if laneBankB set i then 4 else 0) 4

/-- Shift SHs of stage `s`, from 1 (R154). -/
def stageShift (set : List Host.Cell) (i s : Nat) : Nat := bitsOf (laneShifts set i) (3 * (s - 1)) 3

/-- Stages 1 to k of a lane: their recipe and their shift (R147, R148). -/
def laneStages (set : List Host.Cell) (i : Nat) : List (Nat × Nat) :=
  (List.range (laneK set i)).map fun s => (if s + 1 == laneK set i then bankRecipe set i else 6, stageShift set i (s + 1))

/-- A sample enters a delay line, which holds 47 with it; a line that holds zeros only is kept empty. -/
def pushLine (x : Quad) (l : List Quad) : List Quad := if l.isEmpty && x == Quad.zero then [] else (x :: l).take 47

/-- The sum of a stage over its delay line, newest sample first (R147). -/
def firSum : List Int → List Quad → Quad
  | h :: hs, x :: xs => (x.scale h).add (firSum hs xs)
  | _, _ => Quad.zero

/-- Output of a stage with shift `sh`: round half up, 24 bits (R147). -/
def stageOut (r sh : Nat) (line : List Quad) : Satted :=
  let d : Int := ((2 ^ (14 + sh) : Nat) : Int)
  ((firSum (recipe r) line).map fun a => Int.fdiv (a + d / 2) d).sat 24

/-- What a sample makes of the stages: their delay lines, the output if one is due, and what saturated. -/
structure Cascade where
  lines : List (List Quad)
  out   : Option Quad
  a     : Bool
  b     : Bool
  deriving DecidableEq, Repr

/-- Sample `j` of the input of the first stage passes the stages, each of which answers every second sample (R147). -/
def cascade : (stages : List (Nat × Nat)) → (j : Nat) → (lines : List (List Quad)) → (x : Quad) → Cascade
  | [], _, lines, x => { lines := lines, out := some x, a := false, b := false }
  | (r, sh) :: rest, j, lines, x =>
    let line := pushLine x (lines.headD [])
    if j % 2 == 1 then { lines := line :: lines.drop 1, out := none, a := false, b := false }
    else
      let y := if line.isEmpty then { x := Quad.zero, a := false, b := false } else stageOut r sh line
      let c := cascade rest (j / 2) (lines.drop 1) y.x
      { c with lines := line :: c.lines, a := c.a || y.a, b := c.b || y.b }

/-! ### Preamble watch (R161 to R163) -/

/-- PRE_PAT of a profile: two up and two down (R184). -/
def profPat2 (set : List Host.Cell) (p : Nat) : Bool := bitOf (profNat set p 23 1) 0

/-- Sign of pattern symbol `q` (R162, R178). -/
def patSign (two : Bool) (q : Int) : Int := if (if two then q / 2 else q) % 2 == 0 then 1 else -1

/-- t[i] of the watch: the sign of the pattern symbol floor (i / sps) counted back (R162). -/
def watchSigns (set : List Host.Cell) (i : Nat) : List Int :=
  let p := laneProf set i
  (List.range (laneN set i)).map fun n => patSign (profPat2 set p) ((n * laneP set i * profRate set p / 38400000 : Nat) : Int)

/-- h = ceil (sps / 2) (R162). -/
def laneHalf (set : List Host.Cell) (i : Nat) : Nat := ceilDiv 38400000 (2 * laneP set i * profRate set (laneProf set i))

/-- Argument of x conj y in units of 2^-40 turns; 0 where either is zero, as R179 has it (log 131). -/
def argStep (x y : Int × Int) : Int := argTurn (x.1 * y.1 + x.2 * y.2) (x.2 * y.1 - x.1 * y.2)

def normSq (x : Int × Int) : Nat := (x.1 * x.1 + x.2 * x.2).toNat

/-- Sum of d × t and sum of d² over a window. -/
def correlate : List Int → List (Int × Nat) → Int × Int
  | t :: ts, x :: xs => let c := correlate ts xs; (t * x.1 + c.1, x.1 * x.1 + c.2)
  | _, _ => (0, 0)

/-- ρ over the window that ends with the newest sample (R162). -/
def rhoOf (signs : List Int) (hist : List (Int × Nat)) : Nat :=
  let c := correlate signs hist
  if c.2 == 0 then 0 else min 255 (isqrt (65536 * c.1.natAbs * c.1.natAbs / (signs.length * c.2.toNat)))

/-- 10 log10 (power / (n × 32,767²)) in 1/16 dBFS, to the nearest (log 132). The spec gives no level for zero power, so that is an
open value (log 133). -/
def levelOf (at_ n power : Nat) : Int :=
  if power == 0 then (Config.silentLevel at_).toInt else decibels 16 power (n * 1073676289)

/-- Level of the window of `n` samples that ends `back` samples ago (R162). -/
def Watch.level (w : Watch) (j n back : Nat) : Int := levelOf (j - back) n (((w.hist.drop back).take n).map (·.2)).sum

/-- A sample reaches the watch of a branch. While it settles no ρ is formed (R156, R162; log 131). -/
def Watch.push (set : List Host.Cell) (i : Nat) (settling : Bool) (w : Watch) (x : Int × Int) : Watch :=
  let n := laneN set i
  let h := laneHalf set i
  let hist := ((match w.prev with | some y => argStep x y | none => 0, normSq x) :: w.hist).take (n + h)
  { w with prev := some x, hist := hist, rhos := if settling then [] else (rhoOf (watchSigns set i) hist :: w.rhos).take (2 * h + 1) }

/-- A decided peak (R162, R163). -/
structure Peak where
  j      : Nat
  rho    : Nat
  level  : Int
  offset : Int
  frac   : Nat
  deriving DecidableEq, Repr

/-- Position of the vertex of the parabola through ρ at a peak and its neighbours, in 1/256 sample; 0 where it lies before the peak
or a neighbour is missing (R163; log 134). -/
def peakFrac (before : Option Nat) (at_ : Nat) (after : Option Nat) : Nat :=
  match before, after with
  | some b, some a => if a ≤ b then 0 else 128 * (a - b) / (2 * at_ - b - a)
  | _, _ => 0

/-- Frequency offset of a window in units of 4 Hz, rounded down and saturating (R162, R163): that a part of a unit is dropped is the
model's choice (log 134). -/
def windowOffset (set : List Host.Cell) (i : Nat) (win : List (Int × Nat)) : Int :=
  satI 16 (Int.fdiv ((win.map (·.1)).sum * 38400000) ((win.length * laneP set i * 4 : Nat) * turn40))

/-- The peak that sample `j` decides: h samples back, ρ at least the threshold and the greatest of its neighbourhood, the earliest
of equals; its level at least the floor (R162). -/
def Watch.peak (set : List Host.Cell) (i j : Nat) (w : Watch) : Option Peak :=
  let h := laneHalf set i
  let n := laneN set i
  match w.rhos[h]? with
  | none => none
  | some r =>
    let lev := w.level j n h
    if laneThr set i ≤ r && (w.rhos.take h).all (· ≤ r) && (w.rhos.drop (h + 1)).all (· < r)
        && (laneFloor set i == 0 || decide (-(16 * (laneFloor set i : Int)) ≤ lev)) then
      some { j := j - h, rho := r, level := lev, offset := windowOffset set i ((w.hist.drop h).take n)
             frac := peakFrac w.rhos[h + 1]? r (if h == 0 then none else w.rhos[h - 1]?) }
    else none

/-- What the watch of one branch reports at a sample: the peak, whether it is a rise, and the peak that had disarmed it. -/
structure Report where
  peak : Peak
  rise : Bool
  by_  : Nat
  deriving DecidableEq, Repr

/-- Arming and reporting of one branch at sample `j` (R162). -/
def Watch.judge (set : List Host.Cell) (i j : Nat) (riseOff : Bool) (w : Watch) : Watch × Option Report :=
  let pk := w.peak set i j
  if w.armed then
    match pk with
    | some p => ({ w with armed := false, ref := p.level, below := 0, by_ := p.j }, some { peak := p, rise := false, by_ := 0 })
    | none => (w, none)
  else
    let below := if w.rhos.headD 0 < laneThr set i then w.below + 1 else 0
    let w1 := { w with below := below, armed := decide (76800000 ≤ below * (laneP set i * profRate set (laneProf set i))) }
    match pk with
    | some p => if !riseOff && decide (w.ref + 96 ≤ p.level) then ({ w1 with ref := p.level }, some { peak := p, rise := true, by_ := w.by_ })
                else (w1, none)
    | none => (w1, none)

/-- The descriptor of a report of one branch; the other branch gives its ρ and level at the same sample (R163). -/
def hitOf (b : Bool) (r : Report) (otherRho : Nat) (otherLevel : Int) : Hit :=
  let p := r.peak
  { j := p.j, a := !b, b := b, riseA := !b && r.rise, riseB := b && r.rise, rhoA := if b then otherRho else p.rho
    rhoB := if b then p.rho else otherRho, levelA := if b then otherLevel else p.level, levelB := if b then p.level else otherLevel
    offset := p.offset, frac := p.frac, ja := p.j, jb := p.j, byA := r.by_, byB := r.by_ }

/-- One descriptor of a hit on A and a hit on B: place, offset and fraction of the higher ρ, of A on a tie (R163). -/
def joinHits (x y : Hit) : Hit :=
  let m := if x.rhoA < y.rhoB then y else x
  { m with a := true, b := true, riseA := x.riseA, riseB := y.riseB, rhoA := x.rhoA, rhoB := y.rhoB, levelA := x.levelA, levelB := y.levelB
           ja := x.ja, jb := y.jb, byA := x.byA, byB := y.byB }

/-- Hits of branches A and B that merge: their peaks lie within `near` samples (R163). -/
def mergeTwo (near : Nat) (x h : Hit) : Option Hit :=
  if x.a && !x.b && h.b && !h.a && distance x.ja h.jb ≤ near then some (joinHits x h)
  else if x.b && !x.a && h.a && !h.b && distance x.jb h.ja ≤ near then some (joinHits h x)
  else none

/-- A hit merges with one of the list, if it can (R163). -/
def mergeHit (near : Nat) (h : Hit) : List Hit → Option (List Hit)
  | [] => none
  | x :: l => match mergeTwo near x h with
    | some y => some (y :: l)
    | none => (mergeHit near h l).map (x :: ·)

/-- A hit enters the block being filled, which holds at most 16: merged with one of the other branch, or as a descriptor of its own.
hits_lost holds one byte and stays at 255; gambit_refused takes what it holds, which is the model's choice (R163; log 135). -/
def Lane.addHit (near : Nat) (l : Lane) (h : Hit) : Lane :=
  match mergeHit near h l.hits with
  | some hs => { l with hits := hs }
  | none => if l.hits.length < 16 then { l with hits := l.hits ++ [h] } else { l with lost := satTo 255 (l.lost + 1) }

/-- The hits that the watches of both branches report at sample `j`. -/
def watchHits (set : List Host.Cell) (i j : Nat) (riseOff : Bool) (wa wb : Watch) : Watch × Watch × List Hit :=
  let n := laneN set i
  let h := laneHalf set i
  let ra := wa.judge set i j riseOff
  let rb := wb.judge set i j riseOff
  let ha := match ra.2 with | some r => [hitOf false r (wb.rhos.getD h 0) (wb.level j n h)] | none => []
  let hb := match rb.2 with | some r => [hitOf true r (wa.rhos.getD h 0) (wa.level j n h)] | none => []
  (ra.1, rb.1, ha ++ hb)

/-- A lane's watch at output sample `j` (R156, R161 to R163). -/
def Lane.watch (set : List Host.Cell) (i j : Nat) (l : Lane) (x : Quad) : Lane :=
  if laneWatchOff set i then
    let rest (w : Watch) : Watch := { w with prev := none, hist := [], rhos := [] }
    { l with wa := rest l.wa, wb := rest l.wb }
  else
    let settling := decide (j < l.armFrom)
    let arm (w : Watch) : Watch := if j == l.armFrom then { w with armed := true, below := 0 } else w
    let wa := (arm l.wa).push set i settling (x.branch false)
    let wb := (arm l.wb).push set i settling (x.branch true)
    if settling then { l with wa := wa, wb := wb }
    else
      let r := watchHits set i j (laneRiseOff set i) wa wb
      r.2.2.foldl (Lane.addHit (laneSpsCeil set i)) { l with wa := r.1, wb := r.2.1, settle := 0, watchOnly := false }

/-! ### The course of a lane over its bin samples (R144, R150, R155 to R159) -/

/-- A state at an instant, from a log of its changes, newest first, and the state now. -/
def wasAt (now : Bool) : List (Nat × Bool) → Nat → Bool
  | [], _ => now
  | e :: l, t => if e.1 ≤ t then e.2 else wasAt (!e.2) l t

/-- The datapath follows the changes up to an instant (R155). -/
def Lane.follow (t : Nat) (l : Lane) : Lane :=
  let due := l.turns.filter fun e => e.at_ ≤ t
  due.foldl (fun l e => { l with on := e.run, delay := if e.clear then [] else l.delay, armFrom := e.arm, wa := {}, wb := {} })
    { l with turns := l.turns.filter fun e => !decide (e.at_ ≤ t) }

/-- A lane takes bin sample `jb`; `rx` says whether a branch is in RECEIVE then. It answers the lane and the output sample, if one is
due. A lane that does not run puts out zeros (R145 to R150, R158, R159). -/
def Lane.take (set : List Host.Cell) (i jb : Nat) (rx : Bool → Bool) (l : Lane) (b : BinSample) : Lane × Option Quad :=
  let l := l.follow (jb * binPeriod (lanePair set i))
  let m := 2 ^ laneK set i
  if !l.on then if jb % m == 0 then ({ l with made := l.made + 1, blanks := l.blanks + 1 }, some Quad.zero) else (l, none)
  else
    let x := mixer (ncoWord set i) jb b
    let c := cascade (laneStages set i) jb l.delay x.x
    let o := (c.out.getD Quad.zero).sat 16
    let satA := x.a || c.a || (c.out.isSome && o.a)
    let satB := x.b || c.b || (c.out.isSome && o.b)
    let settling := c.out.isSome && decide (jb / m < l.armFrom)
    let l1 := { l with delay := c.lines
                       flags := l.flags ||| (if satA then 4 else 0) ||| (if satB then 8 else 0) ||| (if settling then 0x100 else 0) }
    if c.out.isSome then
      let y := o.x.mask (rx false) (rx true)
      (({ l1 with made := l1.made + 1 } : Lane).watch set i (jb / m) y, some y)
    else (l1, none)

/-- Bin samples from `jb` on: the lane after them and its output, oldest first. -/
def Lane.takeAll (set : List Host.Cell) (i : Nat) (rx : Bool → Nat → Bool) : (jb : Nat) → Lane → List BinSample → Lane × List Quad
  | _, l, [] => (l, [])
  | jb, l, b :: bs =>
    let r := l.take set i jb (fun x => rx x (jb * binPeriod (lanePair set i))) b
    let t := Lane.takeAll set i rx (jb + 1) r.1 bs
    (t.1, r.2.toList ++ t.2)

/-- A sample as it lies in a buffer: A_I, A_Q, B_I, B_Q (R158). -/
def Quad.bytes (x : Quad) : Bytes := leI 2 x.ai ++ leI 2 x.aq ++ leI 2 x.bi ++ leI 2 x.bq

/-- Samples read from a buffer (R158). -/
def quadsOf : (n : Nat) → Bytes → List Quad
  | 0, _ => []
  | n + 1, b =>
    { ai := signed 16 (fieldAt 0 2 b), aq := signed 16 (fieldAt 2 2 b), bi := signed 16 (fieldAt 4 2 b), bq := signed 16 (fieldAt 6 2 b) }
      :: quadsOf n (b.drop 8)

/-- Shared-store address of buffer `b` (R392). -/
def bufferAt (b : Nat) : Nat := 0x20080000 + 2400 * b

/-- Buffer taken by a lane for a stroke (R160). -/
def State.bufferOf (s : State) (lane stroke : Nat) : Option Nat :=
  (s.rx.buffers.find? fun e => e.2.1 == lane && e.2.2 == stroke).map (·.1)

/-- A hit descriptor (R163). -/
def Hit.bytes (h : Hit) : Bytes :=
  le 4 h.j ++ le 1 (b2n h.a + 2 * b2n h.b) ++ le 1 (b2n h.riseA + 2 * b2n h.riseB) ++ le 1 h.rhoA ++ le 1 h.rhoB ++ leI 2 h.levelA
    ++ leI 2 h.levelB ++ leI 2 h.offset ++ le 1 h.frac ++ le 1 0

/-- A block descriptor with its hit descriptors (R159). -/
def Block.bytes (b : Block) : Bytes :=
  le 8 b.stroke ++ le 8 b.jFirst ++ le 4 (bufferAt b.buffer) ++ le 2 b.count ++ le 1 b.gen.toNat ++ le 1 (b.k + 8 * b2n b.bankB)
    ++ le 2 b.flags.toNat ++ le 2 b.shifts.toNat ++ le 1 b.hits.length ++ le 1 b.lost ++ le 2 0
    ++ slice 0 256 ((b.hits.map Hit.bytes).flatten)

/-- Branch A or B of a pair was in RECEIVE at an instant of the stroke (R158). -/
def State.branchAt (s : State) (pair : Nat) (b : Bool) (t : Nat) : Bool :=
  let c := 2 * pair + b2n b
  wasAt (s.chainIs c .receive) (s.chain c).rxLog t

/-- An open lane takes bin samples of stroke `n`, and its output goes to the buffer of its block (R145, R150, R158). -/
def State.runLane (s : State) (n jb : Nat) (l : List BinSample) (i : Nat) : State :=
  let pair := lanePair s.cfg.active i
  let r := (s.lane i).takeAll s.cfg.active i (s.branchAt pair) jb l
  let s1 := s.setLane i r.1
  match s.bufferOf i n with
  | some b => s1.memWrite (bufferAt b + 8 * (s.lane i).made) (r.2.map Quad.bytes).flatten
  | none => s1

/-- The lanes that fill blocks. -/
def State.openLanes (s : State) : List Nat := (s.rx.lanes.filter fun e => e.2.w.st != 0).map (·.1)

/-- Bin samples of one bin taken in the stroke. -/
def State.airOf (s : State) (pair bin : Nat) : Nat := getT 0 s.rx.air (64 * pair + bin)

/-- The next samples of a bin in stroke `n` reach every open lane that takes the bin (R143 to R145). -/
def State.feedBin (s : State) (n pair bin : Nat) (l : List BinSample) : State :=
  let had := s.airOf pair bin
  let new := l.take (binsPerStroke pair - had)
  let jb := n * binsPerStroke pair + had
  (s.each (s.openLanes.filter fun i => lanePair s.cfg.active i == pair && laneBin s.cfg.active i == bin) fun s i => s.runLane n jb new i).onRx
    fun r => { r with air := putT r.air (64 * pair + bin) (had + new.length) }

/-- A bin sample of no signal. -/
def noSample : BinSample := { ai := 0, aq := 0, bi := 0, bq := 0 }

/-- The stroke `n` is complete on every bin that an open lane takes: samples that did not come are zero (log 136). -/
def State.fillBins (s : State) (n : Nat) : State :=
  (s.each s.openLanes fun s i =>
    let pair := lanePair s.cfg.active i
    let bin := laneBin s.cfg.active i
    s.feedBin n pair bin (List.replicate (binsPerStroke pair - s.airOf pair bin) noSample)).onRx fun r => { r with air := [] }

/-- PREAMBLE_HIT: the samples of a lane's bin up to the one that decides a peak; the watch of every lane on the bin finds the peaks
(R150, R161 to R163; log 136). -/
def State.preamble (s : State) (i : Nat) (l : List BinSample) : State :=
  let pair := lanePair s.cfg.active i
  let bin := laneBin s.cfg.active i
  let last := s.stroke * binsPerStroke pair + min (binsPerStroke pair) (s.airOf pair bin + l.length) - 1
  (s.at (max s.dtime (last * binPeriod pair))).feedBin s.stroke pair bin l

end Sys2Proof.Machine
end

