-- ==== Sys2Proof/Machine/Demod.lean ====
section
/-! DEFINITION. The demodulator of a context: discriminator, decisions, tracking, sync search, branch pick, rebuild, cancellation and
link quality (R169 to R190, R199 to R201). Samples are counted by lane-sample index; instants between samples are in 2^-32 sample,
frequencies in 2^-40 turn per sample, symbol values y in 2^-40 turn (log 127). -/

namespace Sys2Proof.Machine

/-! ### Quantities of a profile on a lane -/

/-- One lane sample. -/
def one32 : Int := 4294967296

/-- sps, the samples of a symbol (R161). -/
def sps32 (set : List Host.Cell) (i p : Nat) : Int := roundI (38400000 * one32) ((laneP set i * profRate set p : Nat) : Int)

/-- sps × δ: the value y of an outer level, DEV_HZ / SYM_RATE turns (R180). -/
def dev40 (set : List Host.Cell) (p : Nat) : Int := roundI ((profDev set p : Int) * turn40) (profRate set p : Int)

/-- INVERT as the sign it gives v (R180, R185). -/
def invSign (set : List Host.Cell) (p : Nat) : Int := if bitOf (profNat set p 0 1) 0 then -1 else 1

/-- A loop bandwidth field, 0 selecting 4 (R181, R185). -/
def bwOf (x : Nat) : Nat := if x == 0 then 4 else x
def timingBw (set : List Host.Cell) (p : Nat) : Nat := bwOf (bitsOf (profNat set p 28 1) 4 4)
def freqBw (set : List Host.Cell) (p : Nat) : Nat := bwOf (bitsOf (profNat set p 28 1) 0 4)

/-- Symbols of the sync word (R184). -/
def syncSymbols (set : List Host.Cell) (p : Nat) : Nat := profSyncLen set p / profBps set p

/-- Samples that a branch remembers: four symbols. -/
def memory (set : List Host.Cell) (i p : Nat) : Nat := 4 * ceilDiv 38400000 (laneP set i * profRate set p) + 4

/-! ### Symbol values (R179, R180) -/

/-- Length of the part of (a, b] that lies within (lo, hi]. -/
def overlap32 (a b lo hi : Int) : Int := max 0 (min b hi - max a lo)

/-- Sum of d over (lo, hi] with f_o removed, newest sample `n` first; a sample counts by the part of it inside, a zero one as 0 (R179). -/
def sumD (fo lo hi : Int) : (n : Int) → List (Option Int) → Int
  | _, [] => 0
  | n, x :: xs =>
    let w := overlap32 ((n - 1) * one32) (n * one32) lo hi
    (match x with | some d => (d - fo) * w | none => 0) + sumD fo lo hi (n - 1) xs

/-- The symbol value y of the symbol that ends at `tau` (R179). -/
def symValue (sps fo tau n : Int) (ds : List (Option Int)) : Int := roundI (sumD fo (tau - sps) tau n ds) one32

/-- v = y / (sps × δ), negated with INVERT, in 2^-32 (R180). -/
def normValue (set : List Host.Cell) (p : Nat) (y : Int) : Int := invSign set p * roundI (y * one32) (dev40 set p)

/-- Mean of |v| over the preamble symbols; the nominal 1 before there is one (R180; log 138). -/
def Track.amp (t : Track) : Int := if t.cnt == 0 then one32 else roundI t.sumAbs (t.cnt : Int)

/-- The level that v decides, in thirds of the outer one (R180). -/
def decideLevel (set : List Host.Cell) (p : Nat) (a v : Int) : Int :=
  if !profMod4 set p then (if 0 ≤ v then 3 else -3)
  else if 2 * a ≤ 3 * v then 3 else if 0 ≤ v then 1 else if -(2 * a) ≤ 3 * v then -1 else -3

/-- SYM_MAP of a profile (R180). -/
def symMap1 (set : List Host.Cell) (p : Nat) : Bool := bitOf (profNat set p 0 1) 1

/-- Bits of a level in the order sent (R180). -/
def levelBits (set : List Host.Cell) (p : Nat) (lev : Int) : List Bool :=
  if !profMod4 set p then [decide (0 < lev)]
  else if symMap1 set p then [decide (0 < lev), lev.natAbs == 3]
  else [decide (lev < 0), lev.natAbs == 3]

/-- The level that bits in the order sent stand for, INVERT not yet applied (R180). -/
def levelOfBits (set : List Host.Cell) (p : Nat) (l : List Bool) : Int :=
  if !profMod4 set p then (if l.headD false then 3 else -3)
  else (([3, 1, -1, -3] : List Int).find? fun x => levelBits set p x == l).getD 3

/-- Nominal y of a level (R181). -/
def idealValue (set : List Host.Cell) (p : Nat) (lev : Int) : Int := invSign set p * roundI (lev * dev40 set p) 3

/-! ### Tracking (R181) -/

/-- tau (m + 1) after the symbol that ends at tau (m) with value `y`; the timing error is 0 where no symbol came before (R181; log 138). -/
def nextTau (set : List Host.Cell) (i p : Nat) (t : Track) (y n : Int) (ds : List (Option Int)) : Int :=
  let sps := sps32 set i p
  let z := symValue sps t.fo (t.tau - sps / 2) n ds
  let e := match t.yPrev with
    | some y0 => roundI (z * (y0 - y) * one32) (dev40 set p * dev40 set p)
    | none => 0
  t.tau + sps + roundI (e * sps) (one32 * ((2 ^ (timingBw set p + 2) : Nat) : Int))

/-- A preamble symbol is decided: its part in the quality figures, and the running mean of f_o (R178, R181). The sense of the pattern
is taken from the first symbol (log 138). -/
def Track.preamble (set : List Host.Cell) (i p : Nat) (n : Int) (ds : List (Option Int)) (t : Track) : Track :=
  let sps := sps32 set i p
  let y := symValue sps t.fo t.tau n ds
  let pol := if t.pol == 0 then (if 0 ≤ y then 1 else -1) else t.pol
  let sign := pol * patSign (profPat2 set p) t.m
  let v := normValue set p y
  let u := sign * v
  { t with tau := nextTau set i p t y n ds, fo := t.fo + roundI ((y - sign * dev40 set p) * one32) (sps * ((t.cnt + 1 : Nat) : Int))
           yPrev := some y, m := t.m + 1, cnt := t.cnt + 1, sumU := t.sumU + u, sumUU := t.sumUU + u * u
           sumAbs := t.sumAbs + (v.natAbs : Int), pol := pol }

/-- A symbol of the sync word or of the telegram is decided with threshold mean `a`: its level, and the tracking update (R180, R181). -/
def Track.symbol (set : List Host.Cell) (i p : Nat) (a n : Int) (ds : List (Option Int)) (t : Track) : Track × Sym :=
  let sps := sps32 set i p
  let y := symValue sps t.fo t.tau n ds
  let lev := decideLevel set p a (normValue set p y)
  let fo := if freqBw set p == 15 then t.fo
    else t.fo + roundI ((y - idealValue set p lev) * one32) (sps * ((2 ^ (freqBw set p + 4) : Nat) : Int))
  ({ t with tau := nextTau set i p t y n ds, fo := fo, yPrev := some y, m := t.m + 1 }, { lev := lev, tau := t.tau, fo := t.fo, y := y })

/-! ### Sync search (R170, R171) -/

/-- Number of bits in which two words differ over `n` bits (R170). -/
def hamming : (n a b : Nat) → Nat
  | 0, _, _ => 0
  | n + 1, a, b => (if a % 2 == b % 2 then 0 else 1) + hamming n (a / 2) (b / 2)

/-- The format and the bit errors with which a register matches: SYNC first, then SYNC_ALT (R170). -/
def syncMatch (set : List Host.Cell) (p reg : Nat) : Option (Bool × Nat) :=
  let e := hamming (profSyncLen set p) reg (profSync set p)
  let f := hamming (profAltLen set p) reg (profSyncAlt set p)
  if e ≤ profSyncErr set p then some (false, e)
  else if profAltLen set p != 0 && f ≤ profSyncErr set p then some (true, f)
  else none

/-- One search takes a symbol when its end has been reached. -/
def Track.trySymbol (set : List Host.Cell) (i p : Nat) (n : Int) (ds : List (Option Int)) (t : Track) : Track :=
  if n * one32 < t.tau then t
  else
    let r := t.symbol set i p t.amp n ds
    { r.1 with syms := r.2 :: t.syms, bits := (levelBits set p r.2.lev).reverse ++ t.bits }

/-- What a completed search finds: its register matches, and its last symbol ends within the window (R170, R171). -/
def Track.match_ (set : List Host.Cell) (p : Nat) (isB : Bool) (limit : Int) (t : Track) : Option Match :=
  match t.syms.head?, syncMatch set p (packBits t.bits) with
  | some x, some (f, e) => if x.tau ≤ limit then some { branchB := isB, fmtB := f, errs := e, track := t } else none
  | _, _ => none

/-- A sample of a branch enters its memory (R179). -/
def Branch.push (cap : Nat) (b : Branch) (x : Int × Int) : Branch :=
  let d := match b.prev with
    | some y => if x == (0, 0) || y == (0, 0) then none else some (argStep x y)
    | none => none
  { b with prev := some x, ds := (d :: b.ds).take cap }

/-- Symbols of a branch that end by sample `n` are decided: a search of its own begins with each, as the sync word may begin there and
its symbols use the tracking update, and the preamble estimates go on (R170, R181). It answers a match. -/
def Branch.search (set : List Host.Cell) (i p : Nat) (isB : Bool) (limit : Int) (n : Int) (b : Branch) : Branch × Option Match :=
  let due := b.pre.tau ≤ n * one32
  let tries := if due then b.tries ++ [{ b.pre with from_ := b.pre.m, syms := [], bits := [] }] else b.tries
  let run := tries.map (Track.trySymbol set i p n b.ds)
  let full (t : Track) : Bool := syncSymbols set p ≤ t.syms.length
  let done := run.filter full
  ({ b with pre := if due then b.pre.preamble set i p n b.ds else b.pre, tries := run.filter fun t => !full t
            past := match done.getLast? with | some t => some t | none => b.past }, done.findSome? (Track.match_ set p isB limit))

/-! ### Branch pick (R178) -/

/-- The preamble quality of a branch in 1/100 dB (R178). A mean of zero is the least of all that have one (log 138). -/
def Track.quality (t : Track) : Int :=
  let num := t.sumU * t.sumU
  let den := (t.cnt : Int) * t.sumUU - num
  if t.cnt < 4 then -10000
  else if den * 1000000 ≤ num then 6000
  else if num == 0 then -9999
  else min 6000 (decibels 100 num.toNat den.toNat)

/-- The branch pick; qualities in 1/100 dB. True is B (R178). -/
def pickBranch (offA offB : Bool) (qa qb : Int) (h : Option Hit) : Bool :=
  if !offB then false
  else if !offA then true
  else if 50 ≤ (qa - qb).natAbs then decide (qa < qb)
  else match h with
    | some x => decide (x.rhoA < x.rhoB)
    | none => false

/-- Preamble estimates of a branch as they stood where a sync word began (R178). -/
def Branch.estimates (b : Branch) (from_ : Nat) : Track :=
  match b.past.filter (fun t => t.from_ == from_) with
  | some t => t
  | none => (b.tries.find? fun t => t.from_ == from_).getD b.pre

/-- A branch may still decide a search that began with symbol `k` (R170). -/
def Branch.awaits (b : Branch) (k : Nat) : Bool := b.pre.m ≤ k || b.tries.any fun t => t.from_ ≤ k

/-- The first match found, once the other branch has decided the same symbol or half a symbol has passed (log 138). Where both branches
match at the same symbol, branch A's position holds and format A wins; the bit errors are those of the word that gives the format, the
one of branch A first (R170; log 139). -/
def Demod.conclude (set : List Host.Cell) (i p : Nat) (okA okB : Bool) (h : Option Hit) (n : Int) (dm : Demod) : Option Confirmed :=
  match dm.found with
  | [] => none
  | first :: rest =>
    let k := first.track.from_
    let other := if first.branchB then dm.a else dm.b
    let on := if first.branchB then okA else okB
    let pos := match first.track.syms.head? with | some x => x.tau | none => 0
    if on && other.awaits k && decide (n * one32 < pos + sps32 set i p / 2) then none
    else
      let twin := rest.find? fun x => x.track.from_ == k && x.branchB != first.branchB
      let (a, b) := match twin with
        | some x => if first.branchB then (x, first) else (first, x)
        | none => (first, first)
      let w := if a.fmtB && !b.fmtB then b else a
      let ta := dm.a.estimates k
      let tb := dm.b.estimates k
      some { mt := a, fmtB := w.fmtB, errs := w.errs, pick := pickBranch okA okB ta.quality tb.quality h
             cntA := ta.cnt, cntB := tb.cnt, qA := ta.quality, qB := tb.quality }

/-! ### Length (R174) -/

/-- The length in symbols once the first bits after the sync position are decided (R174): outer none while not known, inner none for
MALFORMED. -/
def telegramLength (set : List Host.Cell) (p : Nat) (fmtB : Bool) (bits : List Bool) : Option (Option Nat) :=
  match profLenRule set p with
  | 0 => some (some (profFixedLen set p))
  | 2 =>
    if bits.length < 8 then none
    else
      let l := bitsMsb (bits.take 8)
      some (if l == 0 then none else some (8 * (1 + l) / profBps set p))
  | _ =>
    let n := lineBits (profLine set p)
    if bits.length < n then none
    else match lineDecode (profLine set p) (bits.take n) with
      | none => some none
      | some b => some (probeLength set p fmtB (bitsMsb b))

/-! ### The course of a context over lane samples -/

/-- The length of a confirmed context is looked for with each symbol; the telegram is complete with its last one (R174, R175). -/
def Demod.settleLength (set : List Host.Cell) (p : Nat) (fmtB : Bool) (dm : Demod) : Demod :=
  let need := match dm.need with | some x => some x | none => telegramLength set p fmtB dm.bits
  { dm with need := need, done := match need with
      | none => false
      | some none => true
      | some (some k) => decide (k ≤ dm.syms.length) }

/-- A symbol after the sync position is decided on the picked branch when its end is reached; samples past the last symbol are no part
of the telegram (R175, R178 to R181). -/
def Demod.telegram (set : List Host.Cell) (i p : Nat) (c : Confirmed) (n : Int) (dm : Demod) : Demod :=
  if n * one32 < dm.trk.tau then dm
  else
    let r := dm.trk.symbol set i p dm.amp n (if c.pick then dm.b else dm.a).ds
    let d := ({ dm with trk := r.1, syms := r.2 :: dm.syms, bits := dm.bits ++ levelBits set p r.2.lev } : Demod).settleLength set p c.fmtB
    if d.done && decide (r.2.tau < n * one32) then { d with tele := d.tele.drop 1 } else d

/-- A context is confirmed at sample `n`: the picked branch goes on with the timing and offset found by the match, and takes the samples
since the sync position (R178). -/
def Demod.confirm (set : List Host.Cell) (i p : Nat) (c : Confirmed) (n : Int) (dm : Demod) : Demod :=
  let b := if c.pick then dm.b else dm.a
  let t := c.mt.track
  let pos := match t.syms.head? with | some x => x.tau | none => 0
  let back := (n - Int.fdiv pos one32).toNat
  { dm with hit := some c, trk := { t with yPrev := some (symValue (sps32 set i p) t.fo pos n b.ds), syms := [], bits := [] }
            amp := (b.estimates t.from_).amp
            tele := (dm.recent.take back).map fun x => if c.pick then x.2 else x.1 }

/-- One lane sample reaches a context: `okA` and `okB` say which branches are offered, `limit` is the end of the sync window. -/
def Demod.step (set : List Host.Cell) (i p : Nat) (okA okB : Bool) (limit : Int) (h : Option Hit) (dm : Demod) (n : Nat) (x : Quad)
    (wA wB : Nat) : Demod :=
  if dm.done then dm
  else
    let cap := memory set i p
    let ta : Tele := { i := x.ai, q := x.aq, p := normSq (x.ai, x.aq) * wA / 67108864 }
    let tb : Tele := { i := x.bi, q := x.bq, p := normSq (x.bi, x.bq) * wB / 67108864 }
    let d0 : Demod := if dm.next == some n then dm else { dm with a := { dm.a with prev := none, ds := [] }, b := { dm.b with prev := none, ds := [] } }
    let d1 := { d0 with next := some (n + 1), a := d0.a.push cap (x.branch false), b := d0.b.push cap (x.branch true)
                        recent := ((ta, tb) :: d0.recent).take cap }
    match d1.hit with
    | some c => ({ d1 with tele := (if c.pick then tb else ta) :: d1.tele } : Demod).telegram set i p c n
    | none =>
      let ra := if okA then d1.a.search set i p false limit n else (d1.a, none)
      let rb := if okB then d1.b.search set i p true limit n else (d1.b, none)
      let d2 := { d1 with a := ra.1, b := rb.1, found := d1.found ++ ra.2.toList ++ rb.2.toList }
      match d2.conclude set i p okA okB h n with
      | some c => (d2.confirm set i p c n).settleLength set p c.fmtB
      | none => d2

/-- Weight of a sample's power at the port, from the weights of the block by their first index (R187). -/
def weightAt : (n : Nat) → List (Nat × Nat) → Nat → Nat
  | _, [], w => w
  | n, e :: l, w => if e.1 ≤ n then weightAt n l e.2 else w

/-- Lane samples from index `n` on reach a context, but none before index `from_` (R169). -/
def Demod.run (set : List Host.Cell) (i p : Nat) (okA okB : Bool) (limit : Int) (h : Option Hit) (from_ : Nat) (wA wB : List (Nat × Nat)) :
    (n : Nat) → Demod → List Quad → Demod
  | _, dm, [] => dm
  | n, dm, x :: xs =>
    Demod.run set i p okA okB limit h from_ wA wB (n + 1)
      (if n < from_ then dm else dm.step set i p okA okB limit h n x (weightAt n wA 0) (weightAt n wB 0)) xs

/-- The estimates with which a gambit starts: the hit's offset, and its peak as the end of a symbol (R169). -/
def Demod.start (set : List Host.Cell) (i p : Nat) (h : Hit) : Demod :=
  let t : Track := { tau := (h.j : Int) * one32 + (h.frac : Int) * 16777216 + sps32 set i p
                     fo := roundI (4 * h.offset * turn40 * (laneP set i : Nat)) 38400000 }
  { a := { pre := t }, b := { pre := t } }

/-! ### Rebuild (R199, R200) -/

/-- Level in the sense of the frequency: INVERT negates it. -/
def freqLevel (set : List Host.Cell) (p : Nat) (x : Sym) : Sym := { x with lev := invSign set p * x.lev }

/-- Bits of the matched sync word in the order sent (R184). -/
def syncBits (set : List Host.Cell) (p : Nat) (alt : Bool) : List Bool :=
  ((List.range (profSyncLen set p)).map fun k => bitOf (if alt then profSyncAlt set p else profSync set p) k).reverse

/-- Symbols of the sync word: the levels of the word matched, with the timing and offsets found (R199). -/
def syncSyms (set : List Host.Cell) (p : Nat) (mt : Match) : List Sym :=
  let bps := profBps set p
  let bits := syncBits set p mt.fmtB
  (mt.track.syms.reverse.zip (List.range mt.track.syms.length)).map fun x =>
    { x.1 with lev := levelOfBits set p ((bits.drop (bps * x.2)).take bps) }

/-- The last `k` preamble symbols in order of time: the pattern back from the sync word at the nominal period, with the offset of the
first sync symbol (R199; log 140). -/
def preambleSyms (set : List Host.Cell) (i p k : Nat) (mt : Match) : List Sym :=
  let sps := sps32 set i p
  match mt.track.syms.getLast? with
  | none => []
  | some x => ((List.range k).map fun (q : Nat) =>
      let m : Int := (mt.track.from_ : Int) - 1 - (q : Int)
      { lev := invSign set p * mt.track.pol * patSign (profPat2 set p) m * 3, tau := x.tau - ((q : Int) + 1) * sps, fo := x.fo, y := 0 }).reverse

/-- Symbols of the rebuild with `k` preamble symbols, in order of time and in the sense of the frequency; the symbol after the end has
no level (R199, R200; log 140). -/
def rebuildSyms (set : List Host.Cell) (i p k : Nat) (mt : Match) (syms : List Sym) : List Sym :=
  let l := preambleSyms set i p k mt ++ syncSyms set p mt ++ syms.reverse
  let tail : List Sym := match l.getLast? with | some x => [{ x with lev := 0, tau := x.tau + sps32 set i p }] | none => []
  l.map (freqLevel set p) ++ tail

/-- a_dev in 2^-32: the mean of |v| over the outer-level symbols after the sync position; 1 where there is none (R199; log 140). -/
def outerMean (set : List Host.Cell) (p : Nat) (syms : List Sym) : Int :=
  let l := syms.filter fun x => x.lev.natAbs == 3
  if l.isEmpty then one32 else roundI ((l.map fun x => ((normValue set p x.y).natAbs : Int)).sum) (l.length : Int)

/-- Frequency of the waveform at instant `t`, in 2^-40 turn per sample, from symbols that end no earlier than four periods before (R199;
log 128). `dev` is the outer deviation in 2^-40 turn per sample. -/
def waveFreq (set : List Host.Cell) (p : Nat) (sps dev t : Int) (l : List Sym) : Int :=
  let near := l.takeWhile fun x => decide (x.tau - sps ≤ t + 4 * sps)
  let pulse (x : Sym) : Int := if x.lev == 0 then 0
    else roundI (x.lev * dev * gaussPulse (profBT set p) (Int.fdiv ((t - x.tau + sps / 2) * unit60) sps)) (3 * unit60)
  let fo := match l.find? (fun x => decide (t ≤ x.tau)) with | some x => x.fo | none => match l.getLast? with | some x => x.fo | none => 0
  (near.map pulse).sum + fo

/-- Increments of the phase for `count` samples from `n` on, in 2^-40 turn: the frequency at the middle of each (log 128). -/
def waveSteps (set : List Host.Cell) (p : Nat) (sps dev : Int) : (count : Nat) → (n : Int) → List Sym → List Int
  | 0, _, _ => []
  | c + 1, n, l =>
    let t := n * one32 - one32 / 2
    let live := l.dropWhile fun x => decide (x.tau + 4 * sps < t)
    waveFreq set p sps dev t live :: waveSteps set p sps dev c (n + 1) live

/-- The unit waveform from its phase increments, I and Q in 2^-60. -/
def waveOf : (phase : Int) → List Int → List (Int × Int)
  | _, [] => []
  | ph, x :: xs => cosSin (ph + x) :: waveOf ((ph + x) % turn40) xs

/-- Phase increments of the rebuild of a context for samples `n` to `n + count - 1` (R199). -/
def rebuildSteps (set : List Host.Cell) (i p : Nat) (syms : List Sym) (l : List Sym) (count : Nat) (n : Int) : List Int :=
  let sps := sps32 set i p
  let dev := roundI (dev40 set p * outerMean set p syms) sps
  waveSteps set p sps dev count n l

/-- Correlation of samples with the waveform: real and imaginary part in 2^-60, and the samples counted; zero samples are left out (R201). -/
def correlateWave : List (Int × Int) → List (Int × Int) → Int × Int × Nat
  | x :: xs, r :: rs =>
    let c := correlateWave xs rs
    if x == (0, 0) then c
    else (x.1 * r.1 + x.2 * r.2 + c.1, x.2 * r.1 - x.1 * r.2 + c.2.1, c.2.2 + 1)
  | _, _ => (0, 0, 0)

/-- Complex amplitude of a segment in 2^-60; zero where no sample counts (R188, R201). -/
def amplitude (xs rs : List (Int × Int)) : Int × Int :=
  let c := correlateWave xs rs
  if c.2.2 == 0 then (0, 0) else (roundI c.1 (c.2.2 : Int), roundI c.2.1 (c.2.2 : Int))

/-- a × r in 2^-60. -/
def scaleWave (a r : Int × Int) : Int × Int := (mul60 a.1 r.1 - mul60 a.2 r.2, mul60 a.1 r.2 + mul60 a.2 r.1)

/-! ### Link quality (R187 to R190) -/

/-- Samples of a list, the first at index `n`, up to an instant. -/
def takeUntil (bound : Int) : (n : Int) → List α → List α × List α
  | _, [] => ([], [])
  | n, x :: xs => if n * one32 ≤ bound then let r := takeUntil bound (n + 1) xs; (x :: r.1, r.2) else ([], x :: xs)

/-- Ends of segments of 64 symbols, the last shorter (R188, R201). -/
def segmentEnds : (fuel : Nat) → List Sym → List Int
  | 0, _ => []
  | f + 1, l => match (l.take 64).getLast? with
    | none => []
    | some x => x.tau :: segmentEnds f (l.drop 64)

/-- Signal and noise energy of the telegram samples, segment by segment (R188). -/
def snrSums : List Int → (n : Int) → List (Int × Int) → List (Int × Int) → Nat × Nat
  | [], _, _, _ => (0, 0)
  | e :: es, n, xs, rs =>
    let a := takeUntil e n xs
    let b := takeUntil e n rs
    let amp := amplitude a.1 b.1
    let sig := (b.1.map fun r => normSq (scaleWave amp r)).sum
    let noise := ((a.1.zip b.1).map fun z => let w := scaleWave amp z.2; normSq (z.1.1 * unit60 - w.1, z.1.2 * unit60 - w.2)).sum
    let r := snrSums es (n + a.1.length) a.2 b.2
    (sig + r.1, noise + r.2)

/-- The SNR field from signal and noise energy (R188). -/
def snrField (es en : Nat) : Int :=
  if en == 0 then 960 else if es == 0 then -320 else min 960 (max (-320) (decibels 16 es en))

/-- Squared differences of the symbol values measured and those of the rebuilt waveform, whose increments start at sample `n` (R190). -/
def devSum (sps : Int) : List Sym → (n : Int) → List Int → Int
  | [], _, _ => 0
  | x :: xs, n, steps =>
    let r := takeUntil (x.tau - sps) n steps
    let n1 := n + r.1.length
    let part := (takeUntil (x.tau + one32) n1 r.2).1
    let y := symValue sps x.fo x.tau (n1 + part.length - 1) (part.reverse.map some)
    (x.y - y) * (x.y - y) + devSum sps xs n1 r.2

/-- Square root of a quotient, to the nearest (R190). -/
def roundSqrt (num den : Nat) : Nat := (isqrt (4 * num / den) + 1) / 2

/-- Link-quality figures. -/
structure Quality where
  rssi    : Int
  snr     : Int
  freqOff : Int
  devErr  : Nat
  deriving DecidableEq, Repr

/-- The figures of a complete telegram over the samples from the sync position to its end (R187 to R190). -/
def Demod.quality (set : List Host.Cell) (i p : Nat) (c : Confirmed) (endAt : Nat) (dm : Demod) : Quality :=
  let sps := sps32 set i p
  let syms := dm.syms.reverse
  let pos := match c.mt.track.syms.head? with | some x => x.tau | none => 0
  let n0 := Int.fdiv pos one32 + 1
  let tele := dm.tele.reverse
  let steps := rebuildSteps set i p dm.syms (rebuildSyms set i p 8 c.mt dm.syms) (tele.length + 1) n0
  let e := snrSums (segmentEnds syms.length syms) n0 (tele.map fun x => (x.i, x.q)) (waveOf 0 (steps.take tele.length))
  let power := (tele.map (·.p)).sum
  let fos := (syms.map (·.fo)).sum
  let m := syms.length
  { rssi := if power == 0 then (Config.silentRssi endAt).toInt else satI 16 (decibels 16 power (tele.length * unit60.toNat))
    snr := snrField e.1 e.2
    freqOff := roundI (fos * 38400000) ((laneP set i * m : Nat) * turn40)
    devErr := satTo 65535 (roundSqrt (1000000 * (devSum sps syms n0 steps).toNat) (m * (dev40 set p * dev40 set p).toNat)) }

/-! ### Cancellation (R200, R201) -/

/-- What is rebuilt of a passed telegram: samples `n0` on, their waveform, and the ends of its segments of 64 symbols. -/
structure Wave where
  n0   : Int
  r    : List (Int × Int)
  ends : List Int
  deriving DecidableEq, Repr

/-- Start of the rebuild with `k` preamble symbols, in 2^-32 sample. -/
def spanStart (set : List Host.Cell) (i p k : Nat) (mt : Match) : Int :=
  match mt.track.syms.getLast? with
  | none => 0
  | some x => x.tau - ((k : Int) + 1) * sps32 set i p

/-- Magnitude squared of the amplitude of symbols [start, stop) of the rebuild with `k` preamble symbols, from the context's own retained
samples of the picked branch, by index; none without samples (R200). -/
def groupPower (set : List Host.Cell) (i p k : Nat) (mt : Match) (syms : List Sym) (own : List (Int × (Int × Int))) (start stop : Int) :
    Option Nat :=
  let xs := own.filter fun x => decide (start < x.1 * one32) && decide (x.1 * one32 ≤ stop)
  match xs with
  | [] => none
  | x :: _ =>
    let rs := waveOf 0 (rebuildSteps set i p syms (rebuildSyms set i p k mt syms) xs.length x.1)
    some (normSq (amplitude (xs.map (·.2)) rs))

/-- Preamble symbols of the rebuild: `k`, and further groups of 8 while their amplitude is at least half of `ref`'s, up to `most` (R200). -/
def extendSpan (set : List Host.Cell) (i p most : Nat) (mt : Match) (syms : List Sym) (own : List (Int × (Int × Int))) (ref : Nat) :
    (fuel k : Nat) → Nat
  | 0, k => k
  | f + 1, k =>
    if most < k + 8 then k
    else match groupPower set i p (k + 8) mt syms own (spanStart set i p (k + 8) mt) (spanStart set i p k mt) with
      | some g => if ref ≤ 4 * g then extendSpan set i p most mt syms own ref f (k + 8) else k
      | none => k

/-- The rebuild of a passed telegram (R199, R200): back to the hit peak less W symbols, then through the preamble in groups of 8. The
segment that holds the sync word is the 64 symbols from its first one on (log 140). -/
def Demod.rebuild (set : List Host.Cell) (i p : Nat) (h : Hit) (own : List (Int × (Int × Int))) (dm : Demod) : Option Wave :=
  match dm.hit with
  | none => none
  | some c =>
    let mt := c.mt
    let sps := sps32 set i p
    let peak := (h.j : Int) * one32 + (h.frac : Int) * 16777216
    let s0 := spanStart set i p 0 mt
    let most := profPreLen set p - syncSymbols set p
    let base := ((s0 - (peak - (profW set p : Int) * sps) + sps - 1) / sps).toNat
    let ref := (groupPower set i p 0 mt dm.syms own s0 (s0 + 64 * sps)).getD 0
    let k := extendSpan set i p most mt dm.syms own ref 512 base
    let l := rebuildSyms set i p k mt dm.syms
    let n0 := Int.fdiv (spanStart set i p k mt) one32 + 1
    let last := match l.getLast? with | some x => Int.fdiv x.tau one32 | none => n0 - 1
    some { n0 := n0, r := waveOf 0 (rebuildSteps set i p dm.syms l (last + 1 - n0).toNat n0), ends := segmentEnds l.length l }

/-- Segment of sample `n`: segments of s that ended before it, and starts that other causes give (R201). -/
def segmentOf (ends : List Int) (cuts : List Int) (n : Int) : Nat :=
  (ends.filter fun e => decide (e < n * one32)).length + (cuts.filter fun e => decide (e ≤ n)).length

/-- x - round (a × r), 16 bits, zero samples left zero (R201). A half is rounded up (log 132). -/
def subtract (a r x : Int × Int) : Int × Int :=
  if x == (0, 0) then x
  else
    let w := scaleWave a r
    (satI 16 (x.1 - roundI w.1 unit60), satI 16 (x.2 - roundI w.2 unit60))

/-- The samples of one segment with the telegram subtracted on both branches (R201). -/
def cancelSegment (l : List (Int × Quad × (Int × Int))) : List (Int × Quad) :=
  let rs := l.map (·.2.2)
  let a := amplitude (l.map fun z => z.2.1.branch false) rs
  let b := amplitude (l.map fun z => z.2.1.branch true) rs
  l.map fun z =>
    let ya := subtract a z.2.2 (z.2.1.branch false)
    let yb := subtract b z.2.2 (z.2.1.branch true)
    (z.1, { ai := ya.1, aq := ya.2, bi := yb.1, bq := yb.2 })

/-- Samples of a segment at the front of a list, and the rest. -/
def spanSegment (key : Int → Nat) (k : Nat) : List (Int × Quad × (Int × Int)) → List (Int × Quad × (Int × Int)) × List (Int × Quad × (Int × Int))
  | [] => ([], [])
  | z :: l => if key z.1 == k then let r := spanSegment key k l; (z :: r.1, r.2) else ([], z :: l)

/-- Segment after segment (R201). -/
def cancelAll (key : Int → Nat) : (fuel : Nat) → List (Int × Quad × (Int × Int)) → List (Int × Quad)
  | 0, _ => []
  | _ + 1, [] => []
  | f + 1, z :: l => let r := spanSegment key (key z.1) (z :: l); cancelSegment r.1 ++ cancelAll key f r.2

/-- The retained samples of a target, by index, with a telegram cancelled (R201). `cuts` are sample indices at which segments begin. -/
def Wave.cancel (w : Wave) (cuts : List Int) (xs : List (Int × Quad)) : List (Int × Quad) :=
  let before := xs.filter fun x => decide (x.1 < w.n0)
  let inside := xs.filter fun x => decide (w.n0 ≤ x.1) && decide (x.1 < w.n0 + w.r.length)
  let after := xs.filter fun x => decide (w.n0 + w.r.length ≤ x.1)
  let z := inside.map fun x => (x.1, x.2, w.r.getD (x.1 - w.n0).toNat (0, 0))
  before ++ cancelAll (segmentOf w.ends cuts) z.length z ++ after

end Sys2Proof.Machine
end

