-- ==== Sys2Proof/Machine/Contexts.lean ====
section
/-! DEFINITION. Reception contexts: work orders and placement, opening, confirmation, partners, retention, cancellation, sweeps and the
ways a context ends (chapters 7 and 8, R23, R24, R27, R31). -/

namespace Sys2Proof.Machine

/-! ### Work orders (R27, R31, R134, R193, R194) -/

/-- Cycles a scull completes in a stroke: 9,600 × N on SYN_C, 9,600 on the reference (R20, R134). -/
def State.scullCycles (s : State) : Nat := if s.synIs 0 .locked then strokeLen * (s.synth 0).n else strokeLen

/-- Retained samples of blocks. -/
def heldSamples (l : List Held) : Nat := (l.map (·.blk.count)).sum

/-- Retained blocks that a sweep reads: those of its context, then the tail (R204, R206). -/
def Ctx.sweepBlocks (c : Ctx) : List Held := c.kept ++ c.tail

/-- A re-run has a retained block to process; a sweep has one (R202, R204). -/
def Ctx.rerunDue (c : Ctx) : Bool := c.rerun.any fun p => decide (p.pos < c.kept.length)
def Ctx.sweepDue (c : Ctx) : Bool := c.sweep.any fun p => decide (p.pos < c.sweepBlocks.length)

/-- The sculls that hold the orders of a context's re-run and sweep. -/
def Ctx.paceSculls (c : Ctx) : List Nat :=
  (if c.rerunDue then (c.rerun.bind (·.scull)).toList else []) ++ (if c.sweepDue then (c.sweep.bind (·.scull)).toList else [])

/-- Work orders of a context on a scull: one for each block it has not finished, one for a re-run and one for a sweep (R193). -/
def Ctx.ordersOn (c : Ctx) (scull : Nat) : Nat :=
  (c.blocks.filter fun h => h.scull == some scull).length + (c.paceSculls.filter (· == scull)).length

/-- Work orders outstanding on a scull (R31). -/
def State.ordersOf (s : State) (scull : Nat) : Nat :=
  (s.rx.ctxs.map fun e => e.2.ordersOn scull).sum + (s.rx.orders.filter fun o => o.scull == scull).length

/-- Cycles of a work order of a context over `n` samples (R194). A sweep is charged as a confirmed 2-GFSK context: the table has no row
for it (log 50). -/
def State.orderCost (s : State) (c : Ctx) (n : Nat) : Nat :=
  let set := s.cfg.active
  let pair := lanePair set c.lane
  match c.st with
  | .gambit => 400 + n * (if s.offered pair false && s.offered pair true then 22 else 12)
  | .confirmed => 300 + n * (if profMod4 set c.profile then 13 else 10)
  | _ => 300 + n * 10

/-- Class of a context's work under R27 (R176, R202, R204, R205). -/
def Ctx.workClass (c : Ctx) : Nat :=
  if c.sweep.isSome then 6
  else match c.st with
    | .gambit => if c.sweepCtx then 6 else 5
    | .confirmed => if c.cancelled then 4 else 3
    | _ => 3

/-- Lane-sample instant at which the last symbol of a context ends, once its length is known (R167, R195). -/
def State.extentEnd (s : State) (c : Ctx) : Option Nat :=
  match c.endAt with
  | some e => some e
  | none => c.need.map fun n => c.syncAt + symCycles s.cfg.active c.profile n

/-- Samples of the next order of a re-run or a sweep: whole blocks until 1,200 samples are reached (R202). -/
def orderSamples : (left : Nat) → List Held → Nat
  | _, [] => 0
  | left, h :: l => if left ≤ h.blk.count then h.blk.count else h.blk.count + orderSamples (left - h.blk.count) l

/-- Cycles of a context's final work order, quality figures and stream, once the blocks it holds reach the end of its telegram (R194). -/
def State.finalCost (s : State) (c : Ctx) : Nat :=
  let reach := match (c.kept ++ c.blocks).getLast? with | some h => strokeLen * (h.blk.stroke + 1) | none => 0
  match c.need, s.extentEnd c with
  | some n, some e => if c.st == .confirmed && decide (e ≤ reach) then 2000 + 40 * n else 0
  | _, _ => 0

/-- Cycles of a context's outstanding work: its blocks, the next order of a re-run, the next order of a sweep (R194). -/
def State.ctxCost (s : State) (c : Ctx) : Nat :=
  (c.blocks.map fun h => s.orderCost c h.blk.count).sum
    + (match c.rerun with | some p => if c.rerunDue then s.orderCost c (orderSamples 1200 (c.kept.drop p.pos)) else 0 | none => 0)
    + (match c.sweep with | some p => if c.sweepDue then s.orderCost c (orderSamples 1200 (c.sweepBlocks.drop p.pos)) else 0 | none => 0)
    + s.finalCost c

/-- Forecast load of a scull in cycles over the classes up to `upTo` (R194), with the work that is not a context's. -/
def State.loadOf (s : State) (scull upTo : Nat) : Nat :=
  (s.rx.ctxs.map fun e => if e.2.scull == scull && e.2.workClass ≤ upTo then s.ctxCost e.2 else 0).sum
    + (s.rx.orders.map fun o => if o.scull == scull && o.cls ≤ upTo then o.cycles else 0).sum

/-- Sculls of Molrel crews (R18). -/
def State.molrelSculls (s : State) : List Nat :=
  (List.range 64).filter fun c => s.crewIs (c / 8) .molrel && !s.mem.badSculls.contains c

/-- The class from which work is shed: 8 when nothing is. A crew cannot finish its work by the due catch when the load on its sculls is
more than they complete in a stroke (R27; log 50). -/
def State.shedClass (s : State) : Nat :=
  let of (crew : Nat) : Nat :=
    let mine := s.molrelSculls.filter fun c => c / 8 == crew
    let cap := mine.length * s.scullCycles
    let load (k : Nat) : Nat := (mine.map fun c => s.loadOf c k).sum
    if load 7 ≤ cap then 8 else if load 6 ≤ cap then 7 else if load 5 ≤ cap then 6 else 5
  (List.range 8).foldl (fun m c => min m (of c)) 8

/-- Of the sculls that qualify, that with the lowest load, then the lowest number (R193). -/
def State.leastLoaded (s : State) (ok : Nat → Bool) : Option Nat :=
  (s.molrelSculls.filter ok).foldl
    (fun m c => match m with
      | none => some c
      | some d => if s.loadOf c 7 < s.loadOf d 7 then some c else some d) none

/-- A scull that may take a new context: fewer than 32 contexts and at least 3 free work-order credits (R193). -/
def State.scullFree (s : State) (c : Nat) : Bool :=
  (s.rx.ctxs.filter fun e => e.2.scull == c).length < 32 && s.ordersOf c + 3 ≤ 32

/-- The scull that takes a new context (R193). -/
def State.placeScull (s : State) : Option Nat := s.leastLoaded s.scullFree

/-- The scull that takes a work order meant for one of them: that one while it has a credit, else another Molrel scull that has one;
none when no scull has (R30, R31). Among others the least loaded is taken (log 141). -/
def State.placeOrder (s : State) (scull : Nat) : Option Nat :=
  if s.ordersOf scull < 32 then some scull else s.leastLoaded fun c => s.ordersOf c < 32

/-- Orders of a context that found no credit are issued once there is one: its blocks, then its re-run, then its sweep (R31). -/
def State.issueCtx (s : State) (i : Nat) : State :=
  let s1 := s.each (List.range (s.ctx i).blocks.length) fun s k =>
    let c := s.ctx i
    s.onCtx i fun x => { x with blocks := modifyAt (fun h => if h.scull.isNone then { h with scull := s.placeOrder c.scull } else h) x.blocks k }
  let s2 := s1.onCtx i fun c => { c with rerun := c.rerun.map fun p => if c.rerunDue && p.scull.isNone then { p with scull := s1.placeOrder c.scull } else p }
  s2.onCtx i fun c => { c with sweep := c.sweep.map fun p => if c.sweepDue && p.scull.isNone then { p with scull := s2.placeOrder c.scull } else p }

/-- A work order that is not a context's is placed, or waits (R27, R31). -/
def State.issueOrder (s : State) (o : Order) : State :=
  match s.placeOrder o.scull with
  | some c => s.onRx fun r => { r with orders := r.orders ++ [{ o with scull := c }] }
  | none => s.onRx fun r => { r with unplaced := r.unplaced ++ [o] }

/-- Every order that waits for a credit is tried again (R31). -/
def State.issueAll (s : State) : State :=
  let s1 := (s.onRx fun r => { r with unplaced := [] }).each s.rx.unplaced State.issueOrder
  s1.each (s1.rx.ctxs.map (·.1)) State.issueCtx

/-! ### Contexts of a lane -/

/-- Contexts in use on a lane, by number. -/
def State.laneCtxs (s : State) (lane : Nat) : List (Nat × Ctx) := s.rx.ctxs.filter fun e => e.2.lane == lane

/-- A context that counts as confirmed for R167 and R195. -/
def Ctx.isConfirmed (c : Ctx) : Bool := c.st == .confirmed || c.st == .offering || c.st == .waiting

/-- DTIME of a hit's peak on its lane (R167). -/
def State.peakTime (s : State) (lane : Nat) (h : Hit) : Nat := h.j * laneP s.cfg.active lane

/-- The lowest free context number (log 18). -/
def State.freeCtx (s : State) : Option Nat :=
  (List.range 1024).find? fun i => (findT s.rx.ctxs i).isNone

/-- Start of a context's extent (R195). -/
def State.extentStart (s : State) (c : Ctx) : Nat := c.peak - symCycles s.cfg.active c.profile (profW s.cfg.active c.profile)

/-- Extents of two contexts of a lane share at least one lane sample (R195). -/
def State.overlap (s : State) (a b : Ctx) : Bool :=
  let p := laneP s.cfg.active a.lane
  let first := ceilDiv (max (s.extentStart a) (s.extentStart b)) p * p
  (match s.extentEnd a with | some e => decide (first ≤ e) | none => true) && (match s.extentEnd b with | some e => decide (first ≤ e) | none => true)

/-! ### Retained blocks (R207, R208) -/

/-- Bytes that a retained block takes in the spill region (R208). -/
def Held.size (h : Held) : Nat := 32 + 8 * h.blk.count

/-- The spill region in DRAM (R208, R394). -/
def spillBase : Nat := 0x80000000 + 0x13400000
def spillLen : Nat := 134217728

/-- Samples of a block that a context holds: the residual block, the copy in the spill region, or the lane buffer (R201, R208). -/
def State.heldQuads (s : State) (h : Held) : List Quad :=
  match h.res with
  | some q => q
  | none =>
    let at_ := match h.spill with | some o => spillBase + o + 32 | none => bufferAt h.blk.buffer
    quadsOf h.blk.count (s.memRead at_ (8 * h.blk.count))

/-- Those samples with their lane-sample indices. -/
def State.heldIndexed (s : State) (h : Held) : List (Int × Quad) :=
  (s.heldQuads h).zip (List.range h.blk.count) |>.map fun x => (((h.blk.jFirst + x.2 : Nat) : Int), x.1)

/-- Blocks that have a place in the spill region, and blocks that await one: offset and size. -/
def State.spilled (s : State) : List (Nat × Nat) :=
  (s.rx.ctxs.map fun e => e.2.sweepBlocks.filterMap fun h => h.spill.map fun o => (o, h.size)).flatten
def State.awaitBytes (s : State) : Nat := (s.rx.ctxs.map fun e => ((e.2.sweepBlocks.filter (·.await)).map Held.size).sum).sum

/-- The lowest offset in the spill region at which `n` bytes are free (log 142). -/
def State.spillPlace (s : State) (n : Nat) : Option Nat :=
  let used := s.spilled
  let ok (o : Nat) : Bool := decide (o + n ≤ spillLen) && used.all fun u => decide (o + n ≤ u.1) || decide (u.1 + u.2 ≤ o)
  ((0 :: used.map fun u => u.1 + u.2).filter ok).foldl (fun m o => match m with | none => some o | some x => some (min x o)) none

/-- Blocks that a context gives up leave the spill region, or no longer await their copy (R207, R208). -/
def State.giveUp (s : State) (l : List Held) : State :=
  s.onRx fun r => { r with spill := r.spill - ((l.filter fun h => h.spill.isSome).map Held.size).sum, awaiting := r.awaiting - (l.filter (·.await)).length }

/-- Retained blocks of a context are released (R207, R208). -/
def State.dropKept (s : State) (i : Nat) : State := (s.giveUp (s.ctx i).kept).onCtx i fun c => { c with kept := [] }

/-- The tail of a context is released (R206). -/
def State.dropTail (s : State) (i : Nat) : State := (s.giveUp (s.ctx i).tail).onCtx i fun c => { c with tail := [] }

/-- A block is retained, to be copied to DRAM, or its context becomes UNRETAINED: at most 257 blocks await their copy, those listed to
customer crews beyond the rings counted with them, and what awaits its copy has its place in the region (R208, R468). -/
def State.retain (s : State) (i : Nat) (h : Held) : State :=
  let c := s.ctx i
  if c.unretained then s
  else if h.res.isSome || h.spill.isSome || h.await then s.onCtx i fun c => { c with kept := c.kept ++ [{ h with scull := none }] }
  else if s.rx.awaiting + s.rx.listed < 257 && s.rx.spill + s.awaitBytes + h.size ≤ spillLen then
    (s.onCtx i fun c => { c with kept := c.kept ++ [{ h with scull := none, await := true }] }).onRx fun r => { r with awaiting := r.awaiting + 1 }
  else ((s.dropKept i).onCtx i fun c => { c with unretained := true }).onCap fun c => { c with unretained := c.unretained + 1 }

/-- The stroke that the oldest unfinished work of a context belongs to (R23, R202, R204). -/
def Ctx.oldest (c : Ctx) : Option Nat :=
  if c.rerunDue then c.rerun.map fun p => p.start + p.done / 1200
  else if c.sweepDue then c.sweep.map fun p => p.start + p.done / 1200
  else c.blocks.head?.map (·.blk.stroke)

/-! ### Ends of contexts (R24, R173, R176, R197, R198, R209) -/

/-- A context returns to FREE: blocks, orders, stream credit, partnerships and cancellations not yet written go with it. -/
def State.freeOne (s : State) (i : Nat) : State :=
  let c := s.ctx i
  let s1 := (s.dropKept i).dropTail i
  let taken := s1.rx.atEngine.contains i
  s1.onRx fun r =>
    { r with ended := putT r.ended i .other
             ctxs := (delT r.ctxs i).map fun e =>
               (e.1, { e.2 with partners := e.2.partners.filter fun p => p.1 != i, owed := e.2.owed.filter (· != i) })
             atEngine := r.atEngine.filter (· != i)
             streamsOut := if taken && c.st == .offering && !c.passed then r.streamsOut - 1 else r.streamsOut }

/-- A context that can still pass: neither passed nor of a profile without block CRCs, and not in WAITING, or waiting with a partner
that can (R197). -/
def State.canPass (s : State) : (fuel : Nat) → Nat → Bool
  | 0, _ => false
  | f + 1, i =>
    match findT s.rx.ctxs i with
    | none => false
    | some c =>
      if c.passed || profMode s.cfg.active c.profile == 0 then false
      else if c.st != .waiting then true
      else c.partners.any fun p => s.canPass f p.1

/-- Contexts in WAITING on a lane without a partner that could still pass return to FREE (R197). A lane carries at most four contexts. -/
def State.resolveOnce (s : State) (lane : Nat) : State :=
  s.each ((s.laneCtxs lane).filter fun e => e.2.st == .waiting) fun s e =>
    if (findT s.rx.ctxs e.1).isSome && !((s.ctx e.1).partners.any fun p => s.canPass 4 p.1) then
      (s.freeOne e.1).onCap fun c => { c with waitingExpired := c.waitingExpired + 1 }
    else s

def State.resolveWaiting (s : State) (lane : Nat) : State :=
  (((s.resolveOnce lane).resolveOnce lane).resolveOnce lane).resolveOnce lane

/-- A context ends; a sweep it still owed is skipped and counted; partners go on under R197 and R209. -/
def State.endOne (s : State) (i : Nat) : State :=
  let c := s.ctx i
  let s1 := if c.passed && c.sweep.isSome then s.onCnt fun k => { k with sweepSkipped := k.sweepSkipped + 1 } else s
  (s1.freeOne i).resolveWaiting c.lane

/-- A context that has passed returns to FREE when its sweep is over and no partner waits for its cancellation (R198). -/
def State.settleCtx (s : State) (i : Nat) : State :=
  match findT s.rx.ctxs i with
  | none => s
  | some c => if c.passed && c.sweep.isNone && !(s.rx.ctxs.any fun e => e.2.owed.contains i) then s.endOne i else s

/-- A context ends, and passed contexts that waited to cancel into it settle (R198, R209). -/
def State.endCtx (s : State) (i : Nat) : State := (s.endOne i).each (s.ctx i).owed State.settleCtx

/-- A context is aborted: counted in ctx_overrun, with EV_MISSED_STROKE where `event` says so (R24, R176). -/
def State.abortCtx (s : State) (event : Bool) (i : Nat) : State :=
  let s1 := (s.onCnt fun c => { c with ctxOverrun := c.ctxOverrun + 1, accOverrun := if event then c.accOverrun + 1 else c.accOverrun }).endCtx i
  if event then s1.missedEvent else s1

/-- Every context on the lanes that `p` selects is aborted without EV_MISSED_STROKE (R80, R101, R137). -/
def State.abortWhere (s : State) (p : Ctx → Bool) : State :=
  s.each ((s.rx.ctxs.filter fun e => p e.2).map (·.1)) fun s i => if (findT s.rx.ctxs i).isSome then s.abortCtx false i else s

/-- Contexts that a loss of lock ends, with status CLOCK_FAULT (R137, R176). -/
def State.abortFault (s : State) (p : Ctx → Bool) : State :=
  (s.abortWhere p).onRx fun r =>
    { r with ended := (s.rx.ctxs.filter fun e => p e.2).foldl (fun t e => putT t e.1 .clockFault) r.ended }

/-- A loss of lock ends the contexts on the lanes of a pair (R137). -/
def State.abortPair (s : State) (pair : Nat) : State := s.abortFault fun c => lanePair s.cfg.active c.lane == pair

/-- A branch left RECEIVE: contexts that picked it are aborted, and the lanes follow (R101). -/
def State.branchLost (s : State) (chain : Nat) : State :=
  if 4 ≤ chain then s
  else
    let pair := chain / 2
    let isB := chain % 2 == 1
    (s.abortWhere fun c => lanePair s.cfg.active c.lane == pair && c.pick == some isB).followLanes pair

/-! ### Sculls that fail (R36, R352) -/

/-- A work order on a scull whose stroke lies 16 strokes back: a block of a context, the pace of a re-run or a sweep, or work that is not a
context's (R36). -/
def State.orderLate (s : State) (c : Nat) : Bool :=
  let old (n : Nat) : Bool := decide (n + 17 ≤ s.stroke)
  let pace (due : Bool) (p : Option Pace) : Bool := due && p.any fun p => p.scull == some c && old (p.start + p.done / 1200)
  (s.rx.ctxs.any fun e => (e.2.blocks.any fun h => h.scull == some c && old h.blk.stroke) || pace e.2.rerunDue e.2.rerun || pace e.2.sweepDue e.2.sweep)
    || s.rx.orders.any fun o => o.scull == c && old o.stroke

/-- A Molrel scull is reset: its contexts are aborted for overrun, and other work it held waits for a credit elsewhere (R31, R36, R352;
log 141). -/
def State.resetScull (s : State) (c : Nat) : State :=
  let s1 := (s.setScull c {}).flagFall 0x05 c
  let s2 := s1.each ((s.rx.ctxs.filter fun e => e.2.scull == c).map (·.1)) fun s i => if (findT s.rx.ctxs i).isSome then s.abortCtx true i else s
  let off (x : Option Nat) : Option Nat := if x == some c then none else x
  (s2.onRx fun r =>
    { r with orders := r.orders.filter fun o => o.scull != c, unplaced := r.unplaced ++ r.orders.filter fun o => o.scull == c
             ctxs := r.ctxs.map fun e =>
               (e.1, { e.2 with blocks := e.2.blocks.map fun h => { h with scull := off h.scull }
                                rerun := e.2.rerun.map fun p => { p with scull := off p.scull }
                                sweep := e.2.sweep.map fun p => { p with scull := off p.scull } }) }).issueAll

/-! ### Opening (R167 to R169, R205) -/

/-- The context whose hit disarmed a branch before a rise on it: the one opened by the hit with that peak (R162, R168). -/
def State.riseTarget (s : State) (lane : Nat) (h : Hit) : Option Nat :=
  ((s.laneCtxs lane).find? fun e => match e.2.hit with
    | some x => (h.riseA && x.a && !x.riseA && x.ja == h.byA) || (h.riseB && x.b && !x.riseB && x.jb == h.byB)
    | none => false).map (·.1)

/-- A gambit opens on a hit of the block of a stroke (R168, R169). -/
def State.openCtx (s : State) (i lane scull : Nat) (h : Hit) (stroke : Nat) (sweep : Bool) : State :=
  let prof := laneProf s.cfg.active lane
  s.setCtx i { st := .gambit, lane := lane, profile := prof, scull := scull, cls := if sweep then 6 else 5
               first := stroke, peak := s.peakTime lane h, hit := some h, riseOn := s.riseTarget lane h, gen := (s.lane lane).w.gen
               sweepCtx := sweep, cancelled := sweep, dm := Demod.start s.cfg.active lane prof h }

/-- The hit lies within a confirmed context's span, less than 6 dB above its level (R167). A sweep's own context hides nothing from it:
its telegram is what was cancelled (log 143). -/
def State.hitHidden (s : State) (lane : Nat) (h : Hit) (src : Option Nat) : Bool :=
  let t := s.peakTime lane h
  !(h.riseA || h.riseB) && (s.laneCtxs lane).any fun e =>
    e.2.isConfirmed && src != some e.1 && decide (e.2.peak ≤ t) && (match s.extentEnd e.2 with | some x => decide (t ≤ x) | none => true)
      && (!h.a || decide (h.levelA < e.2.refA + 96)) && (!h.b || decide (h.levelB < e.2.refB + 96))

def State.refuseGambit (s : State) : State := s.onCnt fun c => { c with gambitRefused := c.gambitRefused + 1 }

/-- A branch that the hit reports is offered (R167). -/
def State.hitOffered (s : State) (lane : Nat) (h : Hit) : Bool :=
  let pair := lanePair s.cfg.active lane
  (h.a && s.offered pair false) || (h.b && s.offered pair true)

/-- The block of a lane that was posted last, as a context holds it. -/
def State.lastHeld (s : State) (lane : Nat) : List Held := match (s.lane lane).last with | some b => [{ blk := b }] | none => []

/-- Blocks from which a sweep context demodulates: those of its source from the one that holds the peak on, their samples taken as the
residual they are (R205). -/
def State.sweepSource (s : State) (src : Nat) (j : Nat) : List Held :=
  let c := s.ctx src
  let from_ (l : List Held) : List Held := l.filter fun h => decide (j < h.blk.jFirst + h.blk.count)
  ((from_ c.kept).map fun h => { blk := h.blk, res := some (s.heldQuads h) }) ++ (from_ c.tail).map fun h =>
    { blk := h.blk, res := if h.spill.isSome then some (s.heldQuads h) else h.res }

/-- A new gambit gets its blocks: a lane hit's block as an order within its credits, a sweep hit's as retained ones (R169, R205). -/
def State.giveBlocks (s : State) (i lane : Nat) (src : Option Nat) (j : Nat) : State :=
  match src with
  | none => (s.onCtx i fun c => { c with blocks := s.lastHeld lane }).issueCtx i
  | some k =>
    let l := s.sweepSource k j
    let s1 := s.each l fun s h => s.retain i h
    (s1.onCtx i fun c => { c with rerun := some { start := s.strokeNow, total := heldSamples l, done := 0 }
                                  first := match l.head? with | some h => h.blk.stroke | none => c.first }).issueCtx i

/-- A hit handled by the first row of R167 that applies; `covered` says that R157 covers its block, `src` the context whose sweep found
it. -/
def State.takeHit (s : State) (lane stroke : Nat) (h : Hit) (covered : Bool) (src : Option Nat) : State :=
  if covered then s.refuseGambit
  else if !s.hitOffered lane h then s
  else if s.hitHidden lane h src then s.refuseGambit
  else if 4 ≤ (s.laneCtxs lane).length then s.refuseGambit
  else if (if src.isSome then s.rx.shedFrom ≤ 6 else s.rx.shedFrom ≤ 5) then s.refuseGambit
  else match s.freeCtx, s.placeScull with
    | some i, some c => (s.openCtx i lane c h stroke src.isSome).giveBlocks i lane src h.j
    | _, _ => s.refuseGambit

/-! ### Confirmation and partners (R170 to R173, R195, R196) -/

/-- End of a gambit's sync window in lane-sample DTIME (R171). -/
def State.windowEnd (s : State) (c : Ctx) : Nat :=
  c.peak + symCycles s.cfg.active c.profile (profPreLen s.cfg.active c.profile + 8)

/-- The length of a context became known: a partnership whose extents no longer overlap dissolves (R195), and who waited for it alone
is freed (R197). -/
def State.unpair (s : State) (i : Nat) : State :=
  (s.each (s.ctx i).partners fun s p =>
    if s.overlap (s.ctx i) (s.ctx p.1) then s
    else (s.onCtx i fun c => { c with partners := c.partners.filter fun q => q.1 != p.1 }).onCtx p.1
      fun c => { c with partners := c.partners.filter fun q => q.1 != i }).resolveWaiting (s.ctx i).lane

/-- At a confirmation partnerships form with every confirmed context of the lane whose extent overlaps (R195, R196). The later partner
is the one with the later hit peak. -/
def State.pairUp (s : State) (i : Nat) : State :=
  s.each ((s.laneCtxs (s.ctx i).lane).filter fun e => e.1 != i && e.2.isConfirmed) fun s e =>
    let me := s.ctx i
    let it := s.ctx e.1
    if (me.partners.any fun p => p.1 == e.1) || !s.overlap me it then s
    else
      let late := if it.peak ≤ me.peak then me else it
      let early := if it.peak ≤ me.peak then it else me
      let b := late.pick == some true
      let lev := match late.hit with | some h => if b then h.levelB else h.levelA | none => 0
      let d := lev - (if b then early.refB else early.refA)
      let ent := decide (d.natAbs < 48)
      ((s.onCtx i fun c => { c with partners := c.partners ++ [(e.1, d)], entangled := c.entangled || ent }).onCtx e.1
        fun c => { c with partners := c.partners ++ [(i, d)], entangled := c.entangled || ent }).onCap
        fun c => { c with pairs := c.pairs + 1, entangled := if ent then c.entangled + 1 else c.entangled }

/-- A confirmation within one symbol of another on the lane: the context with the earlier hit peak is released; of two with the same
peak, the one registered before, which is the model's choice (R173; log 144). -/
def State.sameTelegram (s : State) (i : Nat) : State :=
  let me := s.ctx i
  let sym := symCycles s.cfg.active me.profile 1
  match (s.laneCtxs me.lane).find? (fun e => e.1 != i && e.2.isConfirmed && e.2.syncAt != 0 && decide (distance e.2.syncAt me.syncAt ≤ sym)) with
  | none => s
  | some e =>
    let out := if e.2.peak ≤ me.peak then e.1 else i
    (s.onCnt fun c => { c with gambitReleased := c.gambitReleased + 1 }).endCtx out

/-- GEN of the lane at the catch that posted the block which holds the end of the sync word (R85); of the block in hand, where the
context no longer holds that block. -/
def Ctx.syncGen (c : Ctx) (now : Block) (pos : Int) : U8 :=
  let j := -(Int.fdiv (-pos) one32)
  match (c.kept.map (·.blk)).find? fun b => decide ((b.jFirst : Int) ≤ j) && decide (j < ((b.jFirst + b.count : Nat) : Int)) with
  | some b => b.gen
  | none => now.gen

/-- End of the last sync symbol of a match, in 2^-32 sample. -/
def Match.pos (m : Match) : Int := match m.track.syms.head? with | some x => x.tau | none => 0

/-- An instant in 2^-32 sample as a lane-sample DTIME, rounded to the nearest reference cycle (R175). -/
def State.instant (s : State) (lane : Nat) (t : Int) : Nat := (roundI (t * (laneP s.cfg.active lane : Nat)) one32).toNat

/-- A gambit is confirmed in the block in hand (R85, R170, R173, R178, R195). -/
def State.confirm (s : State) (i : Nat) (h : Confirmed) (now : Block) : State :=
  let s1 := s.onCtx i fun c =>
    { c with st := .confirmed, cls := if c.cancelled then 4 else 3, fmtB := h.fmtB, syncAt := s.instant c.lane h.mt.pos, syncErrs := h.errs
             cntA := h.cntA, cntB := h.cntB, qA := h.qA, qB := h.qB, pick := some h.pick, gen := c.syncGen now h.mt.pos
             bits := [], need := none, endAt := none }
  let s2 := s1.sameTelegram i
  if (findT s2.rx.ctxs i).isSome then s2.pairUp i else s2

/-- A gambit whose window ended without a match is released quietly (R172). -/
def State.releaseGambit (s : State) (i : Nat) : State :=
  (s.onCnt fun c => { c with gambitReleased := c.gambitReleased + 1 }).endCtx i

/-! ### Cancellation and re-run (R197 to R203) -/

/-- The retained samples of a context on its picked branch, by index. -/
def State.ownSamples (s : State) (c : Ctx) : List (Int × (Int × Int)) :=
  ((c.kept.map s.heldIndexed).flatten).map fun x => (x.1, x.2.branch (c.pick == some true))

/-- The rebuild of a passed context (R199, R200). -/
def State.waveOfCtx (s : State) (c : Ctx) : Option Wave :=
  c.hit.bind fun h => c.dm.rebuild s.cfg.active c.lane c.profile h (s.ownSamples c)

/-- Samples given back to their blocks as residual blocks (R201). -/
def giveBack : List Held → List (Int × Quad) → List Held
  | [], _ => []
  | h :: l, xs => { h with res := some ((xs.take h.blk.count).map (·.2)) } :: giveBack l (xs.drop h.blk.count)

/-- A rebuild subtracted from blocks: residual blocks stand in for them (R201). -/
def State.cancelBlocks (s : State) (lane : Nat) (w : Wave) (l : List Held) : List Held :=
  let p := laneP s.cfg.active lane
  let cuts := ((l.map fun h => h.blk.cuts).flatten).map fun t => ((ceilDiv t p : Nat) : Int)
  giveBack l (w.cancel cuts (l.map s.heldIndexed).flatten)

/-- A passed telegram is written out of its target, and the re-run starts or restarts (R201 to R203). The target's posted and unfinished
blocks are retained with the others. The re-run counts from the first catch after the verdict (R211). -/
def State.cancelInto (s : State) (src i : Nat) : State :=
  let c := s.ctx i
  let s0 := (s.each (c.blocks ++ c.tail) fun s h => s.retain i h).onCtx i fun c => { c with blocks := [], tail := [] }
  let k := s0.ctx i
  match s0.waveOfCtx (s.ctx src) with
  | none => s0
  | some w =>
    if k.unretained then s0
    else
      let kept := s0.cancelBlocks c.lane w k.kept
      let s1 := (s0.onCtx i fun c =>
        { c with residual := c.residual + 1, cancelled := true
                 st := if c.isConfirmed then .confirmed else .gambit
                 cls := if c.isConfirmed then 4 else c.cls
                 kept := kept
                 rerun := some { start := s.strokeNow + 1, total := heldSamples kept, done := 0 }
                 bits := [], need := none, endAt := none, syncAt := 0, syncErrs := 0, cntA := 0, cntB := 0
                 qA := -10000, qB := -10000, blinded := false, taken := false
                 dm := match c.hit with | some h => Demod.start s.cfg.active c.lane c.profile h | none => {} }).onCap fun k =>
          { k with cancellations := k.cancellations + 1, rerunsStarted := k.rerunsStarted + 1 }
      let held := c.taken && !c.passed
      (s1.onRx fun r => { r with atEngine := r.atEngine.filter (· != i), streamsOut := if held then r.streamsOut - 1 else r.streamsOut }).issueCtx i

/-- A passed telegram's own retained samples become the input of its sweep, which is ordered (R204, R213). -/
def State.startSweep (s : State) (i : Nat) : State :=
  let c := s.ctx i
  if laneWatchOff s.cfg.active c.lane || c.unretained || c.kept.isEmpty then s
  else match s.waveOfCtx c with
    | none => s
    | some w =>
      let l := s.cancelBlocks c.lane w c.sweepBlocks
      let armed : Watch := { armed := true }
      ((s.onCtx i fun c =>
        { c with kept := l.take c.kept.length, tail := l.drop c.kept.length
                 sweep := some { start := s.strokeNow + 1, total := heldSamples l, done := 0, wa := armed, wb := armed } }).onCap fun k =>
          { k with cancellations := k.cancellations + 1 }).issueCtx i

/-- A telegram has passed: cancellation into every partner that has not passed and holds retained samples; then its own sweep
(R197, R204). What waited to be cancelled from it is dropped. A partner whose own stream is offered keeps it until its verdict. -/
def State.afterPass (s : State) (i : Nat) : State :=
  let c := s.ctx i
  let s1 := s.onCtx i fun c => { c with passed := true, rerun := none, blocks := [], owed := [] }
  let s2 := s1.each c.partners fun s p =>
    let t := s.ctx p.1
    if (findT s.rx.ctxs p.1).isSome && !t.passed && !(t.kept ++ t.blocks).isEmpty && !t.unretained then
      if t.st == .offering then s.onCtx p.1 fun c => { c with owed := c.owed ++ [i] } else s.cancelInto i p.1
    else s
  let s3 := (s2.startSweep i).resolveWaiting c.lane
  (s3.settleCtx i).each c.owed State.settleCtx

/-- A telegram failed or is MALFORMED: cancellations that waited for its verdict are written and it is re-run; else WAITING while a
partner has neither passed nor ended, else the context ends (R197, R203). -/
def State.afterFail (s : State) (i : Nat) : State :=
  let c := s.ctx i
  let s1 := if c.residual != 0 then s.onCap fun k => { k with rerunsFailed := k.rerunsFailed + 1 } else s
  if !c.owed.isEmpty && !c.unretained then
    ((s1.onCtx i fun c => { c with owed := [] }).each c.owed fun s k => s.cancelInto k i).each c.owed State.settleCtx
  else if c.partners.any fun p => (findT s.rx.ctxs p.1).any fun x => !x.passed then
    ((s1.dropTail i).onCtx i fun c => { c with st := .waiting, rerun := none, blocks := [], taken := false, owed := [] }).resolveWaiting c.lane
  else s1.endCtx i

/-! ### Residual sweep (R204 to R206) -/

/-- A sweep ends or is skipped: its tail is released and the context may return to FREE. -/
def State.closeSweep (s : State) (i : Nat) (skipped : Bool) : State :=
  let s1 := if skipped then s.onCnt fun c => { c with sweepSkipped := c.sweepSkipped + 1 }
    else s.onCap fun c => { c with sweepsRun := c.sweepsRun + 1 }
  ((s1.dropTail i).onCtx i fun c => { c with sweep := none }).settleCtx i

/-- A hit that the sweep of a context found: ignored near a context's own hit and where no branch is offered, else counted and handled
as R167 has it (R205, R213). -/
def State.sweepHit (s : State) (src lane : Nat) (h : Hit) : State :=
  let near := (s.laneCtxs lane).any fun e =>
    decide (distance e.2.peak (s.peakTime lane h) ≤ laneSpsCeil s.cfg.active lane * laneP s.cfg.active lane)
  if near || !s.hitOffered lane h then s
  else (s.onCap fun c => { c with sweepHits := c.sweepHits + 1 }).takeHit lane (s.peakTime lane h / strokeLen) h false (some src)

/-- Index of the last sample a sweep looks at: t_end + G + W symbols (R204). -/
def State.sweepLast (s : State) (c : Ctx) : Nat :=
  (c.endAt.getD 0 + symCycles s.cfg.active c.profile (profW s.cfg.active c.profile)) / laneP s.cfg.active c.lane

/-- One sample of a sweep: the watch without rises over both branches, and the hits it reports (R204). -/
def sweepSample (set : List Host.Cell) (lane j : Nat) (w : Watch × Watch × List Hit) (x : Quad) : Watch × Watch × List Hit :=
  let r := watchHits set lane j true (w.1.push set lane false (x.branch false)) (w.2.1.push set lane false (x.branch true))
  (r.1, r.2.1, r.2.2.foldl (fun l h => match mergeHit (laneSpsCeil set lane) h l with | some m => m | none => l ++ [h]) w.2.2)

/-- A block of a sweep up to its last sample. -/
def sweepBlock (set : List Host.Cell) (lane last : Nat) : (j : Nat) → Watch × Watch × List Hit → List Quad → Watch × Watch × List Hit
  | _, w, [] => w
  | j, w, x :: xs => if last < j then w else sweepBlock set lane last (j + 1) (sweepSample set lane j w x) xs

/-- The lane's profile, watched by a sweep (R204). -/
def State.sweepRun (s : State) (i : Nat) : (fuel left : Nat) → List Hit → State × List Hit
  | 0, _, hits => (s, hits)
  | f + 1, left, hits =>
    let c := s.ctx i
    match c.sweep with
    | none => (s, hits)
    | some p =>
      if left == 0 then (s, hits)
      else match c.sweepBlocks[p.pos]? with
        | none => (s, hits)
        | some h =>
          let w := sweepBlock s.cfg.active c.lane (s.sweepLast c) h.blk.jFirst (p.wa, p.wb, hits) (s.heldQuads h)
          let s1 := s.onCtx i fun c => { c with sweep := some { p with wa := w.1, wb := w.2.1, pos := p.pos + 1, done := p.done + h.blk.count } }
          s1.sweepRun i f (left - h.blk.count) w.2.2

/-- A sweep has processed its range (R204, R206). -/
def State.sweepOver (s : State) (c : Ctx) : Bool :=
  c.sweep.any fun p => match (c.sweepBlocks.take p.pos).getLast? with
    | some h => decide (s.sweepLast c < h.blk.jFirst + h.blk.count)
    | none => false

/-- One order of a sweep: at least 1,200 samples, its hits, and its end (R202, R204 to R206). -/
def State.sweepOrder (s : State) (i : Nat) : State :=
  let lane := (s.ctx i).lane
  let r := (s.onCtx i fun c => { c with sweep := c.sweep.map fun p => { p with scull := none } }).sweepRun i 4096 1200 []
  let s1 := r.1.each r.2 fun s h => s.sweepHit i lane h
  if s1.sweepOver (s1.ctx i) then s1.closeSweep i false else s1.issueCtx i

end Sys2Proof.Machine
end

