-- ==== Sys2Proof/Machine/StreamOps.lean ====
section
/-! DEFINITION. Fields of stream groups and channels, and the stall of a group and its end, which SYN_A brings to internal groups too
(R137, R289 to R297, R302). -/

namespace Sys2Proof.Machine

/-- Fields of stream groups and channels. -/
def strExt (set : List Host.Cell) (g : Nat) : Bool := bitOf (setNat set 6 (16 * g) 1) 7
def strDiv (set : List Host.Cell) (g : Nat) : Nat := setNat set 6 (16 * g + 1) 1
def strExtHz (set : List Host.Cell) (g : Nat) : Nat := setNat set 6 (16 * g + 4) 4
def chnEn (set : List Host.Cell) (c : Nat) : Bool := bitOf (setNat set 6 (64 + 16 * c) 1) 7
def chnStages (set : List Host.Cell) (c : Nat) : Nat := bitsOf (setNat set 6 (64 + 16 * c) 1) 0 4
/-- DELAY and POLARITY of a channel (R302). -/
def chnDelay (set : List Host.Cell) (c : Nat) : Nat := bitsOf (setNat set 6 (66 + 16 * c) 2) 0 12
def chnInvert (set : List Host.Cell) (c : Nat) : Bool := bitOf (setNat set 6 (72 + 16 * c) 1) 0
/-- The recipe of the bank that BANK_SEL selects, and SHs (R298, R302, R303). -/
def chnRecipe (set : List Host.Cell) (c : Nat) : Nat :=
  bitsOf (setNat set 6 (65 + 16 * c) 1) (if bitOf (setNat set 6 (64 + 16 * c) 1) 6 then 4 else 0) 4
def chnShift (set : List Host.Cell) (c s : Nat) : Nat := bitsOf (setNat set 6 (68 + 16 * c) 4) (3 * (s - 1)) 3

/-- The enabled channels of a group. -/
def groupChans (set : List Host.Cell) (g : Nat) : List Nat := ((List.range 8).map (8 * g + ·)).filter (chnEn set)

/-- The stage count of a group: that of its first enabled channel. -/
def groupStages (set : List Host.Cell) (g : Nat) : Nat :=
  match groupChans set g with | c :: _ => chnStages set c | [] => 0

/-- Every enabled channel of a group settles for its first 47 samples (R297). -/
def State.settleAll (s : State) (g : Nat) : List Nat :=
  (List.range 8).map fun k => if chnEn s.cfg.active (8 * g + k) then 47 else 0

/-- EV_STREAM_FAULT: kind and rate error (R63, R293). -/
def State.streamFault (s : State) (idx kind : Nat) (ppm : Int) : State := s.raise 0x8006 4 idx (le 1 kind ++ le 3 0 ++ leI 4 ppm)

/-- A group stalls: its clock is gone (R293). -/
def State.stallGroup (s : State) (g : Nat) : State :=
  let s1 := (s.moveGroup g .stalled).onGroup g fun x => { x with stalls := x.stalls + 1, halts := (s.dtime, true) :: x.halts }
  s1.streamFault g 0 (s.group g).ratePpm

/-- A stalled group runs again: at the first edge from now on its decimators restart (R293, R297). -/
def State.resumeGroup (s : State) (g : Nat) : State :=
  let s1 := (s.moveGroup g .running).onGroup g fun x => { x with halts := (s.dtime, false) :: x.halts }
  s1.streamFault g 1 (s.group g).ratePpm

/-- Groups that SYN_A clocks (R291, R293). -/
def State.innerGroups (s : State) (x : GroupSt) : List Nat := [0, 1, 2, 3].filter fun g => s.groupIs g x && !strExt s.cfg.active g

/-- Level of SCKg where the device drives it: in a running internal group it rises at t0 + i × SCK_DIV / 4 and is high for ceil(SCK_DIV / 2)
cycles of 153.6 MHz, elsewhere it is held low (R291, R293, R294). -/
def State.sckLevel (s : State) (g : Nat) : Option Bool :=
  let div := strDiv s.cfg.active g
  if strExt s.cfg.active g then none
  else some (s.groupIs g .running && decide (4 * (s.dtime - (s.group g).t0) % div < (div + 1) / 2))

/-- SYN_A is lost: running internal groups stall; it is locked again: those not dead run (R137, R293). -/
def State.stallInner (s : State) : State := s.each (s.innerGroups .running) State.stallGroup
def State.resumeInner (s : State) : State := s.each ((s.innerGroups .stalled).filter fun g => !(s.group g).dead) State.resumeGroup

end Sys2Proof.Machine
end

