-- ==== Sys2Proof/Machine/Umpire.lean ====
section
/-! DEFINITION. The umpire: local oscillators and reach, the rule card, the frequency and power check, and the duty counters (R90, R246, R261 to R264). -/

namespace Sys2Proof.Machine

/-! ### Local oscillators (R89, R90, R125, R126) -/

/-- Local oscillators of R90 by LO_SEL, for the sub-band of BAND, in Hz. -/
def loL (band sel : Nat) : Nat :=
  if band == 0 then (match sel with | 0 => 166800000 | 1 => 165600000 | 2 => 168000000 | _ => 164400000)
  else (match sel with | 0 => 430800000 | 1 => 429600000 | 2 => 432000000 | _ => 428400000)

/-- Receive LO of a band in a set: LO_HZ of H-A, or BAND and LO_SEL of L-A (R89, R90, R111, R113). -/
def rxLo (set : List Host.Cell) : Band → Nat
  | .h => setNat set 1 4 4
  | .l => loL (bitsOf (setNat set 1 65 1) 0 1) (bitsOf (setNat set 1 65 1) 1 2)

/-- The L sub-band selected (R113): 0 is 169 MHz, 1 is 433 MHz. -/
def lBand (set : List Host.Cell) : Nat := bitsOf (setNat set 1 65 1) 0 1

/-- Output divider of the LO synthesiser of a band (R126). -/
def loDiv (set : List Host.Cell) : Band → Nat
  | .h => 4
  | .l => if lBand set == 0 then 20 else 8

/-- Index of a band among synthesisers, chains and pairs. -/
def bandSyn : Band → Nat
  | .h => 3
  | .l => 4
def bandChain : Band → Nat
  | .h => 0
  | .l => 2
def bandPair : Band → Nat
  | .h => 0
  | .l => 1
def bandCode : Band → Nat
  | .h => 0
  | .l => 1

/-- `f` lies within reach of an LO (R246). -/
def reaches (b : Band) (lo f : Nat) : Bool :=
  match b with
  | .h => lo + 600000 ≤ f && f ≤ lo + 27600000
  | .l => lo + 300000 ≤ f && f ≤ lo + 5700000

/-- The LO a hop uses for `f` (R246). -/
def hopLo (set : List Host.Cell) (b : Band) (f : Nat) : Nat :=
  match b with
  | .h =>
    let n := (f - 3200000) / 1200000
    if n < 720 then 864000000 else if 773 < n then 927600000 else 1200000 * n
  | .l =>
    (([loL (lBand set) 2, loL (lBand set) 0, loL (lBand set) 1, loL (lBand set) 3].find? fun lo => lo + 800000 ≤ f)).getD
      (loL (lBand set) 3)

/-- The LO a transmission at `f` stands at: the LO in use when it reaches `f`, else the one of the hop (R246). -/
def txLo (set : List Host.Cell) (b : Band) (f : Nat) : Nat := if reaches b (rxLo set b) f then rxLo set b else hopLo set b f

/-- `f` can be reached at all (R246). -/
def reachable (set : List Host.Cell) (b : Band) (f : Nat) : Bool := reaches b (txLo set b f) f

/-! ### Rule card (R261, R262) -/

/-- External gain of a band in 0.5 dB (R261). -/
def State.extGain (s : State) (b : Band) : Nat :=
  match s.tx.card with
  | some c => match b with | .h => c.extH | .l => c.extL
  | none => 0

/-- The lowest-numbered range of a band that holds a whole span (R262). -/
def governing (b lo hi : Nat) : (i : Nat) → List Range → Option (Nat × Range)
  | _, [] => none
  | i, r :: rs => if r.band == b && r.fLow ≤ lo && hi ≤ r.fHigh then some (i, r) else governing b lo hi (i + 1) rs

/-- Whole milliseconds are not rounded: `airtime` cycles exceed `max_burst` ms; 0 means no limit (R261, R262). -/
def overBurst (r : Range) (airtime : Nat) : Bool := r.maxBurst != 0 && r.maxBurst * ms < airtime

/-- The umpire's frequency, power and airtime check: the rule index and the reason of a refusal, or the governing range (R262).
`airtime` includes the ramps. -/
def State.umpire (s : State) (b : Band) (f half : Nat) (power : Int) (airtime : Nat) : Except (Nat × Nat) (Nat × Range) :=
  match s.tx.card with
  | none => .error (0xFF, 1)
  | some c =>
    if s.tx.cardBad then .error (0xFF, 1)
    else match governing (bandCode b) (f - half) (f + half) 0 c.ranges with
    | none => .error (0xFF, 1)
    | some (i, r) =>
      if r.ceiling < power + s.extGain b then .error (i, 2)
      else if r.duty == 0 || overBurst r airtime then .error (i, 3)
      else .ok (i, r)

/-! ### Duty counters (R263) -/

/-- Radiated cycles of a range over the last 3,599 whole bins and the current one (R263). -/
def State.dutySum (s : State) (rule : Nat) : Nat :=
  let now := s.tx.dutyBase + s.dtime / sec
  ((getT [] s.tx.duty rule).map fun e => if now < e.1 + 3600 && e.1 ≤ now then e.2 else 0).sum

/-- Radiating `airtime` cycles would exceed the limit duty × 13,824,000 (R263). -/
def State.overDuty (s : State) (rule : Nat) (r : Range) (airtime : Nat) : Bool :=
  decide (r.duty * 13824000 < s.dutySum rule + airtime)

/-- Cycles of the interval from `a` to `b` that lie in second `k`. -/
def overlapSec (a b k : Nat) : Nat := min b ((k + 1) * sec) - max a (k * sec)

/-- Radiated time from `a` to `b` is added to the bins of a range; bins older than an hour are forgotten (R263). -/
def State.addDuty (s : State) (rule a b : Nat) : State :=
  let ks := (List.range (b / sec - a / sec + 1)).map fun i => a / sec + i
  let base := s.tx.dutyBase
  let old := (getT [] s.tx.duty rule).filter fun e => decide (base + b / sec < e.1 + 3600)
  let new := ks.foldl (fun l k => if overlapSec a b k == 0 then l else putT l (base + k) (getT 0 l (base + k) + overlapSec a b k)) old
  s.onTx fun t => { t with duty := putT t.duty rule new }

/-- EV_UMPIRE_DENY (R264). -/
def State.umpireDeny (s : State) (tag rule reason : Nat) : State :=
  s.pushEvent 0x8007 0 0 0 (le 2 tag ++ le 1 rule ++ le 1 reason)

/-- Frequency of a tuner probe: the centre of the wanted window on H, of the sub-band on L (R98). -/
def probeFreq (set : List Host.Cell) : Band → Nat
  | .h => rxLo set .h + 15200000
  | .l => if lBand set == 0 then 169600000 else 433920000

/-- The umpire's decision on a tuner probe or a power-amplifier item (R262): checked once, at the lowest power, with the duty limit. -/
def State.probeRefused (s : State) (b : Band) (airtime : Nat) : Option (Nat × Nat) :=
  match s.umpire b (probeFreq s.cfg.active b) 25000 (match b with | .h => -40 | .l => -20) airtime with
  | .error e => some e
  | .ok (i, r) => if s.overDuty i r airtime then some (i, 3) else none

end Sys2Proof.Machine
end

