-- ==== Sys2Proof/Machine/TrimOps.lean ====
section
/-! DEFINITION. Trim items: their order, when one can run, its start, its end and the items that follow (R409 to R418). -/

namespace Sys2Proof.Machine

/-- The three receive items of a chain in their order (R412). -/
def rxItems (c : Nat) : List Nat := [0x0300 + c, 0x0200 + c, 0x0100 + c]

/-- A full trim in its order (R412). -/
def fullTrim : List Nat :=
  rxItems 0 ++ rxItems 1 ++ rxItems 2 ++ rxItems 3 ++ rxItems 4 ++ [0x0400, 0x0401, 0x0500, 0x0501, 0x0600]

/-- Items of a TRIM_RUN (R413). -/
def trimScope (scope mask : Nat) : List Nat :=
  match scope with
  | 0 => fullTrim
  | 1 => ((List.range 5).map fun c => if bitOf mask c then rxItems c else []).flatten
      ++ (if bitOf mask 0 then [0x0400] else []) ++ (if bitOf mask 2 then [0x0401] else [])
  | _ => [0x0500, 0x0501]

/-- The synthesiser of a chain: SYN_H, SYN_L, or none for chain B (R88, R102). -/
def chainSyn (c : Nat) : Option Nat := if c < 2 then some 3 else if c < 4 then some 4 else none

/-- A band's transmitter is radiating or about to (R414). -/
def State.radiating (s : State) (b : Band) : Bool :=
  match (s.txb b).phase with
  | .idle => false
  | .transition _ => false
  | _ => true

/-- The unit of an item can be measured (R414). -/
def State.trimCan (s : State) (code : Nat) : Bool :=
  match code / 256 with
  | 1 | 2 | 3 =>
    let c := code % 256
    (s.chainIs c .synth || s.chainIs c .receive)
      && (match chainSyn c with
          | some y => s.synIs y .locked
          | none => code / 256 != 1 || (s.bc.vhf.freq != 0 && s.synIs 5 .locked))
  | 4 | 5 =>
    let b := if code % 256 == 0 then Band.h else Band.l
    (s.chainIs (bandChain b) .synth || s.chainIs (bandChain b) .receive) && !s.radiating b
  | _ => s.tdmIs .stopped

/-- TUNER_MODE 1 keeps the tuner search from running (R98). -/
def State.tunerFixed (s : State) (u : Nat) : Bool := bitOf (s.cfgNat 1 (64 * u + 2) 2) 11

/-- The progress step that the end of an item makes in TRIM_RUN (R413), and its share of failed items. -/
def State.trimStep (s : State) (ofRun failed : Bool) : State :=
  if !ofRun then s
  else match s.trim.run with
    | none => s
    | some (tag, bad) =>
      let t := s.outstanding tag
      let done := match t with | some e => e.done + 1 | none => 1
      let total := match t with | some e => e.total | none => 1
      (s.progress tag done total).onTrim fun r => { r with run := some (tag, if failed then bad + 1 else bad) }

/-- An item that failed without a measurement is counted: in the ledger, and for the interval when it was automatic (R410, R416, R424, R429). -/
def State.trimLost (s : State) (ofRun : Bool) : State :=
  (s.onTrim fun r => { r with anyFail := r.anyFail || !ofRun, ledger := { r.ledger with trimFails := r.ledger.trimFails + 1 } }).trimStep ofRun true

/-- An item leaves the head of the queue without having run. -/
def State.trimSkip (s : State) (code : Nat) (ofRun failed mark : Bool) : State :=
  let s1 := s.onTrim fun r =>
    { r with queue := r.queue.drop 1, marked := if mark && !r.marked.contains code then r.marked ++ [code] else r.marked }
  if failed then s1.trimLost ofRun else s1.trimStep ofRun false

/-- The next item of the queue starts, those before it that cannot run being marked or skipped (R98, R410, R412, R414). -/
def State.trimNext (s : State) : (fuel : Nat) → State
  | 0 => s
  | f + 1 =>
    if s.trim.now.isSome then s
    else match s.trim.queue with
      | [] => s
      | (code, ofRun) :: rest =>
        let u := code % 256
        let b := if u == 0 then Band.h else Band.l
        if code / 256 == 4 && s.tunerFixed u then (s.trimSkip code ofRun false false).trimNext f
        else if !s.trimCan code then (s.trimSkip code ofRun false true).trimNext f
        else
          let refused := if code / 256 == 4 then s.probeRefused b 57600
            else if code / 256 == 5 then s.probeRefused b 921600 else none
          match refused with
          | some (rule, why) => ((s.umpireDeny 0 rule why).trimSkip code ofRun true false).trimNext f
          | none =>
            (s.onTrim fun r =>
              { r with queue := rest, now := some { code := code, started := s.dtime, paused := none, ofRun := ofRun, steps := s.dtime }
                       marked := r.marked.filter (· != code) }).followAll

/-- A blanking of a band's pair has ended; those of the last 4,160 strokes are kept for BLINDED (R110, R210, R415). -/
def State.noteBlank (s : State) (b : Band) (t0 t1 : Nat) : State :=
  s.onTxb b fun t => { t with lastBlank := some (t0, t1), blanks := ((t0, t1) :: t.blanks).filter fun e => decide (s.dtime ≤ e.2 + 4160 * strokeLen) }

/-- Drive time of a power-amplifier item and of a tuner probe, as far as it was used, counts in the duty counters; of a power-amplifier item
that ends early the drive is taken to come first (R98, R262, R410; log 172). -/
def State.trimDuty (s : State) (n : TrimNow) : State :=
  let b : Band := if n.code % 256 == 0 then .h else .l
  let time := if n.code / 256 == 4 then 57600 else 921600
  if n.code / 256 != 4 && n.code / 256 != 5 then s
  else match s.umpire b (probeFreq s.cfg.active b) 25000 (match b with | .h => -40 | .l => -20) time with
    | .ok (i, _) => s.addDuty i n.started (min (n.started + time) (max n.started (n.paused.getD s.dtime)))
    | .error _ => s

/-- The blanking of an item that ends counts for the contexts of its pair (R415). -/
def State.trimBlank (s : State) (n : TrimNow) (till : Nat) : State :=
  match trimChain n.code with
  | some c => if c < 4 then s.noteBlank (pairBand (c / 2)) n.started till else s
  | none => s

/-- The item in progress ends early with its old values kept, counted as failed without EV_TRIM_FAIL; its lanes may run (R415, R416). -/
def State.trimAbort (s : State) : State :=
  match s.trim.now with
  | none => s
  | some n =>
    (((((s.onTrim fun r => { r with now := none }).trimDuty n).trimBlank n s.dtime).trimLost n.ofRun).trimNext 32).followAll

/-- An item of a chain is in progress (R105). -/
def State.trimOn (s : State) (chain : Nat) : Bool := s.trim.now.any fun n => trimChain n.code == some chain

/-- Trim on a chain ends: its item in progress and its items still to run count as failed (R138). -/
def State.trimLoseChain (s : State) (chain : Nat) : State :=
  let mine (code : Nat) : Bool := trimChain code == some chain
  let lost := s.trim.queue.filter fun q => mine q.1
  let s1 := (s.onTrim fun r => { r with queue := r.queue.filter fun q => !mine q.1 }).each lost fun s q => s.trimLost q.2
  if s.trimOn chain then s1.trimAbort else s1

/-- The trim of a chain in trim ends (R105). -/
def State.trimEndChain (s : State) (chain : Nat) : State := if s.trimOn chain then s.trimLoseChain chain else s

/-- The end of the step of the item in progress at an instant: steps take 40 µs each, the most that R412 allows, from its start or its last
resumption on (R251, R412; log 172). -/
def TrimNow.stepEnd (n : TrimNow) (t : Nat) : Nat := n.steps + ceilDiv (t - n.steps) 1536 * 1536

/-- A transmission pauses the item on its chain at the present instant (R251, R417). -/
def State.trimPause (s : State) (chain : Nat) : State :=
  let f (n : TrimNow) : TrimNow := if trimChain n.code == some chain && n.paused.isNone then { n with paused := some s.dtime } else n
  s.onTrim fun r => { r with now := r.now.map f }

/-- The paused item resumes; the pause does not count towards the progress limit of TRIM_RUN (R251, R417). -/
def State.trimResume (s : State) (chain : Nat) : State :=
  match s.trim.now with
  | none => s
  | some n =>
    if trimChain n.code != some chain then s
    else
      let d := match n.paused with | some t => s.dtime - t | none => 0
      let tag := match s.trim.run with | some r => r.1 | none => 0
      (s.onTrim fun r => { r with now := some { n with paused := none, steps := s.dtime } }).onLinks fun l =>
        { l with tags := l.tags.map fun t => if t.tag == tag && t.opcode == 0x0080 then { t with stepAt := t.stepAt + d } else t }

/-- Longest duration of an item in ms (R409); of a tuner item, rounded up. -/
def trimMs (code : Nat) : Nat :=
  match code / 256 with
  | 3 => 20 | 2 => 160 | 1 => if code % 256 == 4 then 120 else 180 | 4 => 2 | 5 => 300 | _ => 20

/-- An item that starts now could meet a window of a predicting entry last heard on a lane of a pair (R233, R418). -/
def State.meetsWindow (s : State) (pair d : Nat) : Bool :=
  s.dir.entries.any fun e =>
    e.2.has fInUse && e.2.has fPredicting && lanePair s.cfg.active (e.2.lastSrc.toNat % 512) == pair
      && decide (e.2.window - e.2.halfWidth ≤ s.dtime + d) && decide (s.dtime ≤ e.2.window + e.2.halfWidth)

/-- TRIM_DEFER in cycles; 0 selects 4,000 strokes (R419). -/
def State.trimDefer (s : State) : Nat := (let n := s.cfgNat 11 4 2; if n == 0 then 4000 else n) * strokeLen

/-- An automatic item need wait no longer: it is no receive item, it clears every window, or its delay has passed (R418). -/
def State.trimClear (s : State) (w : Nat × Nat) : Bool :=
  4 ≤ w.1 / 256 || w.1 % 256 == 4 || decide (w.2 + s.trimDefer ≤ s.dtime) || !s.meetsWindow (w.1 % 256 / 2) (trimMs w.1 * ms)

/-- The automatic items that may run join the queue, in ROW or PADDLE (R418). -/
def State.trimServe (s : State) : State :=
  if !(s.pwr.st == .row || s.pwr.st == .paddle) || s.pwr.entering.isSome then s
  else
    let go := s.trim.waiting.filter s.trimClear
    (s.onTrim fun r => { r with waiting := r.waiting.filter (fun w => !s.trimClear w), queue := r.queue ++ go.map fun w => (w.1, false) }).trimNext 32

/-- Automatic items fall due, each once; none while AUTO_OFF is set, but at boot (R418, R419). -/
def State.trimAuto (s : State) (codes : List Nat) (boot : Bool) : State :=
  if !boot && s.cfgBit 11 0 7 then s
  else
    let fresh := codes.filter fun c =>
      !(s.trim.queue.any fun q => q.1 == c) && !(s.trim.now.any fun n => n.code == c) && !(s.trim.waiting.any fun w => w.1 == c)
    (s.onTrim fun r => { r with waiting := r.waiting ++ fresh.map fun c => (c, s.dtime) }).trimServe

/-- TRIM_DT in 1/16 °C; 0 selects 15 °C (R419). -/
def State.trimDt (s : State) : Nat := (let n := s.cfgNat 11 1 1; if n == 0 then 15 else n) * 16

/-- The interval between automatic runs: TRIM_INT, else the planned one (R419, R424). -/
def State.trimInterval (s : State) : Nat := (let n := s.cfgNat 11 2 2; if n == 0 then s.trim.ledger.interval else n) * 3600 * sec

/-- The items that temperature or the interval makes due at a catch (R418). -/
def State.trimDue (s : State) : List Nat :=
  (s.trim.passed.filter fun p =>
    decide (s.trimDt ≤ (s.trim.dieTemp - p.2.2).natAbs) || decide (p.2.1 + s.trimInterval ≤ s.dtime)).map (·.1)

/-- An hour in reference cycles. -/
def hourLen : Nat := 3600 * sec

/-- The acceleration factor of an hour in 2^-32, from sums of `n` die temperatures in 1/16 °C and VDD_CORE values in mV; with the constants
8,123 K, 358.15 K and 0.75 V (R428). -/
def ageFactor (temps volts n : Int) : Nat :=
  let k := 437040 * n + 100 * temps
  let a := Int.fdiv (8123 * 100 * unit60) 35815 - Int.fdiv (8123 * 1600 * n * unit60) k
  let b := Int.fdiv ((volts - 750 * n) * unit60) (100 * n)
  (Int.fdiv (mul60 (exp60 a) (exp60 b)) 268435456).toNat

/-- Service counts on to an instant: the whole hours that have passed are closed, each with the means of the catches since the last one, or
with the values of the present catch where there was none (R428; log 26). -/
def Service.count (v : Service) (now : Nat) (temp mv : Int) : Service :=
  let v1 := { v with temps := v.temps + temp, volts := v.volts + mv, n := v.n + 1 }
  let k := (now - v.from_) / hourLen
  if k == 0 then v1
  else { from_ := v.from_ + k * hourLen, hours := v.hours + k, equiv := v.equiv + k * ageFactor v1.temps v1.volts v1.n }

/-- Service at a catch (R428). -/
def State.catchService (s : State) : State := s.onTrim fun t => { t with service := t.service.count s.dtime t.dieTemp s.pwr.coreMv }

/-- Automatic trim at a catch (R418). -/
def State.catchTrim (s : State) : State := (s.trimAuto s.trimDue false).trimServe

end Sys2Proof.Machine
end

