-- ==== Sys2Proof/Machine/Radio.lean ====
section
/-! DEFINITION. Chains, synthesisers and the transmitter's course: transitions, locks, loss of lock, ramps and blanking
(R88 to R139, R243 to R265). -/

namespace Sys2Proof.Machine

/-! ### Gain steps and tuner codes (R93 to R99) -/

/-- Entry of section CHAINS that governs a gain path (R93, R111). -/
def pathChain (p : Nat) : Nat := if p < 4 then p else 4

/-- A gain step is set and logged (R95). -/
def State.setStep (s : State) (p g : Nat) : State :=
  s.onGain p fun x => if x.g == g then x else { x with g := g, log := (s.dtime, x.g, g) :: x.log }

/-- In fixed mode g equals FIXED_STEP (R94). -/
def State.fixGains (s : State) : State :=
  s.each [0, 1, 2, 3, 4, 5] fun s p =>
    if s.cfgBit 1 (32 * pathChain p + 8) 0 then s.setStep p (s.cfgNat 1 (32 * pathChain p + 9) 1) else s

/-- The tuner of branch A of a pair takes two codes at a catch (R96, R99). -/
def State.setTuner (s : State) (pair series shunt : Nat) : State :=
  let c := s.chain (2 * pair)
  if c.series == series && c.shunt == shunt then s
  else (s.onChain (2 * pair) fun c => { c with series := series, shunt := shunt }).cutLanes pair

/-- With TUNER_MODE 1 the codes of the configuration are applied (R98, R114). -/
def State.fixTuners (s : State) : State :=
  s.each [0, 1] fun s u =>
    if s.tunerFixed u then s.setTuner u (bitsOf (s.cfgNat 1 (64 * u + 2) 2) 0 5) (bitsOf (s.cfgNat 1 (64 * u + 2) 2) 5 5) else s

/-- A return loss is measured: the chain and the margin ledger hold it with its DTIME (R97, R429). -/
def State.noteLoss (s : State) (u v : Nat) : State :=
  (s.onChain (2 * u) fun c => { c with rl := v, rlAt := s.dtime }).onTrim fun t =>
    { t with ledger := { t.ledger with rl := setAt (v, s.dtime) t.ledger.rl u } }

/-! ### Band cache (R128, R129) -/

/-- An entry of the band cache is valid within 20 °C of its temperature (R129). -/
def validEntry (temp : Int) (e : BandEntry) : Bool := decide ((e.temp - temp).natAbs ≤ 320)

/-- The valid entry of a synthesiser for a key (R129). -/
def State.cachedBand (s : State) (y n d : Nat) : Option BandEntry :=
  (s.synth y).cache.find? fun e => e.n == n && e.d == d && validEntry s.trim.dieTemp e

/-- A band is used for the present key: its entry is the most recently used one, and the least recently used of 257 goes (R129). -/
def State.useEntry (s : State) (y : Nat) (e : BandEntry) : State :=
  s.onSynth y fun x => { x with band := e.band, cache := (e :: x.cache.filter fun o => !(o.n == x.n && o.d == x.d)).take 256 }

/-- A lock takes its band: from the cache where its entry is the one in use, else as a search found it, which enters it at the die
temperature of the search (R128, R129). -/
def State.rememberBand (s : State) (y : Nat) (band : BitVec 6) (margin : Nat) : State :=
  let x := s.synth y
  match (if x.cached then s.cachedBand y x.n x.d else none) with
  | some e => s.useEntry y e
  | none => s.useEntry y { n := x.n, d := x.d, band := band, temp := s.trim.dieTemp, margin := margin }

/-- The entry of the present key is invalidated (R129). -/
def State.forgetBand (s : State) (y : Nat) : State :=
  s.onSynth y fun x => { x with cache := x.cache.filter fun e => !(e.n == x.n && e.d == x.d) }

/-! ### Starting and stopping the synthesisers (R102, R104, R125, R139) -/

/-- A synthesiser aims at N and D: with the cached band where an entry is valid, else by a band search; a lock out of LOST is a band
search in every case (R128, R139). -/
def State.aimSyn (s : State) (y n d : Nat) : State :=
  let lost := s.synIs y .lost
  s.onSynth y fun x => { x with n := n, d := d, cached := !lost && (s.cachedBand y n d).isSome, fromLost := lost }

/-- A synthesiser starts towards lock at N and D. -/
def State.startSyn (s : State) (y n d : Nat) : State :=
  ((s.aimSyn y n d).onSynth y fun x => { x with attempt := 0, planned := false }).moveSyn y .search

/-- A locked synthesiser hops to another N and D (R103, R107, R246). -/
def State.hopSyn (s : State) (y n d : Nat) : State :=
  ((s.aimSyn y n d).onSynth y fun x => { x with planned := true }).moveSyn y .search

/-- The band of a pair's synthesiser. -/
def pairOfBand (pair : Nat) : Band := if pair == 0 then .h else .l

/-- N of an LO: multiples of 1.2 MHz (R125). -/
def loN (lo : Nat) : Nat := lo / 1200000

/-- N of SYN_V for a programme (R92). -/
def vhfN (f : Nat) : Nat := ceilDiv (f - 1500000) 1200000

/-- The synthesiser that a transition of a chain to SYNTH waits for: that of its pair, or a lost SYN_V for chain B with the VHF
path tuned (R102, R139). -/
def State.synFor (s : State) (chain : Nat) : Option Nat :=
  match chainSyn chain with
  | some y => some y
  | none => if chain == 4 && s.bc.vhf.freq != 0 && (s.synIs 5 .lost || s.synIs 5 .search) then some 5 else none

/-- The synthesisers that a chain needs: SYN_A, which clocks its converters, that of its pair, and SYN_V for chain B with the VHF path
tuned (R138, R139). -/
def State.synsOf (s : State) (chain : Nat) : List Nat :=
  match chainSyn chain with
  | some y => [1, y]
  | none => if s.bc.vhf.freq != 0 then [1, 5] else [1]

/-- A synthesiser that is off or lost starts towards the lock that a chain needs (R102, R104, R139). -/
def State.wantSyn (s : State) (chain y : Nat) : State :=
  if !(s.synIs y .lost || (s.synIs y .off && y != 1)) then s
  else if y == 1 then s.startSyn 1 4 24
  else if y == 5 then s.startSyn 5 (vhfN s.bc.vhf.freq) 40
  else s.startSyn y (loN (rxLo s.cfg.active (pairOfBand (chain / 2)))) (loDiv s.cfg.active (pairOfBand (chain / 2)))

/-- The synthesisers that a chain needs on its way to SYNTH start when they are off or lost (R104, R139). -/
def State.needSyn (s : State) (chain : Nat) : State :=
  let s1 := s.wantSyn chain 1
  match s1.synFor chain with
  | none => s1
  | some y => s1.wantSyn chain y

/-- Height of a state among SLEEP, STANDBY, SYNTH, RECEIVE; FAULT is powered as STANDBY (R102). -/
def ChainSt.level : ChainSt → Nat
  | .sleep => 0 | .standby => 1 | .fault => 1 | .synth => 2 | .receive => 3 | .transmit => 4

/-- The synthesiser of a pair turns off when both chains are in STANDBY or lower and no transmission uses it (R104). -/
def State.idleSyn (s : State) (chain : Nat) : State :=
  match chainSyn chain with
  | none => s
  | some y =>
    let p := chain / 2
    let low (i : Nat) : Bool := (s.chainSt i).level ≤ 1 && (s.chain i).toward != some .synth
    if low (2 * p) && low (2 * p + 1) && (s.txb (pairOfBand p)).phase == .idle && (s.synth y).attempt == 0 && !s.synIs y .lost then
      (s.moveSyn y .off).onSynth y fun x => { x with planned := false }
    else s

/-! ### Transitions of a chain (R103, R105) -/

/-- The state next on the way from one state to another (R103). -/
def stepToward (cur target : ChainSt) : ChainSt :=
  match cur, target with
  | .fault, _ => .sleep
  | .transmit, .receive => .receive
  | .transmit, _ => .synth
  | .sleep, _ => .standby
  | .standby, .sleep => .sleep
  | .standby, _ => .synth
  | .synth, .receive => .receive
  | .synth, .transmit => .transmit
  | .synth, _ => .standby
  | .receive, .transmit => .transmit
  | .receive, _ => .synth

/-- A transition towards a state begins; nothing when the chain is there. -/
def State.goChain (s : State) (i : Nat) (target : ChainSt) : State :=
  let cur := s.chainSt i
  if cur == target then s.onChain i fun c => { c with target := none, toward := none }
  else
    let next := stepToward cur target
    let s1 := s.onChain i fun c => { c with target := some target, toward := some next }
    if next == .synth && cur == .standby then s1.needSyn i else s1

/-- The CHAIN_STATE report: chain, state, generation, DTIME of entry, after the comparison of R86 (R46, R85). -/
def State.chainReport (s : State) (i : Nat) : Bytes :=
  le 1 i ++ le 1 (s.chain i).w.st ++ le 1 (s.chain i).w.gen.toNat ++ le 1 0 ++ le 8 (s.chain i).entered

/-- A CHAIN_STATE on a chain waits: a synthesiser that it needs is relocking, or locking out of LOST for it (R138, R139). -/
def State.chainHeld (s : State) (i : Nat) : Bool :=
  (s.synsOf i).any fun y => (s.synth y).attempt != 0 || ((s.synth y).fromLost && s.synIs y .search)

/-- The first CHAIN_STATE that waits on a chain ends with the chain's report (R41, R105). -/
def State.answerChain (s : State) (i : Nat) (st : Status) : State :=
  match (s.chain i).waits with
  | [] => s
  | (tag, _) :: rest =>
    let s1 := (s.onChain i fun c => { c with waits := rest }).audit 1 i
    s1.finish tag st (s1.chainReport i)

/-- Waiting CHAIN_STATE commands are answered, a query as soon as no request stands before it, or the next one's transition begins, when nothing
holds them up. A request for SYNTH or
RECEIVE on a chain that is there starts every lost synthesiser it needs first (R41, R105, R138, R139). -/
def State.serveChain (s : State) (i : Nat) : (fuel : Nat) → State
  | 0 => s
  | f + 1 =>
    match (s.chain i).waits with
    | [] => s
    | (_, none) :: _ => (s.answerChain i .ok).serveChain i f
    | (_, some st) :: _ =>
      if (s.chain i).target.isSome || s.chainIs i .transmit || s.chainHeld i then s
      else
        let lost := (s.synsOf i).filter fun y => s.synIs y .lost
        if 2 ≤ (s.chainSt i).level && (st == .synth || st == .receive) && !lost.isEmpty then s.each lost fun s y => s.wantSyn i y
        else if s.chainSt i == st then (s.answerChain i .ok).serveChain i f
        else if s.chainIs i .fault && st != .sleep then (s.answerChain i .hwFault).serveChain i f
        else s.goChain i st

/-- A chain enters FAULT (R105, R106). -/
def State.faultChain (s : State) (i : Nat) : State :=
  let was := s.chainSt i
  let s1 := (s.moveChain i .fault).onChain i fun c => { c with target := none, toward := none, former := none }
  let s2 := if was == .receive then s1.branchLost i else s1
  (s2.idleSyn i).serveChain i 16

/-- A chain that left a higher state: its branch is lost and its synthesiser may turn off. -/
def State.afterDrop (s : State) (i : Nat) (was : ChainSt) : State :=
  let s1 := if was == .receive then s.branchLost i else s
  s1.idleSyn i

/-- A lock is confirmed on a synthesiser (R127, R133, R136). -/
def State.lockSyn (s : State) (y : Nat) : State :=
  (s.moveSyn y .locked).onSynth y fun x => { x with attempt := 0, planned := false, research := false, cached := false, fromLost := false }

/-- A lock whose search brings no operand: the band it finds and its margin are open values (R128; log 129). -/
def State.lockOwn (s : State) (y : Nat) : State :=
  ((s.draw).rememberBand y (Config.searchBand s.fresh) (Config.searchMargin s.fresh)).lockSyn y

/-- Receive items due when a chain enters RECEIVE for the first time, or marked under R414 (R418). -/
def State.firstReceive (s : State) (i : Nat) : State :=
  let due := (rxItems i).filter fun c => !(s.chain i).seenRx || s.trim.marked.contains c
  (s.onChain i fun c => { c with seenRx := true }).trimAuto due false

/-- The synthesiser of a band goes to the LO of a transmission when it stands elsewhere (R246). -/
def State.tuneTx (s : State) (b : Band) (f : Nat) : State :=
  let y := bandSyn b
  let set := s.cfg.active
  let lo := txLo set b f
  let s1 := if lo == rxLo set b then s else s.onTxb b fun t => { t with hopLo := some lo }
  if s.synIs y .locked && (s.synth y).n != loN lo then s1.hopSyn y (loN lo) (loDiv set b) else s1

/-- The item that a branch A on its way to TRANSMIT goes there for. -/
def State.movingItem (s : State) (i : Nat) : Option (Band × TxItem) :=
  let b : Band := if i == 0 then .h else .l
  if (i == 0 || i == 2) && (s.chain i).target == some .transmit then (s.txb b).item.map fun x => (b, x) else none

/-- The state on the way is entered, and the next step or the next command follows (R103). -/
def State.enterChain (s : State) (i : Nat) (st : ChainSt) : State :=
  let c := s.chain i
  let was := s.chainSt i
  let done := c.target == some st
  let s1 := (s.moveChain i st).onChain i fun c =>
    { c with target := if done then none else c.target, toward := none, former := if done && st != .transmit then none else c.former }
  let s2 := if st.level < was.level then s1.afterDrop i was else s1
  let s3 := if st == .receive then (s2.firstReceive i) else s2
  let s4 := if done then s3 else match c.target with | some t => s3.goChain i t | none => s3
  let s4 := match (if st == .synth then s4.movingItem i else none) with | some (b, x) => s4.tuneTx b x.freq | none => s4
  (if i < 4 then s4.followLanes (i / 2) else s4).serveChain i 16

/-- A lock that a chain's request needed failed: the synthesiser is LOST and the request ends with HW_FAULT (R139). -/
def State.lockFailed (s : State) (i y : Nat) : State :=
  let s1 := ((s.moveSyn y .lost).onSynth y fun x => { x with cached := false, fromLost := false }).onChain i fun c =>
    { c with target := none, toward := none, former := none }
  (s1.answerChain i .hwFault).serveChain i 16

/-- A chain waits for a lock of a synthesiser: on its way to SYNTH, or to answer a request on a chain that is there (R139). -/
def State.needsLock (s : State) (i y : Nat) : Bool :=
  ((s.chain i).toward == some .synth && (y == 1 || s.synFor i == some y))
    || ((s.chain i).target.isNone && 2 ≤ (s.chainSt i).level && (s.synsOf i).contains y
        && (match (s.chain i).waits with | (_, some st) :: _ => st == .synth || st == .receive | _ => false))

/-- The search of a new lock failed: every request that needed it ends with HW_FAULT and the synthesiser stays in LOST (R139). -/
def State.newLockFailed (s : State) (y : Nat) : State :=
  let l := [0, 1, 2, 3, 4].filter fun i => s.needsLock i y
  let s1 := (s.moveSyn y .lost).onSynth y fun x => { x with cached := false, fromLost := false }
  let s2 := s1.each l fun t i => t.lockFailed i y
  if y != 5 then s2
  else match s2.bc.vhf.tuning with
    | none => s2
    | some tag => (s2.onBc fun b => { b with vhf := { b.vhf with tuning := none, stopped := true } }).finish tag .hwFault []

/-- Chains take up what waited for a lock (R138, R139). -/
def State.serveChains (s : State) : State := s.each [0, 1, 2, 3, 4] fun s i => s.serveChain i 16

/-- A chain that goes from STANDBY to SYNTH waits for the lock of a synthesiser: it is relocking, or locked, or it locks now; a cached
band that fails leaves the search to go on (R102, R128, R129, R139). The answer is none where the step has not been made. -/
def State.stepLock (s : State) (y : Nat) (ok : Bool) : Option State :=
  if (s.synth y).attempt != 0 then none
  else if s.synIs y .locked then some s
  else if ok then some (s.lockOwn y)
  else none

/-- The lock that a chain's step needed did not come: the cached band is given up, or the request ends (R129, R139). -/
def State.stepLockFailed (s : State) (i y : Nat) (ok : Bool) : State :=
  if ok || (s.synth y).attempt != 0 || s.synIs y .locked then s
  else if (s.synth y).cached then (s.forgetBand y).onSynth y fun x => { x with cached := false }
  else s.lockFailed i y

/-- Level of PAX_x_EN: from 30 µs before the first symbol on, where the rule card declares an amplifier (R252, R260; log 176). -/
def State.paxEnLevel (s : State) (b : Band) : Bool :=
  match (s.txb b).phase with
  | .transition t0 => s.extGain b != 0 && decide (t0 ≤ s.dtime + 1152)
  | _ => (s.txb b).paxEn

/-- The transmitter leaves its run: the amplifier lines release, and the synthesiser hops back from where it stands or is bound
(R246, R250, R252). -/
def State.dropRun (s : State) (b : Band) : State :=
  let y := bandSyn b
  let s1 := s.onTxb b fun t => { t with phase := .idle, item := none, downAt := some (t.downAt.getD s.dtime), hopLo := none, reduced := false
                                        paxEn := false, paxTr := false }
  if (s.txb b).hopLo.isSome && (s1.synIs y .locked || (s1.synth y).planned) then s1.hopSyn y (loN (rxLo s.cfg.active b)) (loDiv s.cfg.active b)
  else s1

/-- An item in transition goes back to the head of its queue, and the run ends, when branch A leaves its way to TRANSMIT before the
ramp-up (R106, R137, R248). -/
def State.requeue (s : State) (b : Band) : State :=
  match (s.txb b).phase, (s.txb b).item with
  | .transition _, some x => (s.dropRun b).onTxb b fun t => { t with queue := x :: t.queue }
  | .idleTx, _ => s.dropRun b
  | _, _ => s

/-- A chain goes into FAULT; one that was on its way to TRANSMIT leaves its item to the queue (R106, R248). -/
def State.faultMoving (s : State) (i : Nat) : State :=
  match s.movingItem i with
  | some (b, _) => (s.requeue b).faultChain i
  | none => s.faultChain i

/-- The step in progress of a chain's transition completes (R103, R106, R139). -/
def State.chainStep (s : State) (i : Nat) (ok : Bool) : State :=
  match (s.chain i).toward with
  | none => s
  | some st =>
    let was := s.chainSt i
    if st == .standby && was == .sleep && s.pwr.rfBad then s.faultMoving i
    else if st == .receive && !ok then s.faultChain i
    else if st == .synth && was == .standby then
      let a := s.synIs 1 .search && (s.synth 1).attempt == 0
      match s.synFor i with
      | none =>
        if !a then s.enterChain i st
        else match s.stepLock 1 ok with
          | some s1 => s1.enterChain i st
          | none => s.stepLockFailed i 1 ok
      | some y =>
        match s.stepLock y ok with
        | some s1 => (if a then s1.lockOwn 1 else s1).enterChain i st
        | none => s.stepLockFailed i y ok
    else s.enterChain i st

/-! ### Lead time (R249) -/

/-- Microseconds in reference cycles, rounded up. -/
def usCeil (us : Nat) : Nat := ceilDiv (us * 192) 5

/-- An item of trim is in progress on branch A of a band, and not paused (R249, R251). -/
def State.trimHolds (s : State) (b : Band) : Bool := s.trim.now.any fun n => trimChain n.code == some (bandChain b) && n.paused.isNone

/-- The terms of the lead time of an item in µs, from the state that branch A holds, without that of trim (R249). -/
def State.leadUs (s : State) (b : Band) (x : TxItem) : Nat :=
  let i := bandChain b
  let y := bandSyn b
  let set := s.cfg.active
  let lock (lo : Nat) (hit : Nat) : Nat := if (s.cachedBand y (loN lo) (loDiv set b)).isSome then hit else 210
  let hop := if txLo set b x.freq == rxLo set b then 0 else lock (txLo set b x.freq) 30
  let stand := lock (rxLo set b) 45
  let base := match s.chainSt i with
    | .sleep => 310 + stand + 32
    | .standby => stand + 32
    | .fault => stand + 32
    | .synth => 32
    | .transmit => 32
    | .receive => 52
  base + hop

/-- The lead time of an item in reference cycles (R249). -/
def State.leadTime (s : State) (b : Band) (x : TxItem) : Nat := usCeil (s.leadUs b x + if s.trimHolds b then 40 else 0)

/-! ### Transmitter (R243, R248 to R252) -/

/-- Symbols of channel bits, in thirds of the outer level (R180, R243). -/
def symbolsOf (set : List Host.Cell) (p : Nat) : (fuel : Nat) → List Bool → List Int
  | 0, _ => []
  | f + 1, l => if l.isEmpty then [] else levelOfBits set p (l.take (profBps set p)) :: symbolsOf set p f (l.drop (profBps set p))

/-- Outer levels of `n` symbols of the preamble pattern from place `k` on (R184, R243; log 168). -/
def patternFrom (set : List Host.Cell) (p k n : Nat) : List Int :=
  (List.range n).map fun j =>
    3 * (if !profPat2 set p && Config.preambleLow then -1 else 1) * patSign (profPat2 set p) (((k + j : Nat)) : Int)

/-- The symbols of a transmission in the order sent, in the sense of the frequency: preamble, sync word, frame with its block CRCs and line
code, postamble that goes on with the preamble's pattern (R185, R243). -/
def airSymbols (set : List Host.Cell) (p : Nat) (frame : Bytes) (fmtB crcs : Bool) : List Int :=
  let pre := if profTxPre set p == 0 then profPreLen set p else profTxPre set p
  let post := let x := setNat set 4 12 1; if x == 0 then 4 else x
  let bits := syncBits set p fmtB ++ lineEncode (profLine set p) (ofBytes (if crcs then sealFrame fmtB frame else frame))
  (patternFrom set p 0 pre ++ symbolsOf set p bits.length bits ++ patternFrom set p pre post).map (invSign set p * ·)

/-- Symbols of an item that have begun by `t` when the first began at `first`: symbol k begins k × 38,400,000 / SYM_RATE cycles after it
(R245). -/
def TxItem.sentBy (x : TxItem) (first t : Nat) : List Int := x.air.take (if t ≤ first then 0 else ceilDiv ((t - first) * x.rate) 38400000)

/-- The drive that a ramp-up starts from: that of the last transmission of like frequency, power and temperature, else the trim table's
(R258; log 169). -/
def State.startDrive (s : State) (b : Band) (x : TxItem) : Int :=
  match (s.txb b).ampHist.find? fun e => e.freq == x.freq && e.power == x.power && decide ((e.temp - s.trim.dieTemp).natAbs ≤ 160) with
  | some e => e.drive
  | none => Config.tableDrive s.fresh

/-- The 12-byte payload of a TX_SUBMIT reply (R48). -/
def txPayload (t rule reason : Nat) : Bytes := le 8 t ++ le 1 rule ++ le 1 reason ++ le 2 0

/-- A reply counter of R257 advances. -/
def State.countReply (s : State) (i : Nat) : State := s.onTx fun t => { t with replies := modifyAt (· + 1) t.replies i }

/-- A host request is complete (R253). -/
def State.noteComplete (s : State) (x : TxItem) : State :=
  if x.kind == .auto then s else s.onTx fun t => { t with complete := x.tag :: t.complete.filter (· != x.tag) }

/-- A queued item ends without radiating: its final reply, or a counter for an automatic reply (R48, R257). -/
def State.endItem (s : State) (x : TxItem) (st : Status) (reason : Nat) : State :=
  match x.kind with
  | .auto => s.countReply (if st == .deniedUmpire then 4 else 3)
  | _ => ((if st == .expired then s.fallLine "transmission" else s).noteComplete x).finish x.tag st (txPayload 0 x.rule reason)

/-- Branch A returns to the state it held before the run, the synthesiser hops back, the amplifier lines release; a branch A still on its
way to TRANSMIT turns back once its step is made (R104, R246, R250, R252). -/
def State.endRun (s : State) (b : Band) : State :=
  let i := bandChain b
  let s2 := s.dropRun b
  let c := s2.chain i
  if !s2.chainIs i .transmit then
    (if c.target == some .transmit then s2.onChain i fun c => { c with target := c.former } else s2)
  else if s.pwr.rfBad || c.former == some .fault then s2.faultChain i
  else match c.former with
    | some f => s2.onChain i fun c => { c with target := some f, toward := some (stepToward .transmit f) }
    | none => s2

/-- The end of an item's radiation: its time is counted, the amplifier history kept (R258, R263). -/
def State.radiated (s : State) (b : Band) (x : TxItem) (start stop : Nat) : State :=
  let s1 := ((s.addDuty x.rule start stop).noteComplete x).draw
  s1.onTxb b fun t =>
    { t with ampHist := ({ at_ := stop, freq := x.freq, power := x.power, drive := Config.settledDrive s1.fresh, temp := s.trim.dieTemp }
               :: t.ampHist).take 64 }

/-- A transmission ramps down at once; an item not yet radiating is abandoned without a reply (R106, R137, R253, R259). -/
def State.rampDown (s : State) (b : Band) : State :=
  match (s.txb b).phase with
  | .ramping at_ => s.onTxb b fun t => { t with phase := .rampingDown s.dtime (at_ + 768) }
  | .radiating f => s.onTxb b fun t => { t with phase := .rampingDown s.dtime f, onAir := (t.item.map fun x => x.sentBy f s.dtime).getD t.onAir }
  | _ => s

/-- Items of a band that are not radiating: the queue, and the one in transition. -/
def TxBand.waiting (t : TxBand) : List TxItem :=
  (match t.phase, t.item with | .transition _, some x => [x] | _, _ => []) ++ t.queue

/-- Every item of a band that is not radiating ends EXPIRED (R106, R137, R251). -/
def State.expireBand (s : State) (b : Band) (reason : Nat) : State :=
  let l := (s.txb b).waiting
  let moving := match (s.txb b).phase with | .transition _ => true | .idleTx => true | _ => false
  let s1 := s.onTxb b fun t => { t with queue := [], item := if moving then none else t.item }
  let s2 := s1.each l fun s x => s.endItem x .expired reason
  if moving then s2.endRun b else s2

/-! ### Loss of lock (R135 to R139) -/

/-- A chain whose synthesiser lost lock enters STANDBY and keeps the state to come back to: the one it was on its way back to, that before
a transmission, or its own. One that was on its way up to TRANSMIT from below SYNTH turns back (R104, R137). -/
def State.dropToStandby (s : State) (i : Nat) : State :=
  let c := s.chain i
  let st := s.chainSt i
  if st.level ≤ 1 then
    if c.target == some .transmit then
      let f := c.former.getD st
      let s1 := s.onChain i fun c => { c with former := none, target := some f }
      if c.toward == some .synth then s1.goChain i f else s1
    else s
  else
    let back := match c.former with | some f => some f | none => some st
    if back == some .fault then s.faultChain i
    else (s.moveChain i .standby).onChain i fun c => { c with former := back, target := none, toward := none }

/-- Chains of a pair enter STANDBY; their trim ends (R137, R138). -/
def State.pairToStandby (s : State) (pair : Nat) : State :=
  (((s.dropToStandby (2 * pair)).dropToStandby (2 * pair + 1)).trimLoseChain (2 * pair)).trimLoseChain (2 * pair + 1)

/-- A transmission of a band ends with the lock of its synthesiser: the relock aims at the receive LO, so no hop back is due (R136, R137). -/
def State.loseTx (s : State) (b : Band) : State :=
  ((s.onTxb b fun t => { t with hopLo := none }).rampDown b).requeue b

/-- Effects of a detected loss on what the synthesiser feeds (R137, R138). -/
def State.lossEffects (s : State) (y : Nat) : State :=
  match y with
  | 1 =>
    let s1 := (s.rampDown .h).rampDown .l
    let s2 := s1.each [0, 1, 2, 3, 4] fun s i => s.trimLoseChain i
    ((s2.abortFault fun _ => true).stallInner).followAll
  | 2 => s.onMem fun m => { m with refresh := true }
  | 3 => (((s.loseTx .h).abortPair 0).pairToStandby 0).followLanes 0
  | 4 => (((s.loseTx .l).abortPair 1).pairToStandby 1).followLanes 1
  | 5 => (s.onBc fun b => { b with vhf := { b.vhf with stopped := true, gap := true } }).trimLoseChain 4
  | _ => s

/-- Chains of a pair start back to their former states (R137). -/
def State.pairBack (s : State) (pair : Nat) : State :=
  let back (s : State) (i : Nat) : State := match (s.chain i).former with
    | some f => s.goChain i f
    | none => s
  (back (back s (2 * pair)) (2 * pair + 1)).each [2 * pair, 2 * pair + 1] fun s i => s.serveChain i 16

/-- Effects of a successful relock (R137). -/
def State.relockEffects (s : State) (y : Nat) : State :=
  match y with
  | 1 => (s.resumeInner).followAll
  | 2 => s.onMem fun m => { m with refresh := 2 ≤ s.pwr.st.code }
  | 3 => s.pairBack 0
  | 4 => s.pairBack 1
  | 5 =>
    if s.bc.vhf.freq == 0 then s
    else s.onBc fun b => { b with vhf := { b.vhf with stopped := false, tuning := some (b.vhf.tuning.getD 0) }, rds := {} }
  | _ => s

/-- Chains above STANDBY are placed in STANDBY for good. -/
def State.standbyChains (s : State) (l : List Nat) : State :=
  s.each l fun s i =>
    let was := s.chainSt i
    let s1 := s.onChain i fun c => { c with former := none, target := none, toward := none }
    if was.level ≤ 1 then s1 else (s1.moveChain i .standby).afterDrop i was

/-- The chain mask of EV_LOCK_LOST (R137). -/
def lostMask : Nat → Nat
  | 1 => 0x1F | 3 => 0x03 | 4 => 0x0C | _ => 0

/-- Effects of three failures (R137, R251). -/
def State.lostEffects (s : State) (y : Nat) : State :=
  match y with
  | 1 =>
    let s1 := ((s.expireBand .h 4).expireBand .l 4).standbyChains [0, 1, 2, 3, 4] |>.each [0, 1, 2, 3, 4] fun s i => s.serveChain i 16
    s1.each [0, 1, 2, 3] fun s g => if !s.cfgBit 6 (16 * g) 7 then s.onGroup g fun x => { x with dead := true } else s
  | 3 => ((s.expireBand .h 4).standbyChains [0, 1]).each [0, 1] fun s i => s.serveChain i 16
  | 4 => ((s.expireBand .l 4).standbyChains [2, 3]).each [2, 3] fun s i => s.serveChain i 16
  | _ => s

end Sys2Proof.Machine
end

