-- ==== Sys2Proof/Machine/PowerOps.lean ====
section
/-! DEFINITION. Power states: caps, known events, the wake planner, entry and return, vigil, and the core voltage (R430 to R449). -/

namespace Sys2Proof.Machine

/-! ### Section POWER (R449) -/

/-- A field of section POWER where 0 selects a default. -/
def State.powNat (s : State) (ofs n dflt : Nat) : Nat := let x := s.cfgNat 9 ofs n; if x == 0 then dflt else x
def State.vigilGuard (s : State) : Nat := s.powNat 14 2 50 * ms
def State.wakeHold (s : State) : Nat := s.powNat 20 2 100 * ms
def State.idleMs (s : State) : Nat := s.powNat 22 2 20 * ms
def State.hostWait (s : State) : Nat := s.powNat 24 2 1000 * ms
def State.paddleOff (s : State) : Bool := s.cfgBit 9 0 6
/-- VDD_CORE is left to the board: AVS_OFF, or VOUT_MODE is not linear (R448). -/
def State.avsOff (s : State) : Bool := s.cfgBit 9 0 7 || !s.pwr.voutLinear

/-- The power state of a code (R438). -/
def PowerSt.ofCode : Nat → PowerSt
  | 1 => .paddle | 2 => .easy | 3 => .feather | 4 => .ashore | _ => .row

/-! ### Core voltage (R446 to R448) -/

/-- Target of VDD_CORE in mV (R446). -/
def State.coreTarget (s : State) : Nat := min 850 (max s.trim.ledger.vfloor (s.powNat 4 2 650))

/-- PMBus writes are sent, PAGE first when one is set (R448). -/
def State.pmbusSend (s : State) (l : List (Nat × Nat)) : State :=
  let page := s.cfgNat 9 9 1
  let all := if page == 0xFF then l else (0x00, page) :: l
  s.onPwr fun p => { p with pmbus := all.reverse ++ p.pmbus }

/-- VOUT_COMMAND data: the target over 2^exponent V, rounded up (R448). -/
def voutWord (exp : Int) (mv : Nat) : Nat :=
  if exp ≤ 0 then ceilDiv (mv * 2 ^ exp.natAbs) 1000 else ceilDiv mv (1000 * 2 ^ exp.natAbs)

/-- A change of VDD_CORE towards its target begins (R446, R447). -/
def State.changeVolt (s : State) : State :=
  let t := s.coreTarget
  if s.avsOff || s.pwr.i2cFail || t == s.pwr.coreMv then s
  else (s.pmbusSend [(0x21, voutWord s.pwr.voutExp t)]).onPwr fun p => { p with vChange := some (t, 0) }

/-! ### Caps (R439) -/

/-- The deepest state that the caps over unit states allow (R439, R448). -/
def State.unitCap (s : State) : Nat :=
  let txBusy (b : Band) : Bool := !(s.txb b).queue.isEmpty || (s.txb b).phase != .idle
  if s.trim.run.isSome then 0
  else if [0, 1, 2, 3, 4].any (fun i => 2 ≤ (s.chainSt i).level) || txBusy .h || txBusy .l
      || [0, 1, 2, 3].any (fun g => s.groupIs g .running || s.groupIs g .stalled) || s.str.circuits.any (fun e => e.2.running)
      || !s.tdmIs .stopped || s.str.leak.run.isSome
      || [6, 7].any (fun c => s.crewIs c .customerLoaded || s.crewIs c .customerRunning)
      || s.mem.sweep.isSome || s.trim.survey.isSome then 1
  else if s.pwr.i2cFail || s.clk.aonLost || s.avsOff then 2
  else 4

/-- The deepest state that the host links and the delivery queue allow (R439, R440). -/
def State.hostCap (s : State) : Nat :=
  if !s.links.tags.isEmpty || s.links.lastMsg.any (fun t => decide (s.dtime < t + s.idleMs)) || !s.dir.hold.isEmpty
      || (!s.dlv.queue.isEmpty && s.dlv.credit != 0 && decide (s.dtime < s.dlv.leftAt.getD 0 + s.hostWait))
      || decide (s.dtime < s.pwr.holdTill) then 1
  else 4

/-! ### Vigil (R441 to R443) -/

/-- Entries whose interval is to be listened to on a pair: predicting, last heard on a lane of the pair, and with no arrival that the
directory engine has processed and the hold still keeps (R441, R442). -/
def State.vigilEntries (s : State) (pair : Nat) : List DirEntry :=
  (s.dir.entries.filter fun e =>
    e.2.has fInUse && e.2.has fPredicting && lanePair s.cfg.active (e.2.lastSrc.toNat % 512) == pair
      && !s.dir.hold.any fun p => p.best.dirIndex == some e.1).map (·.2)

/-- The listen interval of an entry (R233, R441). -/
def State.listenFrom (s : State) (e : DirEntry) : Nat := e.window - e.halfWidth - s.vigilGuard
def listenTo (e : DirEntry) : Nat := e.window + e.halfWidth

/-- The least of some numbers. -/
def leastOf : List Nat → Option Nat
  | [] => none
  | x :: xs => some (xs.foldl min x)

/-- The earliest listen start of a pair among intervals that have not closed (R441). -/
def State.listenStart (s : State) (pair : Nat) : Option Nat :=
  leastOf (((s.vigilEntries pair).filter fun e => decide (s.dtime < listenTo e)).map s.listenFrom)

/-- The chain lead of a pair: transition times of R103 and the longest settling time (R441). -/
def State.chainLead (s : State) (pair : Nat) : Nat :=
  let b : Band := if pair == 0 then .h else .l
  let set := s.cfg.active
  let lock := if (s.cachedBand (pairSyn pair) (loN (rxLo set b)) (loDiv set b)).isSome then 45 else 210
  let us (i : Nat) : Nat := match s.chainSt i with
    | .sleep => 310 + lock + 18 | .standby => lock + 18 | .fault => lock + 18 | .synth => 18 | .transmit => 18 | .receive => 0
  let settle := (((enabledLanes set).filter fun i => lanePair set i == pair).map fun i => laneSettle set i * laneP set i).foldl max 0
  usCeil (max (us (2 * pair)) (us (2 * pair + 1))) + settle

/-- An interval or a scan covers an instant on a pair. -/
def State.listening (s : State) (pair : Nat) : Bool :=
  (s.vigilEntries pair).any (fun e => decide (s.listenFrom e ≤ s.dtime) && decide (s.dtime < listenTo e))
    || s.pwr.scanTill.any fun t => decide (s.dtime < t)

/-- The Cox sends a chain towards a state of its own accord; one that transmits goes there after its run, one in FAULT stays (R104, R438). -/
def State.sendChain (s : State) (i : Nat) (st : ChainSt) : State :=
  if s.chainIs i .fault then s
  else if s.chainIs i .transmit then s.onChain i fun c => { c with former := if c.former == some .fault then c.former else some st }
  else s.goChain i st

/-- A pair goes to RECEIVE for a listen interval. -/
def State.openPair (s : State) (pair : Nat) : State := (s.sendChain (2 * pair) .receive).sendChain (2 * pair + 1) .receive

/-- A pair goes to SLEEP, or to STANDBY when its next interval starts within 20 ms (R441). -/
def State.closePair (s : State) (pair : Nat) : State :=
  let st : ChainSt := if (s.listenStart pair).any (fun t => decide (t ≤ s.dtime + 20 * ms)) then .standby else .sleep
  (s.sendChain (2 * pair) st).sendChain (2 * pair + 1) st

/-- Every chain returns to its START_STATE (R107, R438). -/
def State.startStates (s : State) : State :=
  s.each [0, 1, 2, 3, 4] fun s i => s.sendChain i (ChainSt.ofCode (s.cfgBits 1 (32 * i) 0 2))

/-- The policy and its limit change (R438, R443 to R445). -/
def State.setPolicy (s : State) (policy deepest : Nat) : State :=
  let was := s.pwr.policy
  let s1 := s.onPwr fun p => { p with policy := policy, deepest := deepest, listenH := false, listenL := false, scanTill := none
                                      scanAt := if policy == 1 && was != 1 then s.dtime else p.scanAt }
  if was == 1 && policy != 1 then s1.startStates
  else if policy == 1 && was != 1 then ((s1.closePair 0).closePair 1).sendChain 4 .sleep
  else s1

/-! ### Known events (R437) -/

/-- Every known event (R437). -/
def State.knownEvents (s : State) : List Nat :=
  let tx (b : Band) : List Nat := (s.txb b).queue.map fun x =>
    x.planned - s.leadTime b x - (if s.chainIs (bandChain b) .sleep then usCeil 52 else 0)
  let vigil (p : Nat) : List Nat := if s.pwr.policy == 1 then ((s.listenStart p).map fun t => t - s.chainLead p).toList else []
  let scan := if s.pwr.policy == 1 && s.cfgNat 9 16 2 != 0 then [s.pwr.scanAt + s.cfgNat 9 16 2 * 60 * sec] else []
  s.pwr.wakes.map (·.2) ++ (if s.dtime < s.pwr.holdTill then [s.pwr.holdTill] else []) ++ tx .h ++ tx .l ++ vigil 0 ++ vigil 1 ++ scan

/-- Exit latency to ROW in reference cycles (R433). -/
def exitTime : PowerSt → Nat
  | .row => 0 | .paddle => 1920 | .easy => 34560 | .feather => 172800 | .ashore => 537600

/-- Entry time and minimum residence in reference cycles (R433). -/
def stayTime : PowerSt → Nat
  | .row => 0 | .paddle => 0 | .easy => 19200 + 5 * ms | .feather => 38400 + 50 * ms | .ashore => 76800 + 2000 * ms

/-- A state fits before the earliest known event (R436). -/
def State.fits (s : State) (p : PowerSt) : Bool :=
  match leastOf s.knownEvents with
  | none => true
  | some t => decide (s.dtime + stayTime p + exitTime p + ms ≤ t)

/-- Wakes whose time has come hold the device up for WAKE_HOLD (R437, R440). -/
def State.passWakes (s : State) : State :=
  let due := s.pwr.wakes.filter fun w => decide (w.2 ≤ s.dtime)
  s.onPwr fun p => { p with wakes := p.wakes.filter fun w => decide (s.dtime < w.2)
                            holdTill := due.foldl (fun m w => max m (w.2 + s.wakeHold)) p.holdTill }

/-! ### SYN_C ratio (R133, R134, R431, R432) -/

/-- The output divider of a SYN_C ratio (R126). -/
def coreDiv (n : Nat) : Nat := if n == 21 then 6 else if n == 16 then 7 else 10

/-- A planned reprogramming of SYN_C to a ratio begins; from LOST it starts a new lock (R133, R134, R139). -/
def State.setRatio (s : State) (n : Nat) : State :=
  if s.synIs 0 .locked && (s.synth 0).n != n then
    (s.onSynth 0 fun x => { x with n := n, d := coreDiv n, planned := true }).moveSyn 0 .fallback
  else if s.synIs 0 .lost && (s.synth 0).n != n then s.startSyn 0 n (coreDiv n)
  else s

/-- A core synthesiser locks as part of a boot or of the return from a state that had it off: with its cached band, or a band search
(R128, R129, R433). -/
def State.runSyn (s : State) (y n d : Nat) : State := (s.startSyn y n d).lockOwn y

/-! ### The planner (R436) -/

/-- A wake falls due before the next catch: the device is in ROW then (R440). -/
def State.wakeNear (s : State) : Bool := s.pwr.wakes.any fun w => decide (w.2 < s.dtime + strokeLen)

/-- The state the planner chooses (R436, R438, R440). -/
def State.planned (s : State) : PowerSt :=
  let limit := if s.wakeNear then 0 else min (min s.pwr.deepest s.unitCap) s.hostCap
  let deep : Option PowerSt :=
    if s.pwr.policy == 2 then (if 2 ≤ limit then some (.ofCode limit) else none)
    else [PowerSt.ashore, .feather, .easy].find? fun p => decide (p.code ≤ limit) && s.fits p
  match deep with
  | some p => p
  | none => if limit == 0 || s.paddleOff then .row else .paddle

/-- Entry into a state deeper than PADDLE begins: the wake timer is armed, a trim item ends early, and READY clears before
FEATHER and ASHORE (R416, R435, R436). -/
def State.beginEntry (s : State) (p : PowerSt) : State :=
  let s1 := s.trimAbort
  let s2 := s1.onPwr fun w => { w with entering := some p, timer := (leastOf s1.knownEvents).map fun t => t - exitTime p - ms }
  if p.code ≤ 2 then s2 else s2.onLinks fun l => { l with ready := false }

/-- The planner runs in ROW and PADDLE once the device has booted (R436). -/
def State.planner (s : State) : State :=
  if s.boot.step != 0 || s.boot.held || s.boot.recovery || s.pwr.entering.isSome || s.pwr.waking
      || !(s.pwr.st == .row || s.pwr.st == .paddle) then s
  else
    let s1 := s.passWakes
    match s1.planned with
    | .row => s1.onPwr fun p => { p with st := .row }
    | .paddle => s1.onPwr fun p => { p with st := .paddle }
    | p => s1.beginEntry p

/-! ### Domains (R430, R431) -/

/-- The power domains (R430). -/
inductive Domain where
  | aon | cox | syn | shared
  | crew (i : Nat)
  /-- the receive chain of chain `i`; chain 4 is PD_RFB -/
  | rf (i : Nat)
  | tx (b : Band)
  | stream | ddr | net | key
  deriving DecidableEq, Repr

/-- States of a domain, the DRAM's self-refresh being one of PD_DDR (R430). -/
inductive DomSt where
  | on | retention | selfRefresh | off
  deriving DecidableEq, Repr

/-- What a power state sets a domain to, where the domain is not one that follows its chain or port (R431). -/
def domainIn (p : PowerSt) : Domain → DomSt
  | .aon => .on
  | .cox => match p with | .feather => .retention | .ashore => .off | _ => .on
  | .syn | .net => match p with | .feather | .ashore => .off | _ => .on
  | .shared => match p with | .feather | .ashore => .off | .easy => .retention | _ => .on
  | .crew i => match p with | .feather | .ashore => .off | .easy => if i == 0 then .on else .retention | _ => .on
  | .rf _ => match p with | .feather | .ashore => .off | _ => .on
  | .tx _ | .stream | .key => match p with | .row | .paddle => .on | _ => .off
  | .ddr => match p with | .row | .paddle => .on | _ => .selfRefresh

/-- The state of a domain (R430, R431): an RF domain is on while its chain is above SLEEP, a transmitter's from the transition to TRANSMIT on
until it is idle again, PD_STREAM while a group or the TDM port is not stopped. -/
def State.domain (s : State) (d : Domain) : DomSt :=
  let need := match d with
    | .rf i => !s.chainIs i .sleep
    | .tx b => (s.txb b).phase != .idle
    | .stream => [0, 1, 2, 3].any (fun g => !s.groupIs g .stopped) || !s.tdmIs .stopped
    | _ => true
  let p := domainIn s.pwr.st d
  if p == .on && !need then .off else if d == .ddr && s.mem.refresh then .selfRefresh else p

/-! ### Entry and return (R396, R430, R431, R435) -/

/-- Instances that EASY keeps ON: shared-store instances 0, 1 and 49 to 59, and those of crew 0 (R431). -/
def easyOn (n : Nat) : Bool :=
  if n < 192 then n < 24 else if n < 320 then n < 208 else (n - 320 < 2 || (369 ≤ n && n < 380))

/-- Synthesisers turn off with PD_SYN (R431). -/
def State.synOff (s : State) : State := s.each [0, 1, 2, 3, 4, 5] fun s y => (s.moveSyn y .off).onSynth y fun x => { x with planned := false, attempt := 0 }

/-- PD_KEY turns off: the key cache loses its keys (R430, R431). -/
def State.keysOff (s : State) : State := s.onDir fun d => { d with keys := [] }

/-- Chains go to SLEEP with their RF domains (R430, R431). -/
def State.rfOff (s : State) : State := s.each [0, 1, 2, 3, 4] fun s i => if s.chainIs i .fault then s else s.moveChain i .sleep

/-- Crews lose their sculls with their domains (R431). -/
def State.crewsOff (s : State) : State := { s with arr := { s.arr with sculls := [] } }

/-- The DRAM goes to self-refresh with PD_DDR (R137, R430, R431). -/
def State.ddrOff (s : State) : State := s.onMem fun m => { m with refresh := true }

/-- First address of the Molrel general region of the DRAM, in which the copy of the SRAM lies (R393, R470). -/
def generalBase : Nat := 0x9DC00000

/-- The listed bytes of the SRAM, by SRAM address. -/
def State.sramCells (s : State) : List Host.Cell := s.mem.cells.filter fun c => c.1 < 0x200000

/-- The listed bytes of the copy of the SRAM in DRAM, by SRAM address (R470). -/
def State.dramCopy (s : State) : List Host.Cell :=
  (s.mem.cells.filter fun c => generalBase ≤ c.1 && c.1 < generalBase + 0x200000).map fun c => (c.1 - generalBase, c.2)

/-- The bytes of a 2 MiB image written from `base` on, where `old` are the bytes listed there. -/
def State.pokeImage (s : State) (base : Nat) (old new : List Host.Cell) : State :=
  (s.each old fun s c => s.pokeByte (base + c.1) 0).each new fun s c => s.pokeByte (base + c.1) c.2

/-- The SRAM is copied to DRAM, and PD_AON holds what the copy is checked with (R470). -/
def State.saveSram (s : State) : State :=
  (s.pokeImage generalBase s.dramCopy s.sramCells).onBoot fun b => { b with sramCopy := some s.sramCells }

/-- The SRAM is restored from its copy in DRAM (R470). -/
def State.loadSram (s : State) : State := s.pokeImage 0 s.sramCells s.dramCopy

/-- The domains as a deep state sets them (R431). Before ASHORE the always-on counter has counted the edges since the last catch, at the
last of which DTIME and AONCNT are taken together (R124). -/
def State.arrive (s : State) (p : PowerSt) (edges : Nat) : State :=
  let s1 := (s.onPwr fun w => { w with st := p, entering := none }).ddrOff
  match p with
  | .easy => (s1.setPowers ((List.range 384).filter fun n => !easyOn n) 1).keysOff
  | .feather => ((((s1.setPowers (List.range 384) 0).keysOff).rfOff).crewsOff).synOff.pmbusSend (if s.avsOff then [] else [(0x01, 0x00)])
  | .ashore =>
    let s1 := s1.onClk fun c => { c with aon := if c.aonLost then c.aon else c.aon + BitVec.ofNat 48 edges }
    let s2 := ((((s1.setPowers (List.range 384) 0).keysOff).rfOff).crewsOff).synOff.pmbusSend (if s.avsOff then [] else [(0x01, 0x00)])
    let s3 := s2.each [0, 1, 2, 3, 4, 5] fun s y => s.onSynth y fun x => { x with cache := [] }
    (s3.onClk fun c => { c with stopped := true
                                ashore := { dtimeEntry := s.dtime, aonEntry := s1.clk.aon.toNat, ratio := c.ratio
                                            flags := if c.nominal then 1 else 0 } }).saveSram
  | _ => s1

/-- The device is back in ROW: domains up, the core synthesisers locked again where they were off, READY set with READY_UP where it was
clear (R431, R435). SYN_C goes to its ratio of ROW at the next catch (R134). -/
def State.toRow (s : State) : State :=
  let deep := 3 ≤ s.pwr.st.code
  let s1 := s.onPwr fun w => { w with st := .row, entering := none, waking := false, wakeHost := false, timer := none
                                      holdTill := if w.wakeHost then max w.holdTill (s.dtime + s.wakeHold) else w.holdTill }
  let s2 := s1.setPowers (List.range 384) 2
  let s3 := if deep then
      (((s2.runSyn 0 21 6).runSyn 1 4 24).runSyn 2 40 2).pmbusSend (if s.avsOff then [] else [(0x01, 0x80)])
    else s2
  let s3 := s3.onMem fun m => { m with refresh := !s3.synIs 2 .locked }
  let s4 := if s3.links.ready then s3 else (s3.onLinks fun l => { l with ready := true }).setIrq 1
  s4.followAll

/-- A wake source is accepted in a state deeper than PADDLE, or during an entry, which it stops (R434). -/
def State.wake (s : State) (host : Bool) : State :=
  if s.pwr.entering.isSome || 2 ≤ s.pwr.st.code then
    s.onPwr fun w => { w with entering := none, waking := true, wakeHost := w.wakeHost || host }
  else s

/-- A command other than those served in EASY first returns the device to ROW (R435). -/
def State.rouse (s : State) (op : Nat) : State :=
  if [0x0001, 0x0002, 0x0003, 0x00C0, 0x0091, 0x0090].contains op then s
  else if s.pwr.st == .easy || s.pwr.entering == some .easy then (s.wake true).toRow
  else s

/-- A host command: in EASY it first returns the device to ROW unless it is served there; then the checks of R33 (R435). -/
def State.host (s : State) (h : Hdr) (op : Nat) (c : State → Check) (act : State → State) : State :=
  (if s.links.ready && s.reachable h.src && bitsOf h.flags.toNat 14 2 == 0 then s.rouse op else s).command h op c act

/-! ### PADDLE scaling (R432) -/

/-- Forecast of the busiest Molrel scull in cycles. -/
def State.peakLoad (s : State) : Nat := s.molrelSculls.foldl (fun m c => max m (s.loadOf c 7)) 0

/-- The lowest ratio at which the forecast stays within 80 % (R432). -/
def ratioFor (load : Nat) : Nat :=
  if load * 5 ≤ 4 * strokeLen * 10 then 10 else if load * 5 ≤ 4 * strokeLen * 16 then 16 else 21

/-- The next lower ratio. -/
def lowerRatio (n : Nat) : Nat := if n == 21 then 16 else 10

/-- SYN_C follows the load at a catch in PADDLE (R432). -/
def State.scalePaddle (s : State) : State :=
  let n := (s.synth 0).n
  let load := s.peakLoad
  if !(s.synIs 0 .locked || s.synIs 0 .lost) then s
  else if 4 * strokeLen * n < load * 5 then (s.setRatio (max n (ratioFor load))).onPwr fun p => { p with lowCatches := 0 }
  else if n != 10 && load * 2 ≤ strokeLen * lowerRatio n then
    if 63 ≤ s.pwr.lowCatches then (s.setRatio (ratioFor load)).onPwr fun p => { p with lowCatches := 0 }
    else s.onPwr fun p => { p with lowCatches := p.lowCatches + 1 }
  else s.onPwr fun p => { p with lowCatches := 0 }

/-- SYN_C changes its ratio at a catch: ×10 for EASY, ×21 in ROW, by the load in PADDLE (R134, R431, R432). -/
def State.scaleCore (s : State) : State :=
  if s.pwr.entering == some .easy || s.pwr.st == .easy then (s.setRatio 10).onPwr fun p => { p with lowCatches := 0 }
  else if s.pwr.entering.isSome then s
  else match s.pwr.st with
    | .row => (s.setRatio 21).onPwr fun p => { p with lowCatches := 0 }
    | .paddle => s.scalePaddle
    | _ => s

/-- A scull has a context, a work order or a customer program (R432). -/
def State.scullBusy (s : State) (c : Nat) : Bool := s.rx.ctxs.any (fun e => e.2.scull == c) || s.ordersOf c != 0 || s.crewIs (c / 8) .customerRunning || s.crewIs (c / 8) .customerLoaded

/-- Memories that a stroke ring or an input list lives in, which a gated crew keeps ON (R396). -/
def crewGateInsts (c : Nat) : List Nat := (List.range 15).map fun i => 192 + 16 * c + i

/-- Idle sculls are gated after 8 strokes, and crew stores with them; work wakes them, and ROW holds all ON (R431, R432). -/
def State.gateSculls (s : State) : State :=
  if s.pwr.st != .paddle then
    (if s.pwr.st == .row && !s.pwr.idleStk.isEmpty then s.setPowers (List.range 320) 2 else s).onPwr fun p => { p with idleStk := [] }
  else
    let s1 := s.each (List.range 64) fun s c =>
      if s.scullBusy c then
        (if 8 ≤ getT 0 s.pwr.idleStk c then s.setPowers ([3 * c, 3 * c + 1, 3 * c + 2] ++ crewGateInsts (c / 8)) 2 else s).onPwr
          fun p => { p with idleStk := delT p.idleStk c }
      else
        let k := getT 0 s.pwr.idleStk c + 1
        (if k == 8 then s.setPowers [3 * c, 3 * c + 1, 3 * c + 2] 1 else s).onPwr fun p => { p with idleStk := putT p.idleStk c (min k 8) }
    s1.each (List.range 8) fun s w =>
      if (List.range 8).all fun i => 8 ≤ getT 0 s.pwr.idleStk (8 * w + i) then s.setPowers (crewGateInsts w) 1 else s

end Sys2Proof.Machine
end

