-- ==== Sys2Proof/Machine/Operands.lean ====
section
/-! DEFINITION. Operand forms of the sculls: register codes, the pointer registers as address generation sees them, circular
addressing, memory as a scull sees it, and its DMA and stroke-interface registers (R336 to R343, R356 to R360, R366 to R369,
R390, R391, R400, R401). -/

namespace Sys2Proof.Machine

/-- Why an instruction faults (R352). -/
inductive Trap where
  | illegal
  | memOff (addr : Nat)
  | memMap (addr : Nat)
  deriving DecidableEq, Repr

/-! ### Registers by number -/

def Scull.dReg (x : Scull) (i : BitVec 3) : BitVec 16 := x.d.getD i.toNat 0
def Scull.setD (x : Scull) (i : BitVec 3) (v : BitVec 16) : Scull := { x with d := setAt v x.d i.toNat }
def Scull.acc (x : Scull) (i : BitVec 2) : BitVec 40 := x.a.getD i.toNat 0
def Scull.setAcc (x : Scull) (i : BitVec 2) (v : BitVec 40) : Scull := { x with a := setAt v x.a i.toNat }
/-- Q2 or Q3 (R336). -/
def Scull.residue (x : Scull) (i : BitVec 2) : BitVec 40 := if i == 3 then x.q3 else x.q2
def Scull.setResidue (x : Scull) (i : BitVec 2) (v : BitVec 40) : Scull := if i == 3 then { x with q3 := v } else { x with q2 := v }
/-- Flags written by an instruction (R337). -/
def Scull.flag (x : Scull) (f : Flags) : Scull := { x with sr := f.apply x.sr }

/-- The register codes of R366. -/
def regCode (r : Nat) : Bool := r ≤ 0x39 || (0x40 ≤ r && r ≤ 0x4C) || (0x50 ≤ r && r ≤ 0x54)

/-- A part of a 40-bit register read, zero-extended: 0 L, 1 H, 2 G (R338, R367). -/
def partOf (v : BitVec 40) : Nat → U32
  | 0 => (v.extractLsb' 0 16).zeroExtend 32
  | 1 => (v.extractLsb' 16 16).zeroExtend 32
  | _ => (v.extractLsb' 32 8).zeroExtend 32

/-- A part of a 40-bit register written; the others are kept (R367). -/
def setPart (v : BitVec 40) (part : Nat) (w : U32) : BitVec 40 :=
  match part with
  | 0 => (v.extractLsb' 16 24) ++ (w.extractLsb' 0 16)
  | 1 => (v.extractLsb' 32 8) ++ (w.extractLsb' 0 16) ++ (v.extractLsb' 0 16)
  | _ => (w.extractLsb' 0 8) ++ (v.extractLsb' 0 32)

/-- STK_STAT as it reads (R357). -/
def Scull.stkStat (x : Scull) : U32 :=
  (x.missedCnt.zeroExtend 32 <<< 16) ||| BitVec.ofNat 32 (8 * b2n x.err + 4 * b2n x.behind + 2 * b2n x.missed + b2n x.run)

/-- A register read under R367; `pc` is what a read of PC gives. -/
def Scull.read (x : Scull) (pc : U32) (code : Nat) : U32 :=
  if code < 8 then (x.d.getD code 0).signExtend 32
  else if code < 16 then x.p.getD (code - 8) 0
  else if code < 24 then x.wb.getD (code - 16) 0
  else if code < 32 then x.wl.getD (code - 24) 0
  else if code < 40 then x.ws.getD (code - 32) 0
  else if code < 0x34 then partOf (x.a.getD (code % 4) 0) ((code - 0x28) / 4)
  else if code < 0x37 then partOf x.q2 (code - 0x34)
  else if code < 0x3A then partOf x.q3 (code - 0x37)
  else match code with
    | 0x40 => x.sr.zeroExtend 32 | 0x41 => x.lc.zeroExtend 32 | 0x42 => x.lk.zeroExtend 32 | 0x43 => pc | 0x44 => x.lr | 0x45 => x.ipc
    | 0x46 => x.iss.zeroExtend 32 | 0x47 => x.vb | 0x48 => x.imr.zeroExtend 32 | 0x49 => x.ipr.zeroExtend 32 | 0x4A => x.fsr.zeroExtend 32
    | 0x4B => x.faddr | 0x4C => x.cyc | 0x50 => x.stkLo | 0x51 => x.stkHi | 0x52 => x.stkDone | 0x53 => x.stkStat | 0x54 => x.inq
    | _ => 0

/-- What a read of a register does besides: STK_LO latches STROKE_HI, STK_STAT clears MISSED_CNT (R357, R367). -/
def Scull.afterRead (x : Scull) (code : Nat) : Scull :=
  if code == 0x50 then { x with stkHi := BitVec.ofNat 32 (x.stroke / 4294967296) }
  else if code == 0x53 then { x with missedCnt := 0 }
  else x

/-- A value v lies after w in 32-bit order (R359). -/
def after32 (w v : U32) : Bool := let d := (v - w).toNat; decide (1 ≤ d) && decide (d < 2147483648)

/-- A write to STK_DONE: accepted after the present DONE and no later than STROKE_LO − 1, else refused with ERR (R359). -/
def State.doneWrite (s : State) (c : Nat) (v : U32) : State :=
  let x := s.scull c
  if after32 x.stkDone v && !after32 (x.stkLo - 1) v then
    (s.setScull c { x with stkDone := v }).onCrew (c / 8) fun w => { w with doneAt := s.stroke }
  else s.setScull c { x with err := true }

/-- Bits that IMR and IPR define (R349). -/
def imrMask : U8 := 0x3E#8

/-- A register written under R367: RO ignored, W1C cleared, reserved bits kept 0. -/
def State.writeReg (s : State) (c code : Nat) (v : U32) : State :=
  let lo16 : BitVec 16 := v.extractLsb' 0 16
  let put (f : Scull → Scull) : State := s.onScull c f
  if code < 8 then put fun x => { x with d := setAt lo16 x.d code }
  else if code < 16 then put fun x => { x with p := setAt v x.p (code - 8) }
  else if code < 24 then put fun x => { x with wb := setAt v x.wb (code - 16) }
  else if code < 32 then put fun x => { x with wl := setAt v x.wl (code - 24) }
  else if code < 40 then put fun x => { x with ws := setAt v x.ws (code - 32) }
  else if code < 0x34 then put fun x => { x with a := modifyAt (fun a => setPart a ((code - 0x28) / 4) v) x.a (code % 4) }
  else if code < 0x37 then put fun x => { x with q2 := setPart x.q2 (code - 0x34) v }
  else if code < 0x3A then put fun x => { x with q3 := setPart x.q3 (code - 0x37) v }
  else match code with
    | 0x40 => put fun x => { x with sr := lo16 &&& srMask }
    | 0x44 => put fun x => { x with lr := v }
    | 0x45 => put fun x => { x with ipc := v }
    | 0x46 => put fun x => { x with iss := lo16 }
    | 0x47 => put fun x => { x with vb := v }
    | 0x48 => put fun x => { x with imr := v.extractLsb' 0 8 &&& imrMask }
    | 0x49 => put fun x => { x with ipr := x.ipr &&& ~~~(v.extractLsb' 0 8) }
    | 0x4A => put fun x => { x with fsr := x.fsr &&& ~~~(lo16 &&& 0x8000#16) }
    | 0x52 => s.doneWrite c v
    | 0x53 => put fun x => { x with err := x.err && !v.getLsbD 3, missed := x.missed && !v.getLsbD 1 }
    | _ => s

/-- Registers that address generation, branch targets and entry read in D, and see late (R343): pointer class, LR, IPC, VB. -/
def lateReg (code : Nat) : Bool := (8 ≤ code && code < 40) || code == 0x44 || code == 0x45 || code == 0x47

/-- The value a register is about to lose is kept for the two instructions that still read it in D (R343). -/
def Scull.keepOld (x : Scull) (code : Nat) : Scull :=
  if lateReg code then { x with agOld := x.agOld ++ [(BitVec.ofNat 7 code, x.read 0 code, 2)] } else x

/-! ### Address generation (R343, R356, R369) -/

/-- A register as the decode stage sees it (R343). -/
def Scull.early (x : Scull) (code : Nat) : U32 :=
  match x.agOld.find? (fun e => e.1.toNat == code) with
  | some e => e.2.1
  | none => x.read 0 code

def Scull.ptr (x : Scull) (n : BitVec 3) : U32 := x.early (8 + n.toNat)

/-- The post-modify of pointer n by step m (R356): its new value, and CW. -/
def circular (p : U32) (wb wl : U32) (m : Int) : U32 × Bool :=
  let q : Int := (p.toNat : Int) + m
  let lo : Int := wb.toNat
  let hi : Int := (wb.toNat + wl.toNat : Nat)
  if wl == 0 then (BitVec.ofInt 32 q, false)
  else
    let q1 := if q < lo then q + wl.toNat else if hi ≤ q then q - wl.toNat else q
    if q1 < lo || hi ≤ q1 then (wb, true) else (BitVec.ofInt 32 q1, false)

/-- The oldest late value of a register code replaced. -/
def replaceOld (code : Nat) (v : U32) : List (BitVec 7 × U32 × Nat) → List (BitVec 7 × U32 × Nat)
  | [] => []
  | e :: l => if e.1.toNat == code then (e.1, v, e.2.2) :: l else e :: replaceOld code v l

/-- A pointer changed by address generation: visible to the next instruction, unless a move into it is on its way (R343, R368). -/
def Scull.setPtr (x : Scull) (n : BitVec 3) (v : U32) : Scull :=
  let code := 8 + n.toNat
  if x.agOld.any (fun e => e.1.toNat == code) then { x with agOld := replaceOld code v x.agOld } else { x with p := setAt v x.p n.toNat }

/-- Pn post-modified by a step under the circular rule (R356). -/
def Scull.postModify (x : Scull) (n : BitVec 3) (m : Int) : Scull :=
  let r := circular (x.ptr n) (x.early (16 + n.toNat)) (x.early (24 + n.toNat)) m
  (x.setPtr n r.1).flag { cw := r.2 }

/-- The walk step WSn as address generation sees it. -/
def Scull.step (x : Scull) (n : BitVec 3) : Int := (x.early (32 + n.toNat)).toInt

/-- The address of a memory operand and its post-modify, if it has one (R369). -/
def Scull.memAddr (x : Scull) (n : BitVec 3) (am : BitVec 2) (imm : BitVec 13) : Nat × Option (BitVec 3 × Int) :=
  match am.toNat with
  | 0 => ((x.ptr n).toNat, none)
  | 1 => ((x.ptr n).toNat, some (n, x.step n))
  | 2 => ((x.ptr n).toNat, some (n, imm.toInt))
  | _ => ((x.ptr n + imm.signExtend 32).toNat, none)

/-- IMM13 must be 0 with the modes that have no immediate (R369). -/
def amOk (am : BitVec 2) (imm : BitVec 13) : Bool := 2 ≤ am.toNat || imm == 0

/-! ### Memory as a scull sees it (R390, R391) -/

/-- Crew `w` belongs to the customer (R18, R463). -/
def State.customerCrew (s : State) (w : Nat) : Bool := bitOf (s.cfgNat 13 0 1) w && 6 ≤ w

/-- Rings and buffers that a customer crew may read: lane rings, stream rings, sample pool, stream buffers (R391, R392). -/
def readOnlyWindow (a : Nat) : Bool :=
  (0x20000000 ≤ a && a < 0x20048200) || (0x20080000 ≤ a && a < 0x20C10000)

/-- The customer window of a crew in the shared store (R392). -/
def customerWindow (w a : Nat) : Bool :=
  if w == 6 then 0x20F00000 ≤ a && a < 0x20F80000 else 0x20F80000 ≤ a && a < 0x21000000

/-- The system address that a scull-view address names, where the map and the crew's rights allow the access (R390, R391). The
DMA registers are not memory and stand apart. -/
def State.scullAddr (s : State) (c a : Nat) (write : Bool) : Option Nat :=
  let w := c / 8
  let mine := s.customerCrew w
  if a < 0x8000 || (0x10000 ≤ a && a < 0x18000) || (0x20000 ≤ a && a < 0x28000) then some (0x04000000 + 0x40000 * c + a)
  else if 0x10000000 + 0x100000 * w ≤ a && a < 0x10100000 + 0x100000 * w then
    (if mine && write && 0xF0000 ≤ a % 0x100000 then none else some a)
  else if 0x20000000 ≤ a && a < 0x21000000 then
    (if !mine || customerWindow w a || (!write && readOnlyWindow a) then some a else none)
  else none

/-- The instance that holds a scull-view address. -/
def State.instAt (s : State) (c a : Nat) (write : Bool) : Option Nat :=
  match s.scullAddr c a write with
  | none => none
  | some x => match s.place x with | .inst n => some n | _ => none

/-- An access of `n` bytes at a scull-view address: the trap it takes, or none (R363, R390, R396). -/
def State.accessTrap (s : State) (c a n : Nat) (write : Bool) : Option Trap :=
  match s.instAt c a write, s.instAt c (a + n - 1) write with
  | some i, some j => if (s.inst i).power == 0 || (s.inst j).power == 0 then some (.memOff a) else none
  | _, _ => some (.memMap a)

/-- An access crosses a 64-bit line (R340, R364). -/
def crosses (a n : Nat) : Nat := if 8 < a % 8 + n then 1 else 0

/-- The bytes at a scull-view address. -/
def State.scullBytes (s : State) (c a n : Nat) : Bytes :=
  (List.range n).map fun k => match s.scullAddr c (a + k) false with | some x => s.memByte x | none => 0

/-! ### DMA registers (R400, R401) -/

/-- An address of the DMA registers in the scull's view (R390). -/
def isDma (a : Nat) : Bool := 0x30000 ≤ a && a < 0x30020

/-- The next descriptor of length 0 at the head completes at once, with its completion event (R402). -/
def Scull.runEmpty (x : Scull) : (fuel : Nat) → Scull
  | 0 => x
  | f + 1 =>
    match x.dmaQ with
    | d :: rest =>
      if d.len == 0 then
        let n := if x.doneCnt == 0xFFFF#16 then x.doneCnt else x.doneCnt + 1
        let y : Scull := { x with dmaQ := rest, doneCnt := n, ipr := x.ipr ||| 0x10#8 }
        y.runEmpty f
      else x
    | [] => x

/-- A write of DMA_CTRL: GO queues the descriptor, or sets OVF when four are queued (R401). -/
def Scull.dmaCtrl (x : Scull) (v : U32) : Scull :=
  if !v.getLsbD 0 then x
  else if 4 ≤ x.dmaQ.length then { x with ovf := true }
  else
    let y : Scull := { x with dmaQ := x.dmaQ ++ [{ src := x.dmaSrc, dst := x.dmaDst, len := x.dmaLen.toNat }] }
    y.runEmpty 5

/-- A DMA register written (R400, R401). -/
def Scull.dmaWrite (x : Scull) (ofs : Nat) (v : U32) : Scull :=
  match ofs with
  | 0 => { x with dmaSrc := v }
  | 4 => { x with dmaDst := v }
  | 8 => { x with dmaLen := v &&& 0x00FFFFFF#32 }
  | 12 => x.dmaCtrl v
  | 16 => { x with ovf := x.ovf && !v.getLsbD 2, dmaErr := x.dmaErr && !v.getLsbD 1 }
  | _ => x

/-- A DMA register of a scull written; the first descriptor queued begins to wait (R400 to R402). -/
def State.dmaPut (s : State) (c ofs : Nat) (v : U32) : State :=
  s.onScull c fun x =>
    let y := x.dmaWrite ofs v
    { y with dmaAt := if x.dmaQ.isEmpty then s.dtime else x.dmaAt }

/-- DMA_STAT as it reads (R401). -/
def Scull.dmaStat (x : Scull) : U32 :=
  (x.doneCnt.zeroExtend 32 <<< 16)
    ||| BitVec.ofNat 32 (16 * x.dmaQ.length + 8 * b2n x.starved + 4 * b2n x.ovf + 2 * b2n x.dmaErr + b2n (!x.dmaQ.isEmpty))

/-- A DMA register read: its value, and the channel after the read (R400, R401). -/
def Scull.dmaRead (x : Scull) (ofs : Nat) : U32 × Scull :=
  match ofs with
  | 0 => (x.dmaSrc, x)
  | 4 => (x.dmaDst, x)
  | 8 => (x.dmaLen, x)
  | 16 => (x.dmaStat, { x with doneCnt := 0 })
  | _ => (0, x)

end Sys2Proof.Machine
end

