-- ==== Sys2Proof/Machine/Transmit.lean ====
section
/-! DEFINITION. Meanings: TX_SUBMIT, TX_CANCEL and the course of a transmission (chapter 10, R48, R243 to R260). -/

namespace Sys2Proof.Machine

/-! ### The band queue (R247, R248) -/

/-- Order among equal planned starts (R248). -/
def TxKind.rank : TxKind → Nat
  | .auto => 0 | .atTime => 1 | .asap => 2

/-- `x` is served before `y` (R248). -/
def txBefore (x y : TxItem) : Bool :=
  x.planned < y.planned || (x.planned == y.planned && (x.kind.rank < y.kind.rank || (x.kind.rank == y.kind.rank && x.order < y.order)))

/-- An item takes its place in a queue (R248). -/
def insertItem (x : TxItem) : List TxItem → List TxItem
  | [] => [x]
  | y :: l => if txBefore x y then x :: y :: l else y :: insertItem x l

/-- Places taken by host requests or by automatic replies; the item in service counts until it radiates (R248). -/
def TxBand.places (t : TxBand) (auto : Bool) : Nat := (t.waiting.filter fun x => (x.kind == .auto) == auto).length

/-- The band queue takes an item; the tag of a host request stands for it from now on. -/
def State.enqueueTx (s : State) (b : Band) (x : TxItem) : State :=
  (s.onTxb b fun t => { t with queue := insertItem x t.queue }).onTx fun t =>
    { t with nextOrder := t.nextOrder + 1, complete := if x.kind == .auto then t.complete else t.complete.filter (· != x.tag) }

/-! ### TX_SUBMIT (R48, R244, R247) -/

/-- The band of a band field. -/
def bandOf (n : Nat) : Band := if n == 0 then .h else .l

/-- The refusal payload of TX_SUBMIT (R43, R48). -/
def txRefusal : Bytes := txPayload 0 0xFF 0

/-- Format B is set for a profile (R244). -/
def fmtBOf (set : List Host.Cell) (p : Nat) : Bool := bitOf (setNat set 4 0 4) p

/-- Block CRCs are added to a profile's frames (R244). -/
def addsCrc (set : List Host.Cell) (p : Nat) : Bool := profMode set p != 0 || bitOf (setNat set 4 4 4) p

/-- Conditions of R244 on the frame, the profile and the format. -/
def frameFits (set : List Host.Cell) (p : Nat) (frame : Bytes) : Bool :=
  profEn set p && !(fmtBOf set p && profAltLen set p == 0)
    && (!addsCrc set p || lengthFits (fmtBOf set p) (fieldAt 0 1 frame) frame.length)

/-- Power within the range of its band in 0.5 dB (R48). -/
def powerOk (b : Band) (p : Int) : Bool :=
  match b with
  | .h => -40 ≤ p && p ≤ 28
  | .l => -20 ≤ p && p ≤ 40

/-- The item of a request, built at its receipt with the profile and the policy of then (R243, R247; log 168). -/
def State.txItem (s : State) (h : Hdr) (r : TxReq) (rule : Nat) : TxItem :=
  let set := s.cfg.active
  let p := r.profile.toNat
  let at_ := r.timing == 0
  let planned := if at_ then r.start.toNat else s.dtime
  let late := if r.latest == 0 then (if at_ then 19200 else 192000) else r.latest.toNat
  { kind := if at_ then .atTime else .asap, tag := h.tag, profile := p, planned := planned, latest := planned + late
    freq := r.frequency.toNat, power := r.power.toInt, frame := r.frame, fmtB := fmtBOf set p
    airtime := airtime set p r.frame.length (fmtBOf set p) (addsCrc set p), rule := rule, order := s.tx.nextOrder
    rate := profRate set p, air := airSymbols set p r.frame (fmtBOf set p) (addsCrc set p) }

/-- Half the occupied span of a profile (R262). -/
def halfSpan (set : List Host.Cell) (p : Nat) : Nat := profDev set p + ceilDiv (profRate set p) 2

/-- The umpire's answer to a request (R262). -/
def State.txVerdict (s : State) (r : TxReq) : Except (Nat × Nat) (Nat × Range) :=
  let set := s.cfg.active
  let p := r.profile.toNat
  s.umpire (bandOf r.band.toNat) r.frequency.toNat (halfSpan set p) r.power.toInt
    (airtime set p r.frame.length (fmtBOf set p) (addsCrc set p) + 1536)

/-- Checks of TX_SUBMIT up to the band queue (R33, R48, R247). -/
def chkTxSubmit (h : Hdr) (r : TxReq) (s : State) : Check :=
  let set := s.cfg.active
  let b := bandOf r.band.toNat
  let f := r.length.toNat
  let t := r.start.toNat
  { op := 0x0030
    form := h.len == 24 + f && r.frame.length == f && r.reserved == 0 && (31 < r.profile.toNat || frameFits set r.profile.toNat r.frame)
    range := r.band.toNat ≤ 1 && r.timing.toNat ≤ 1 && r.profile.toNat ≤ 31
      && (r.timing != 0 || (s.dtime ≤ t && t ≤ s.dtime + 38400000)) && r.latest.toNat ≤ 19200000
      && powerOk b r.power.toInt && 1 ≤ f && f ≤ (match h.src with | .spi => 4072 | .udp _ _ => 1428)
      && reachable set b r.frequency.toNat
    state := if s.chainIs (bandChain b) .fault || s.synIs (bandSyn b) .lost || s.synIs 1 .lost then some .busy
      else if 16 ≤ (s.txb b).places false then some .busy
      else none
    refusal := txRefusal }

/-- The umpire judges an accepted request, which is then queued or refused (R247, R264). -/
def actTxSubmit (h : Hdr) (r : TxReq) (s : State) : State :=
  match s.txVerdict r with
  | .error (rule, why) => (s.umpireDeny h.tag.toNat rule why).answer h 0x0030 .deniedUmpire (txPayload 0 rule why)
  | .ok (rule, _) => (s.queued h 0x0030 false).enqueueTx (bandOf r.band.toNat) (s.txItem h r rule)

/-- TX_SUBMIT (R247). -/
def execTxSubmit (h : Hdr) (r : TxReq) (s : State) : Out := .next (s.host h 0x0030 (chkTxSubmit h r) (actTxSubmit h r))

/-! ### Course of a transmission (R249 to R252) -/

/-- The transmitter may begin its next item: free, locked or lockable, and its chain not in another transition (R248, R249, R251). -/
def State.txReady (s : State) (b : Band) : Bool :=
  let i := bandChain b
  let free := match (s.txb b).phase with | .idle => true | .idleTx => true | _ => false
  free && (s.synth (bandSyn b)).attempt == 0 && !s.synIs (bandSyn b) .lost && s.synIs 1 .locked
    && (s.chain i).toward.isNone && !s.chainIs i .fault && !(s.synth (bandSyn b)).planned

/-- The transition point of an item: its planned start less the lead time. Where trim is in progress on the chain, the pause is asked for
then, and branch A leaves once the step has ended and what is left of the lead time begins (R249, R251). -/
def State.toTransition (s : State) (b : Band) (x : TxItem) : State :=
  let s1 := s.at (x.planned - s.leadTime b x)
  match s.trim.now with
  | some n => if s.trimHolds b then (s1.at (max (n.stepEnd s1.dtime) (x.planned - usCeil (s.leadUs b x)))) else s1
  | none => s1

/-- TX_TRANSITION_START: at the planned start less the lead time branch A leaves for TRANSMIT, blanking begins, trim pauses
(R108, R109, R249, R251, R252). From SYNTH or RECEIVE branch A enters TRANSMIT; from SLEEP or STANDBY it passes through every state in
between, each at the end of its step (R103). -/
def execTxTransitionStart (b : Band) (s : State) : Out :=
  match (s.txb b).queue with
  | [] => .next s
  | x :: rest =>
    if !s.txReady b then .next s
    else
      let i := bandChain b
      let s1 := s.toTransition b x
      let s2 := s1.onTxb b fun t => { t with queue := rest, item := some x, phase := .transition (max x.planned (s1.dtime + usCeil (s.leadUs b x))), paxTr := true
                                             blankAt := some (t.blankAt.getD s1.dtime), downAt := if t.phase == .idleTx then t.downAt else none }
      let s3 := s2.onChain i fun c => { c with former := if s.chainIs i .transmit then c.former else some (s.chainSt i) }
      let s4 := if 2 ≤ (s.chainSt i).level then (s3.moveChain i .transmit).tuneTx b x.freq else s3.goChain i .transmit
      .next ((s4.trimPause i).followLanes (bandPair b))

/-- TX_RAMP_UP: the duty check is made and the ramp-up begins, or the request is denied; held while lock is missing (R251, R252, R263). -/
def execTxRampUp (b : Band) (s : State) : Out :=
  match (s.txb b).phase, (s.txb b).item with
  | .transition t0, some x =>
    let s1 := s.at (t0 - 768)
    if !(s.synIs (bandSyn b) .locked && s.synIs 1 .locked && s.chainIs (bandChain b) .transmit) || x.latest < s1.dtime + 768 then .next s
    else match s.tx.card.bind fun c => c.ranges[x.rule]? with
    | none => .next s
    | some r =>
      if s1.overDuty x.rule r (x.airtime + 1536) then
        .next (((s1.umpireDeny x.tag.toNat x.rule 3).endItem x .deniedUmpire 3).endRun b)
      else .next ((s1.draw).onTxb b fun t => { t with phase := .ramping s1.dtime, paxEn := s.extGain b != 0, onAir := []
                                                      drive := s1.draw.startDrive b x })
  | _, _ => .next s

/-- Whether the first symbol met the requested start within 1 µs; an ASAP request asks for no instant (R48; log 20). -/
def onTime (x : TxItem) (first : Nat) : Bool := x.kind == .asap || first ≤ x.planned + 38

/-- The key of a reply that is queued or sent now is kept with this instant; the device keeps 256 (R255). -/
def State.noteReply (s : State) (x : TxItem) : State :=
  match x.answers with
  | none => s
  | some k => s.onDir fun d => { d with replyKeys :=
      ((k.1, k.2.1, k.2.2, s.dtime) :: d.replyKeys.filter fun r => !(r.1 == k.1 && r.2.1 == k.2.1 && r.2.2.1 == k.2.2)).take 256 }

/-- TX_FIRST_SYMBOL: radiation starts 20 µs after the ramp-up began, and the final reply goes out (R48, R252). -/
def execTxFirstSymbol (b : Band) (s : State) : Out :=
  match (s.txb b).phase, (s.txb b).item with
  | .ramping at_, some x =>
    let first := at_ + 768
    let s1 := (s.at first).onTxb b fun t => { t with phase := .radiating first, onAir := x.air }
    match x.kind with
    | .auto => .next ((s1.noteReply x).countReply (if onTime x first then 1 else 2))
    | _ => .next (s1.finish x.tag (if onTime x first then .ok else .late) (txPayload first x.rule 0))
  | _, _ => .next s

/-- The next item would begin its transition within 240 µs after the ramp-down (R250). -/
def State.runsOn (s : State) (b : Band) : Bool :=
  match (s.txb b).queue with
  | [] => false
  | x :: _ => decide (x.planned - s.leadTime b x < s.dtime + 9216) && s.chainIs (bandChain b) .transmit

/-- The transmitter after a ramp-down: idle in TRANSMIT for the next item, or the end of the run (R250, R252). -/
def State.afterRamp (s : State) (b : Band) : State :=
  let s := s.onTxb b fun t => { t with downAt := some s.dtime }
  if s.runsOn b && !s.pwr.rfBad && (s.txb b).hopLo.isNone && (s.chain (bandChain b)).former != some .fault then
    s.onTxb b fun t => { t with phase := .idleTx, item := none, reduced := false, paxEn := false }
  else s.endRun b

/-- Branch A idle in TRANSMIT ends its run when no further item is near (R250). -/
def State.endIdle (s : State) (b : Band) : State := if (s.txb b).phase == .idleTx && !s.runsOn b then s.endRun b else s

/-- TX_RAMP_DOWN_COMPLETE: after the last symbol, or 20 µs after a ramp-down was commanded; the radiated time is counted (R243, R252, R263). -/
def execTxRampDownComplete (b : Band) (s : State) : Out :=
  match (s.txb b).phase, (s.txb b).item with
  | .radiating first, some x =>
    let s1 := s.at (first + x.airtime + 768)
    .next ((s1.radiated b x (first - 768) (first + x.airtime + 768)).afterRamp b)
  | .rampingDown at_ first, some x =>
    let s1 := s.at (at_ + 768)
    .next ((s1.radiated b x (first - 768) (at_ + 768)).afterRamp b)
  | _, _ => .next s

/-- The request that reaches its latest start first among those not radiating. -/
def firstToExpire : List TxItem → Option TxItem
  | [] => none
  | x :: l => match firstToExpire l with
    | none => some x
    | some y => if y.latest < x.latest then some y else some x

/-- TX_EXPIRED: a request not started by its latest start ends EXPIRED; reason 4 when lock is missing (R48, R251). -/
def execTxExpired (b : Band) (s : State) : Out :=
  let t := s.txb b
  let reason := if s.synIs (bandSyn b) .locked && s.synIs 1 .locked then 0 else if (s.synIs (bandSyn b) .off) && s.synIs 1 .locked then 0 else 4
  match t.phase, t.item with
  | .transition _, some x => .next (((s.at (x.latest + 1)).endItem x .expired reason).endRun b)
  | _, _ =>
    match firstToExpire t.queue with
    | none => .next s
    | some x =>
      let s1 := (s.at (x.latest + 1)).onTxb b fun t => { t with queue := t.queue.filter fun y => y.order != x.order }
      .next ((s1.endItem x .expired reason).endIdle b)

/-- BLANKING_END: 200 µs after the last ramp-down of the run the lanes return to RUNNING and trim resumes (R109, R110, R250,
R251). -/
def execBlankingEnd (b : Band) (s : State) : Out :=
  match (s.txb b).phase, (s.txb b).blankAt, (s.txb b).downAt with
  | .idle, some t0, some t1 =>
    let s1 := s.at (t1 + 7680)
    let s2 := (s1.noteBlank b t0 s1.dtime).onTxb b fun t => { t with blankAt := none, downAt := none }
    .next ((s2.trimResume (bandChain b)).followLanes (bandPair b))
  | _, _, _ => .next s

/-- RETURN_LOSS_READING: from 3.0 to 6.0 dB the power drops by 6 dB for the rest of the frame; below 3.0 dB the frame ramps down and
EV_TRIM_FAIL reports the tuner item (R97, R259). -/
def execReturnLossReading (b : Band) (tenths : Nat) (s : State) : Out :=
  match (s.txb b).phase with
  | .radiating _ =>
    let v := satTo 300 tenths
    let s1 := s.noteLoss (bandPair b) v
    if v < 30 then
      .next ((s1.rampDown b).raise 0x8003 1 (bandChain b) (le 2 (0x0400 + bandCode b) ++ le 2 0 ++ le 4 v))
    else if v ≤ 60 then .next (s1.onTxb b fun t => { t with reduced := true })
    else .next s1
  | _ => .next s

/-! ### TX_CANCEL (R253) -/

/-- Where the request of a tag stands on a band. -/
inductive TxPlace where
  | queued | moving | radiating | absent
  deriving DecidableEq, Repr

/-- Where a tag's request stands; one that was withdrawn while it ramped up is complete (R253). -/
def State.placeOf (s : State) (b : Band) (tag : U16) : TxPlace :=
  let t := s.txb b
  if t.queue.any fun x => x.kind != .auto && x.tag == tag then .queued
  else if t.item.any fun x => x.kind != .auto && x.tag == tag then
    (match t.phase with
     | .transition _ => .moving
     | .ramping _ => .moving
     | _ => if s.tx.complete.contains tag then .absent else .radiating)
  else .absent

/-- TX_CANCEL on one band: withdraws, ramps down, or nothing (R253). -/
def State.cancelOn (s : State) (b : Band) (tag : U16) : State :=
  let t := s.txb b
  match s.placeOf b tag with
  | .queued =>
    let gone := t.queue.filter fun x => x.kind != .auto && x.tag == tag
    let s1 := s.onTxb b fun t => { t with queue := t.queue.filter fun x => !(x.kind != .auto && x.tag == tag) }
    (s1.each gone fun s x => s.endItem x .expired 0).endIdle b
  | .moving =>
    let s1 := match t.item with | some x => s.endItem x .expired 0 | none => s
    (match t.phase with | .ramping _ => s1.rampDown b | _ => s1.endRun b)
  | .radiating => s.rampDown b
  | .absent => s

/-- The outcome of a TX_CANCEL, none for NOT_FOUND (R253). -/
def State.cancelOutcome (s : State) (tag : U16) : Option Nat :=
  let of (b : Band) : Option Nat := match s.placeOf b tag with
    | .queued => some 0
    | .moving => some 0
    | .radiating => some 1
    | .absent => if s.tx.complete.contains tag then some 2 else none
  match of .h with
  | some n => some n
  | none => of .l

/-- TX_CANCEL (R253). -/
def execTxCancel (h : Hdr) (tag : U16) (s : State) : Out :=
  .next (s.host h 0x0031
    (fun s => { op := 0x0031, form := h.len == 2, range := tag != 0, state := if (s.cancelOutcome tag).isNone then some .notFound else none })
    (fun s =>
      let n := (s.cancelOutcome tag).getD 2
      ((s.cancelOn .h tag).cancelOn .l tag).answer h 0x0031 .ok (le 1 n ++ le 3 0)))

/-! ### RULE_CARD_BURN (R261, R265) -/

/-- One range of a rule card image (R261). -/
def rangeOf (img : Bytes) (i : Nat) : Range :=
  let o := 16 + 16 * i
  { fLow := fieldAt o 4 img, fHigh := fieldAt (o + 4) 4 img, ceiling := signed 16 (fieldAt (o + 8) 2 img), duty := fieldAt (o + 10) 2 img
    band := fieldAt (o + 12) 1 img, maxBurst := fieldAt (o + 14) 2 img }

/-- The form of an image: magic, version, count, CRC-32, reserved content, unused entries (R261, R265). -/
def cardForm (img : Bytes) : Bool :=
  let n := fieldAt 3 1 img
  fieldAt 0 2 img == 0x43A7 && fieldAt 2 1 img == 1 && 1 ≤ n && n ≤ 16 && fieldAt 6 2 img == 0 && fieldAt 12 4 img == 0
    && (List.range n).all (fun i => fieldAt (16 + 16 * i + 13) 1 img == 0)
    && (slice (16 + 16 * n) (16 * (16 - n)) img).all (· == 0)
    && fieldAt 272 4 img == (crc32 (slice 0 272 img)).toNat

/-- A range lies wholly inside one RF range of its band (R88, R265). -/
def inRfRange (r : Range) : Bool :=
  if r.band == 0 then 863000000 ≤ r.fLow && r.fHigh ≤ 928000000
  else (169400000 ≤ r.fLow && r.fHigh ≤ 169800000) || (433050000 ≤ r.fLow && r.fHigh ≤ 434790000)

/-- The limits of R261 on the gains and the ranges. -/
def cardRange (img : Bytes) : Bool :=
  fieldAt 4 1 img ≤ 40 && fieldAt 5 1 img ≤ 40
    && (List.range (fieldAt 3 1 img)).all fun i =>
      let r := rangeOf img i
      r.fLow ≤ r.fHigh && r.duty ≤ 10000 && r.band ≤ 1 && inRfRange r

/-- The card of an image (R261). -/
def cardOf (img : Bytes) : RuleCard :=
  { extH := fieldAt 4 1 img, extL := fieldAt 5 1 img, ranges := (List.range (fieldAt 3 1 img)).map (rangeOf img), crc := crc32 (slice 0 272 img) }

/-- A field-access scope is open (R472). -/
def State.scopeOpen (s : State) (scope : Nat) : Bool := s.boot.scopes.any fun e => e.1 == scope && decide (s.dtime < e.2)

/-- The check of RULE_CARD_BURN in its own order: form, scope, already burnt, image, ranges (R265). `scope` is the
number of the rule-card scope. -/
def burnStatus (form : Bool) (image : Bytes) (s : State) : Option Status :=
  if !form then some .invalidArg
  else if !s.scopeOpen 2 then some .authFail
  else if s.tx.card.isSome || s.tx.cardBad then some .locked
  else if !cardForm image then some .invalidArg
  else if !cardRange image then some .range
  else none

/-- RULE_CARD_BURN: the image is burnt and read back. A mismatch marks the card failed and answers HW_FAULT; whether the read-back matches is a
free value (R265; log 21). -/
def execRuleCardBurn (h : Hdr) (image : Bytes) (s : State) : Out :=
  .next (s.host h 0x0032
    (fun s => { op := 0x0032, form := h.len == 276 && image.length == 276, range := true, state := burnStatus true image s })
    (fun s0 =>
      let s := s0.draw
      if Config.burnReads s0.fresh then
        (s.onTx fun t => { t with card := some (cardOf image) }).answer h 0x0032 .ok (le 4 (crc32 (slice 0 272 image)).toNat)
      else (s.onTx fun t => { t with cardBad := true }).answer h 0x0032 .hwFault []))

end Sys2Proof.Machine
end

