-- ==== Sys2Proof/Machine/Trim.lean ====
section
/-! DEFINITION. Meanings: TRIM_RUN, trim items, rigging surveys and the margin ledger (chapter 17). -/

namespace Sys2Proof.Machine

/-! ### TRIM_RUN (R413) -/

/-- Checks of TRIM_RUN (R46, R413). -/
def chkTrimRun (h : Hdr) (scope mask : U8) (reserved : U16) (s : State) : Check :=
  { op := 0x0080, form := h.len == 4 && reserved == 0 && mask.toNat < 32, range := scope.toNat ≤ 2
    state := if s.trim.run.isSome then some .busy else none }

/-- The items of a TRIM_RUN join the queue behind automatic items that it does not name (R413). -/
def actTrimRun (h : Hdr) (scope mask : U8) (s : State) : State :=
  let items := trimScope scope.toNat mask.toNat
  let s1 := (s.queued h 0x0080 true).progress h.tag 0 items.length
  (s1.onTrim fun t => { t with run := some (h.tag, 0)
                               queue := (t.queue.filter fun q => !items.contains q.1) ++ items.map fun c => (c, true) }).trimNext 32

/-- TRIM_RUN (R413). -/
def execTrimRun (h : Hdr) (scope mask : U8) (reserved : U16) (s : State) : Out :=
  .next (s.host h 0x0080 (chkTrimRun h scope mask reserved) (actTrimRun h scope mask))

/-- TRIM_RUN_DONE: the last selected item has ended and the final reply carries the failed count (R413). -/
def execTrimRunDone (s : State) : Out :=
  match s.trim.run with
  | none => .next s
  | some (tag, bad) =>
    if s.trim.queue.any (·.2) || s.trim.now.any (·.ofRun) then .next s
    else .next ((s.onTrim fun t => { t with run := none }).finish tag .ok (le 4 bad))

/-! ### The end of an item (R416) -/

/-- The unit that EV_TRIM_FAIL and BUMP concern: a chain, the branch A chain of a band, or the TDM port (R416). -/
def trimUnit (code : Nat) : Nat × Nat :=
  match trimChain code with
  | some c => (1, c)
  | none => (4, 4)

/-- The largest of an optional number and another. -/
def maxOpt (a : Option Nat) (b : Nat) : Option Nat := some (max (a.getD 0) b)

/-- RL_LIMIT of a port in 0.1 dB; 0 selects 6 dB (R111). -/
def State.rlLimit (s : State) (u : Nat) : Nat := let x := s.cfgNat 1 (64 * u + 13) 1; (if x == 0 then 6 else x) * 10

/-- The 64 codes of the coarse pass of a tuner search, SERIES and SHUNT, and the codes of the fine pass about the best of them. Within a
pass SERIES rises slowest: the spec gives no order, which only decides ties (R98; log 147). -/
def coarseCodes : List (Nat × Nat) := ((List.range 8).map fun a => (List.range 8).map fun b => (4 * a, 4 * b)).flatten
def fineCodes (best : Nat × Nat) : List (Nat × Nat) :=
  let near (x : Nat) : List Nat := (List.range 32).filter fun y => distance x y ≤ 2
  (((near best.1).map fun a => (near best.2).map fun b => (a, b)).flatten).filter (· != best)

/-- The code with the highest return loss, the one measured first among equals, with its return loss (R98). -/
def bestCode (start : Nat × (Nat × Nat)) (l : List (Nat × (Nat × Nat))) : Nat × (Nat × Nat) :=
  l.foldl (fun m x => if m.1 < x.1 then x else m) start

/-- A tuner search from its return losses in 0.1 dB in the order of measurement: the value and the code it ends with (R98). -/
def tunerSearch (readings : List Int) : Nat × (Nat × Nat) :=
  let r := readings.map fun v => satTo 300 v.toNat
  let coarse := bestCode (0, (0, 0)) (r.zip coarseCodes)
  bestCode coarse ((r.drop 64).zip (fineCodes coarse.2))

/-- The measured value of an item as its end reports it (R98, R409). -/
def trimValue (code : Nat) (value : Int) (codes : List Int) : Int := if code / 256 == 4 then ((tunerSearch codes).1 : Int) else value

/-- The converter values that an item sets (R98, R409). -/
def trimCodes (code : Nat) (codes : List Int) : List Int :=
  if code / 256 == 4 then let t := tunerSearch codes; [(t.2.1 : Int), (t.2.2 : Int)] else codes

/-- An item is plausible, from its value and codes (R409). Of a power-amplifier item the operand says whether the drive for the highest
power is within 95 % of full scale, which no rule lets the model compute. -/
def State.trimPlausible (s : State) (code : Nat) (value : Int) (plausible : Bool) (codes : List Int) : Bool :=
  match code / 256 with
  | 1 => decide ((if code % 256 == 4 then 450 else 650) ≤ value) && codes.all fun c => c != 0 && c != 1023
  | 2 => value.natAbs ≤ 30 && (codes.take 16).all fun c => c.natAbs ≤ 150
  | 3 => value.natAbs ≤ 4 && codes.all fun c => c != 0 && c != 255
  | 4 => s.rlLimit (code % 256) ≤ (tunerSearch codes).1
  | 5 => value.natAbs ≤ 50 && plausible
  | _ => value.natAbs ≤ 200

/-- The item in progress has passed: its values wait for the next catch (R416, R424). -/
def State.trimPass (s : State) (n : TrimNow) (value : Int) (codes : List Int) : State :=
  s.onTrim fun t =>
    let old := findT t.last n.code
    let chg := match old with | some v => (value - v).natAbs | none => 0
    { t with apply := t.apply ++ [(n.code, codes)], passed := putT t.passed n.code (s.dtime, t.dieTemp), last := putT t.last n.code value
             chgImage := if n.code / 256 == 1 && !n.ofRun then maxOpt t.chgImage chg else t.chgImage
             chgGain := if n.code / 256 == 2 && !n.ofRun then maxOpt t.chgGain chg else t.chgGain }

/-- The item in progress has failed: EV_TRIM_FAIL; a tuner item applies its code all the same, any other waits for the catch
with its old values (R98, R415, R416). -/
def State.trimFail (s : State) (n : TrimNow) (value : Int) (codes : List Int) : State :=
  let u := trimUnit n.code
  let s1 := s.onTrim fun t =>
    { t with apply := t.apply ++ [(n.code, if n.code / 256 == 4 then codes else [])], anyFail := t.anyFail || !n.ofRun
             ledger := { t.ledger with trimFails := t.ledger.trimFails + 1 } }
  s1.raise 0x8003 u.1 u.2 (le 2 n.code ++ le 2 0 ++ leI 4 value)

/-- TRIM_ITEM_END: the item in progress passes or fails, and the next starts. The codes of a tuner item are the return losses of its
search, the last of which stays the last measured value (R97, R98, R409, R410, R412, R415, R416). -/
def execTrimItemEnd (value : Int) (plausible : Bool) (codes : List Int) (s : State) : Out :=
  match s.trim.now with
  | none => .next s
  | some n =>
    if n.paused.isSome then .next s
    else
      let ok := s.trimPlausible n.code value plausible codes
      let v := trimValue n.code value codes
      let set := trimCodes n.code codes
      let s1 := (s.onTrim fun t => { t with now := none }).trimDuty n
      let s2 := if ok then s1.trimPass n v set else s1.trimFail n v set
      let s3 := match (if n.code / 256 == 4 then codes.getLast? else none) with
        | some x => s2.noteLoss (n.code % 256) (satTo 300 x.toNat)
        | none => s2
      .next (((s3.trimBlank n ((s.stroke + 1) * strokeLen)).trimStep n.ofRun (!ok)).trimNext 32)

/-- TRIM_PAUSE_FLAG_FALL: an item paused for 10 s ends early (R36, R417). -/
def execTrimPauseFlagFall (s : State) : Out :=
  match s.trim.now with
  | some n =>
    match n.paused with
    | some t => .next (((s.at (t + 10 * sec)).flagFall 0x07 n.code).trimAbort)
    | none => .next s
  | none => .next s

/-! ### Application at a catch (R96, R409, R416, R421) -/

/-- Values of passed items are applied at a catch as one step, with BUMP on the unit's state word; lanes may run again (R415, R416). -/
def State.applyTrim (s : State) : State :=
  let l := s.trim.apply
  if l.isEmpty then s
  else
    let s1 := s.onTrim fun t => { t with apply := [], values := l.foldl (fun v a => if a.2.isEmpty then v else putT v a.1 a.2) t.values }
    let s2 := s1.each l fun s a =>
      if a.2.isEmpty then s
      else
        let u := trimUnit a.1
        let s3 := match s.wordOf u.1 u.2 with | some w => s.setWord u.1 u.2 (w.bump s.dtime) | none => s
        if a.1 / 256 == 4 && s3.tunerFixed (u.2 / 2) then s3
        else if a.1 / 256 == 4 then s3.setTuner (u.2 / 2) ((a.2.getD 0 0).toNat % 32) ((a.2.getD 1 0).toNat % 32)
        else if a.1 / 256 == 6 then s3.onClk fun c => { c with coarse := (a.2.getD 0 0).toNat % 64 }
        else s3
    s2.followAll

/-! ### Rigging (R420 to R428) -/

/-- The first DTIME at which the model gives a UTC (R282). -/
def TimeD.dtimeOf (m : TimeD) (utc : Int) : Nat :=
  (m.d0 + Int.tdiv ((utc - m.u0) * 3000000000000000 + 78125 * (1000000000000 + m.r) - 1) (78125 * (1000000000000 + m.r))).toNat

/-- The DTIME at which the next daily survey falls due: RIG_TIME of the UTC day, else 86,400 s after the previous one (R419, R420). -/
def State.rigDue (s : State) : Nat :=
  let rig := s.cfgNat 11 8 2
  if s.utcKnown && rig != 0xFFFF then
    let day : Int := 86400000000000
    let u := s.time.utcOf s.trim.dailyAt
    let today := u - u % day + (rig : Int) * 60000000000
    s.time.dtimeOf (if u < today then today else today + day)
  else s.trim.dailyAt + 86400 * sec

/-- RIGGING_SURVEY_START: the daily survey falls due and starts in ROW or PADDLE (R418, R420). -/
def execRiggingSurveyStart (s : State) : Out :=
  if s.trim.survey.isSome || !(s.pwr.st == .row || s.pwr.st == .paddle) then .next s
  else
    let s1 := s.at s.rigDue
    .next (s1.onTrim fun t => { t with survey := some 0, surveyDone := 0, surveyAt := s1.dtime, dailyAt := s1.dtime })

/-- The ledger floor from a survey base: FLOOR_ADD added, rounded up to 5 mV, at least 650 mV (R423). -/
def ledgerFloor (base add : Nat) : Nat := max 650 (ceilDiv (base + add) 5 * 5)

/-- The planned trim interval after a survey (R424). -/
def planInterval (old : Nat) (image gain : Option Nat) (anyFail : Bool) : Nat :=
  let i := image.getD 0
  let g := gain.getD 0
  if anyFail || 10 < i || 15 < g then max 6 (old / 2)
  else if image.isNone && gain.isNone then old
  else if i < 1 && g < 3 then min 168 (old * 2)
  else old

/-- The slope of a straight line through (hour, drift) points, per year of 8,760 h (R427). -/
def driftSlope (l : List (Nat × Int)) : Int :=
  let n : Int := l.length
  let sx := sumI (l.map fun e => (e.1 : Int))
  let sy := sumI (l.map (·.2))
  let d := n * sumI (l.map fun e => (e.1 : Int) * e.1) - sx * sx
  if d ≤ 0 then 0 else Int.tdiv ((n * sumI (l.map fun e => (e.1 : Int) * e.2) - sx * sy) * 8760) d

/-- Set or clear a flag bit. -/
def flagBit (on : Bool) (i : Nat) : U16 := if on then 1#16 <<< i else 0

/-- Lowest cache margin and entries to be re-planned of a synthesiser (R426, R429). -/
def vcoOf (x : Synth) : Nat × Nat :=
  ((x.cache.map (·.margin)).foldl min 100, if 8 < x.relocks then x.cache.length else (x.cache.filter fun e => e.margin < 10).length)

/-- The required headroom in 0.1 dB (R419). -/
def State.paHead (s : State) : Nat := let x := s.cfgNat 11 11 1; (if x == 0 then 2 else x) * 5

/-- One amplifier entry after a survey: headroom, and the bias raised by one code when headroom is short (R425). -/
def State.paPlan (s : State) (planOff : Bool) (old : Int × Nat) (headroom : Int) : Int × Nat :=
  (headroom, if decide (headroom < s.paHead) && !planOff && old.2 < 31 then old.2 + 1 else old.2)

/-- The headroom is short and the bias at its highest code (R425). -/
def State.paLow (s : State) (old : Int × Nat) (headroom : Int) : Bool := decide (headroom < s.paHead) && 31 ≤ old.2

/-- The ledger after a survey (R423 to R429). -/
def State.surveyLedger (s : State) (ring : List Int) (base : Nat) (headroom : List Int) (coreMv : Nat) : Ledger :=
  let l := s.trim.ledger
  let off := s.cfgBit 11 10 7
  let vbase := if s.trim.firstSurvey then base else max l.vbase base
  let floor := ledgerFloor vbase (s.cfgNat 11 7 1)
  let slack := (List.range 12).map fun i => ring.getD i 0
  let first := l.ringFirst.getD slack
  let drift := Int.tdiv s.time.rEst 1000
  let hour := s.dtime / (3600 * sec)
  let drifts := if s.time.fit.isSome then ((hour, drift) :: l.drifts).take 30 else l.drifts
  let vcos := (List.range 6).map fun y => let v := vcoOf (s.synth y); (v.1, if off then 0 else v.2)
  let now := if s.time.fit.isSome then drift else l.drift
  let v := s.trim.service
  let equiv := l.equivHours.toNat + v.equiv / 4294967296
  let pas := (List.range 2).map fun u => s.paPlan off (l.pa.getD u (0, 0)) (headroom.getD u 0)
  let low := (List.range 2).any fun u => s.paLow (l.pa.getD u (0, 0)) (headroom.getD u 0)
  { l with
    lastSurvey := s.dtime, surveys := l.surveys + 1
    vfloor := floor, vcore := coreMv, tempMax := s.trim.tempMax
    flags := flagBit (decide (l.vfloor < floor)) 0 ||| flagBit (decide (850 < floor)) 1 ||| flagBit low 2
      ||| flagBit (vcos.any fun v => v.2 != 0) 3 ||| flagBit (decide (10000 < now.natAbs)) 4 ||| flagBit s.time.fit.isNone 5 ||| flagBit off 6
    ring := List.zipWith (fun a b => (a, a - b)) slack first, ringFirst := some first
    pa := pas
    vco := vcos, drift := now, slope := if s.time.fit.isSome then driftSlope drifts else l.slope, drifts := drifts
    interval := planInterval l.interval s.trim.chgImage s.trim.chgGain s.trim.anyFail
    hours := l.hours + BitVec.ofNat 32 v.hours, equivHours := BitVec.ofNat 32 equiv
    lifeUsed := min 65535 ((equiv * 4294967296 + v.equiv % 4294967296) * 10000 / (175200 * 4294967296)), vbase := vbase }

/-- `n` more parts of the survey are done, one after the other, as far as the one before the last (R65, R420). -/
def State.surveySteps (s : State) : (n : Nat) → State
  | 0 => s
  | n + 1 =>
    match s.trim.survey with
    | none => s
    | some tag =>
      let d := s.trim.surveyDone
      if 4 ≤ d then s
      else
        let s1 := if tag == 0 then s.progressEvent 0 0x0002 d (d + 1) 5 else s.progress tag (d + 1) 5
        (s1.onTrim fun t => { t with surveyDone := d + 1, surveyAt := s.dtime }).surveySteps n

/-- EV_TRIM_FAIL of a survey's own items, with the device as unit (R423, R425, R427). -/
def State.surveyFail (s : State) (on : Bool) (item : Nat) (value : Int) : State :=
  if on then s.pushEvent 0x8003 0 0 0 (le 2 item ++ le 2 0 ++ leI 4 value) else s

/-- The ledger is written to the copy that is not the latest (R422, R452). -/
def State.storeLedger (s : State) : State :=
  s.onBoot fun b =>
    match b.ledger0, b.ledger1 with
    | none, _ => { b with ledger0 := some ((match b.ledger1 with | some x => x.1 + 1 | none => 1), s.trim.ledger) }
    | some x, none => { b with ledger1 := some (x.1 + 1, s.trim.ledger) }
    | some x, some y =>
      if y.1.toNat < x.1.toNat then { b with ledger1 := some (x.1 + 1, s.trim.ledger) } else { b with ledger0 := some (y.1 + 1, s.trim.ledger) }

/-- RIGGING_SURVEY_END: the five steps are complete; the ledger is recorded and written, and the re-plans wait for the catch (R420 to R428). -/
def execRiggingSurveyEnd (ring : List Int) (vbase : Nat) (headroom : List Int) (coreMv : Nat) (s : State) : Out :=
  match s.trim.survey with
  | none => .next s
  | some tag =>
    let old := s.trim.ledger
    let new := s.surveyLedger ring vbase headroom coreMv
    let s1 := s.surveySteps 4
    let s2 := s1.onTrim fun t =>
      { t with ledger := new, survey := none, replan := some (s.cfgBit 11 10 7), firstSurvey := false, anyFail := false
               chgImage := none, chgGain := none, tempMax := t.dieTemp
               service := { t.service with hours := 0, equiv := t.service.equiv % 4294967296 } }
    let s3 := (s2.surveyFail (decide (850 < new.vfloor)) 0x1000 new.vfloor)
    let s4 := s3.each [0, 1] fun s u =>
      s.surveyFail (s.paLow (old.pa.getD u (0, 0)) (headroom.getD u 0)) (0x1100 + u) (headroom.getD u 0)
    let s5 := s4.surveyFail (decide (10000 < new.drift.natAbs) && s.time.fit.isSome) 0x1200 new.drift
    let s6 := s5.each [0, 1] fun s u =>
      let c := s.chain (2 * u)
      if decide (old.lastSurvey < c.rlAt) && decide (c.rl < s.rlLimit u) then s.trimAuto [0x0400 + u] false else s
    let s7 := s6.storeLedger
    .next (if tag == 0 then s7 else s7.finish tag .ok [])

/-- The re-plans of a survey take effect at the first catch after it (R421, R423, R426). -/
def State.applyPlan (s : State) : State :=
  match s.trim.replan with
  | none => s
  | some off =>
    let s1 := (s.onTrim fun t => { t with replan := none }).changeVolt
    if off then s1.each [0, 1, 2, 3, 4, 5] fun s y => s.onSynth y fun x => { x with relocks := 0 }
    else s1.each [0, 1, 2, 3, 4, 5] fun s y => s.onSynth y fun x =>
      { x with cache := if 8 < x.relocks then [] else x.cache.filter fun e => 10 ≤ e.margin, research := 8 < x.relocks, relocks := 0 }

/-! ### RIGGING_REPORT (R429) -/

/-- The ledger as 256 bytes (R429). -/
def Ledger.bytes (l : Ledger) : Bytes :=
  le 8 l.lastSurvey ++ le 4 l.surveys.toNat ++ le 4 l.relocks.toNat ++ le 2 l.vfloor ++ le 2 l.vcore ++ leI 2 l.tempMax ++ le 2 l.flags.toNat
    ++ (l.ring.map fun r => leI 2 r.1 ++ leI 2 r.2).flatten ++ (l.pa.map fun p => leI 2 p.1 ++ le 1 p.2 ++ le 1 0).flatten
    ++ (l.rl.map fun r => le 2 r.1 ++ le 2 0 ++ le 8 r.2).flatten ++ (l.vco.map fun v => le 1 v.1 ++ le 1 v.2).flatten
    ++ leI 4 l.drift ++ leI 4 l.slope ++ le 2 l.interval ++ le 2 0 ++ le 4 l.patrolFails.toNat ++ le 4 l.lastFail.toNat
    ++ le 4 l.trimFails.toNat ++ le 4 l.hours.toNat ++ le 4 l.equivHours.toNat ++ le 2 l.lifeUsed ++ le 2 l.vbase ++ le 104 0

/-- Checks of RIGGING_REPORT (R46, R420). -/
def chkRigging (h : Hdr) (kind : U8) (s : State) : Check :=
  { op := 0x0081, form := h.len == 1, range := kind.toNat ≤ 1, state := if kind == 1 && s.trim.survey.isSome then some .busy else none }

/-- What RIGGING_REPORT does: kind 0 answers with the ledger, kind 1 starts a survey (R420, R429). -/
def actRigging (h : Hdr) (kind : U8) (s : State) : State :=
  if kind == 0 then s.answer h 0x0081 .ok s.trim.ledger.bytes
  else ((s.queued h 0x0081 true).progress h.tag 0 5).onTrim fun t => { t with survey := some h.tag, surveyDone := 0, surveyAt := s.dtime }

/-- RIGGING_REPORT of kind 0 (R429). -/
def execRiggingReportRead (h : Hdr) (kind : U8) (s : State) : Out := .next (s.host h 0x0081 (chkRigging h kind) (actRigging h kind))

/-- RIGGING_REPORT of kind 1 (R420). -/
def execRiggingReportSurvey (h : Hdr) (kind : U8) (s : State) : Out := .next (s.host h 0x0081 (chkRigging h kind) (actRigging h kind))

end Sys2Proof.Machine
end

