-- ==== Sys2Proof/Machine/Host.lean ====
section
/-! DEFINITION. Meanings: status commands, timeouts, the SPI mailbox, UDP, the console, the PHY and the delivery stream (chapter 2, R34 to R36). -/

namespace Sys2Proof.Machine

/-! ### PING, GET_INFO, GET_STATUS, OP_PROGRESS (R46, R47, R65) -/

/-- PING returns its bytes (R46). -/
def execPing (h : Hdr) (data : Bytes) (s : State) : Out :=
  .next (s.host h 0x0001
    (fun _ => { op := 0x0001, form := h.len == data.length, range := h.len ≤ payloadLimit h.src, state := none })
    fun s => s.answer h 0x0001 .ok data)

/-- The GET_INFO payload (R46). -/
def State.info (s : State) : Bytes :=
  le 2 s.boot.devId.toNat ++ le 1 s.boot.stepping.toNat ++ le 1 1 ++ le 4 (if s.boot.recovery then 0 else s.boot.fwVersion.toNat)
    ++ le 4 s.boot.secVersion.toNat ++ le 4 s.dir.dramMib ++ le 8 s.boot.serial.toNat ++ le 4 s.capacity
    ++ le 1 (s.cfgNat 13 0 1 / 64 * 64) ++ le 1 (b2n (s.tx.card.isSome || s.tx.cardBad)) ++ le 2 0

/-- GET_INFO (R46). -/
def execGetInfo (h : Hdr) (s : State) : Out :=
  .next (s.host h 0x0002 (fun _ => { op := 0x0002, form := h.len == 0, range := true, state := none }) fun s => s.answer h 0x0002 .ok s.info)

/-- The GET_STATUS payload (R47). -/
def State.status (s : State) : Bytes :=
  let c := s.cnt
  le 8 s.dtime ++ le 8 (s.utcField s.dtime) ++ le 1 s.boot.cause.code ++ le 1 s.pwr.st.code ++ le 1 s.time.inUse ++ le 1 s.cfg.genAct.toNat
    ++ le 4 s.dlv.nextSeq.toNat ++ le 4 s.dlv.queue.length ++ le 4 s.dlv.credit ++ le 4 c.behind.toNat ++ le 4 c.ctxOverrun.toNat
    ++ (c.crewMissed.map fun x => le 4 x.toNat).flatten ++ le 4 c.workSkipped.toNat ++ le 4 c.gambitRefused.toNat
    ++ le 4 c.sweepSkipped.toNat ++ le 4 c.gambitReleased.toNat ++ le 4 c.streamsDiscarded.toNat ++ le 4 c.queueDrops.toNat
    ++ le 4 c.msgsDiscarded.toNat ++ le 4 c.eventsLost.toNat ++ leI 2 s.trim.dieTemp ++ le 2 0

/-- The counters that flag bit 0 of GET_STATUS clears (R47, R213, R222, R257, R316, R408). -/
def State.clearCounters (s : State) : State :=
  let s1 := s.onCnt fun c =>
    { c with behind := 0, ctxOverrun := 0, crewMissed := List.replicate 8 0, workSkipped := 0, gambitRefused := 0, sweepSkipped := 0
             gambitReleased := 0, streamsDiscarded := 0, queueDrops := 0, msgsDiscarded := 0, eventsLost := 0 }
  let s2 := (s1.onCap fun _ => { spillPeak := BitVec.ofNat 32 (s.rx.spill / 1024) }).onEng fun _ => {}
  let s3 := (s2.onTx fun t => { t with replies := List.replicate 7 0 }).onMem fun m => { m with counters := List.replicate 10 0 }
  let s4 := s3.each [0, 1, 2, 3] fun s g =>
    s.onGroup g fun x => { x with dropSamples := 0, stalls := 0, stallSamples := 0, rateFaults := 0 }
  s4.onTdm fun t => { t with underrun := 0, overflow := 0, slips := 0, restarts := 0, invalidWords := 0, fsErrors := 0 }

/-- GET_STATUS answers with the counters and clears them on request (R47). -/
def execGetStatus (h : Hdr) (flags : U32) (s : State) : Out :=
  .next (s.host h 0x0003 (fun _ => { op := 0x0003, form := h.len == 4 && flags.toNat ≤ 1, range := true, state := none }) fun s =>
    let s1 := s.answer h 0x0003 .ok s.status
    if flags == 1 then s1.clearCounters else s1)

/-- Steps done and in all of an internal operation that runs (R65). -/
def State.internalOp (s : State) (code : Nat) : Option (Nat × Nat) :=
  match code with
  | 1 => s.mem.sweep.map fun x => (x.1, x.2.1)
  | 2 => if s.trim.survey == some 0 then some (s.trim.surveyDone, 5) else none
  | 3 => if s.str.leak.run.isSome then some (s.str.leak.done, s.str.leak.total) else none
  | _ => none

/-- What OP_PROGRESS finds: opcode or internal code, steps done and in all (R65). -/
def State.opProgress (s : State) (tag code : U16) : Option (Nat × Nat × Nat) :=
  if tag == 0 then (s.internalOp code.toNat).map fun p => (code.toNat, p.1, p.2)
  else match s.outstanding tag with
    | some t => if t.long then some (t.opcode, t.done, t.total) else none
    | none => none

/-- OP_PROGRESS (R65). -/
def execOpProgress (h : Hdr) (tag code : U16) (s : State) : Out :=
  .next (s.host h 0x00C0
    (fun s => { op := 0x00C0, form := h.len == 4, range := true, state := if (s.opProgress tag code).isNone then some .notFound else none })
    fun s => match s.opProgress tag code with
      | some (c, d, t) => s.answer h 0x00C0 .ok (le 2 tag.toNat ++ le 2 c ++ le 2 (progressOf d t) ++ le 2 0 ++ le 4 d ++ le 4 t)
      | none => s)

/-! ### Delivery commands (R32, R61) -/

/-- An acknowledgement over UDP: records up to `ack` leave; a grant that lags behind the highest sent asks for a resend (R61). -/
def State.ackUpTo (s : State) (ack : U32) : State :=
  match s.dlv.queue.find? (·.sent), s.dlv.highSent with
  | some o, some hi =>
    if (hi - o.seq).toNat < (ack - o.seq).toNat then s
    else
      let s1 := s.acknowledge fun q => q == ack || seqBelow q ack
      let s2 := s1.onDlv fun d => { d with ackAt := if d.queue.any (·.sent) then some s.dtime else none }
      if seqBelow ack hi then s2.resendAll fun q => seqBelow ack q else s2
  | _, _ => s

/-- CREDIT_GRANT adds credit, sets the endpoint and acknowledges; its reply comes before the batches it releases (R32, R59, R61). -/
def execCreditGrant (h : Hdr) (grant ack flags : U32) (s : State) : Out :=
  .next (s.host h 0x0050
    (fun s => { op := 0x0050, form := h.len == 12 && flags.toNat ≤ 1, range := s.dlv.credit + grant.toNat ≤ 16777215, state := none })
    fun s =>
      let s1 := (s.onDlv fun d => { d with credit := d.credit + grant.toNat }).setEndpoint h.src
      let s2 := if flags == 1 && h.src != .spi then s1.ackUpTo ack else s1
      (s2.answer h 0x0050 .ok (le 4 s2.dlv.credit ++ le 4 s2.dlv.queue.length ++ le 4 s2.dlv.nextSeq.toNat)).pump)

/-- BATCH_CLOSE: the hold time of the open batch has passed (R60). -/
def execBatchClose (s : State) : Out :=
  match s.dlv.batch with
  | none => .next s
  | some b => .next (s.at (b.opened + s.cfgNat 10 1 1 * ms)).closeBatch

/-- RESEND_TIMEOUT: 200 ms without an advancing CREDIT_GRANT over UDP (R61). -/
def execResendTimeout (s : State) : Out :=
  match s.links.endpoint, s.dlv.ackAt with
  | some (.udp _ _), some t =>
    if s.dlv.queue.any (·.sent) then
      let s1 := s.at (t + 200 * ms)
      .next (((s1.resendAll fun _ => true).onDlv fun d => { d with ackAt := some s1.dtime }).pump)
    else .next s
  | _, _ => .next s

/-! ### Placing messages (R37, R38, R54) -/

/-- The first waiting message of a kind for a transport, and the rest. -/
def takeFirst (p : OutMsg → Bool) : List OutMsg → Option (OutMsg × List OutMsg)
  | [] => none
  | m :: l => if p m then some (m, l) else (takeFirst p l).map fun r => (r.1, m :: r.2)

/-- A destination on the transport. -/
def onTransport (udp : Bool) : Src → Bool
  | .spi => !udp
  | .udp _ _ => udp

/-- The message of highest precedence that waits for a transport, with its destination and the links without it (R54, R59). -/
def State.nextOut (s : State) (udp : Bool) : Option (OutMsg × Src × Links) :=
  let l := s.links
  let kind (k : MsgKind) (m : OutMsg) : Bool := m.kind == k && onTransport udp m.dst
  match takeFirst (kind .reply) l.waiting with
  | some (m, w) => some (m, m.dst, { l with waiting := w })
  | none =>
    match l.events, s.eventRoute with
    | e :: rest, some dst =>
      if onTransport udp dst then
        some ({ e with flags := if l.evLost then 0x0400 else 0 }, dst, { l with events := rest, evLost := false })
      else (takeFirst (kind .batch) l.waiting).map fun r => (r.1, r.1.dst, { l with waiting := r.2 })
    | _, _ => (takeFirst (kind .batch) l.waiting).map fun r => (r.1, r.1.dst, { l with waiting := r.2 })

/-- Bytes in the outbound FIFO (R50). -/
def fifoFill (l : List FifoMsg) : Nat := (l.map fun m => m.left.length).sum

/-- OUTBOUND_PLACE: a whole waiting message goes into the outbound FIFO when it fits, or out over UDP; an event so sent has its console
line (R54, R55, R58). -/
def execOutboundPlace (udp : Bool) (s : State) : Out :=
  if !s.links.ready || !(if udp then s.udpOn else s.spiOn) then .next s
  else match s.nextOut udp with
    | none => .next s
    | some (m, dst, l) =>
      if udp then .next (((s.onLinks fun _ => { l with seqUdp := l.seqUdp + 1 }).sendEth dst (encodeMsg m l.seqUdp)).eventLine m)
      else
        let b := encodeMsg m l.seqSpi
        if 16384 < fifoFill l.outFifo + b.length then .next s
        else
          let x : FifoMsg := { left := b, recs := m.recs, ctl := m.kind != .batch }
          let s1 := s.onLinks fun _ => { l with seqSpi := l.seqSpi + 1, outFifo := l.outFifo ++ [x] }
          .next ((if l.outFifo.isEmpty then s1.setIrq 2 else s1).eventLine m)

/-! ### SPI mailbox (R49 to R53) -/

/-- The outbound FIFO as the host may read it: with SPI_OFF, OUT_AVAIL and OUT_NEXT read 0 and MBX_OUT gives 0x00 (R56). -/
def State.outSeen (s : State) : List FifoMsg := if s.spiOn then s.links.outFifo else []

/-- IN_FREE: free bytes in the inbound FIFO (R50). -/
def State.inFree (s : State) : Nat := 8192 - s.links.inFifo.length

/-- OUT_NEXT: bytes of the next outbound message not yet read (R50). -/
def State.outNext (s : State) : Nat := match s.outSeen with | m :: _ => m.left.length | [] => 0

/-- SPI_STATUS (R51). -/
def State.spiStatus (s : State) : Nat :=
  128 * b2n s.links.ready + 64 * b2n s.links.ethUp + 8 * b2n (s.outNext != 0) + 4 * b2n (decide (4116 ≤ s.inFree))

/-- The 16-bit mailbox register at an even address; an unmapped address and the write-only MBX_IN read 0 (R13, R49, R50). -/
def State.spiReg (s : State) (a : Nat) : Nat :=
  match a with
  | 0x0 => 0x7216
  | 0x2 => s.spiStatus
  | 0x4 => s.links.irq.toNat
  | 0x6 => s.links.irqEn.toNat
  | 0x8 => s.inFree
  | 0xA => fifoFill s.outSeen
  | 0xC => s.outNext
  | _ => 0

/-- What `n` data bytes of an SPI read at a register address give: the address advances by one for each byte (R49, R50). A read changes
nothing, but at MBX_OUT, which is the command MBX_OUT_READ. -/
def State.spiRead (s : State) (a n : Nat) : Bytes := (List.range n).map fun i => (le 2 (s.spiReg ((a + i) / 2 * 2))).getD ((a + i) % 2) 0

/-- MBX_IN_WRITE; the bits of a partial byte at its end are discarded (R49, R50, R53, R56). -/
def execMbxInWrite (data : Bytes) (_partial : Fin 8) (endsTxn : Bool) (s : State) : Out :=
  if data.isEmpty then .next (s.onLinks fun l => { l with inDrop := l.inDrop && !endsTxn })
  else if !s.spiOn || !s.links.ready then .next ((s.onLinks fun l => { l with inDrop := l.inDrop && !endsTxn }).setIrq 0x8)
  else if s.links.inDrop then .next ((s.onLinks fun l => { l with inDrop := !endsTxn }).setIrq 0x8)
  else
    let before := (splitFifo 512 s.links.inFifo).1.length
    let s1 := s.onLinks fun l => { l with inFifo := l.inFifo ++ data.take s.inFree }
    let s2 := if s.inFree < data.length then s1.setIrq 0x4 else s1
    .next (s2.scanFifo before endsTxn)

/-- Bytes read from the outbound FIFO: what remains, and the records of the messages read to their end (R50, R61). -/
def readFifo : (n : Nat) → List FifoMsg → List FifoMsg × List U32
  | _, [] => ([], [])
  | n, m :: l =>
    if n < m.left.length then ({ m with left := m.left.drop n } :: l, [])
    else
      let r := readFifo (n - m.left.length) l
      (r.1, m.recs ++ r.2)

/-- The bytes that `n` reads of MBX_OUT give: those of the FIFO, and 0x00 once it is empty (R50). -/
def fifoBytes (n : Nat) (l : List FifoMsg) : Bytes := slice 0 n (l.map (·.left)).flatten

/-- MBX_OUT_READ: bytes leave the FIFO and are driven on the SPI lines; a batch read to its last byte is acknowledged (R50, R56, R61). -/
def execMbxOutRead (n : Nat) (s : State) : Out :=
  let s0 := s.onLinks fun l => { l with spiOut := fifoBytes n s.outSeen }
  if !s.spiOn then .next s0
  else
    let r := readFifo n s.links.outFifo
    let s1 := s0.onLinks fun l => { l with outFifo := r.1 }
    if r.2.isEmpty then .next s1
    else
      let s2 := s1.acknowledge fun q => r.2.contains q
      .next (s2.onDlv fun d => { d with ackAt := if d.queue.any (·.sent) then some s.dtime else none })

/-- SPI_IRQ_CLEAR: ones clear latched causes (R52). -/
def execSpiIrqClear (v : U16) (s : State) : Out := .next ((s.onLinks fun l => { l with irq := l.irq &&& ~~~v }).refreshIrq)

/-- SPI_UNKNOWN_COMMAND has no effect (R49). -/
def execSpiUnknownCommand (_cmd : U8) (_data : Bytes) (s : State) : Out := .next s

/-- SPI_MESSAGE_FLAG_FALL: a message not completed within 10 ms is discarded (R35, R36, R495). -/
def execSpiMessageFlagFall (s : State) : Out :=
  match s.links.partialAt with
  | none => .next s
  | some t =>
    let r := splitFifo 512 s.links.inFifo
    .next (((s.at (t + 10 * ms)).onLinks fun l => { l with inFifo := r.1, partialAt := none }).flagFall 0x01 r.2.1.length)

/-- MESSAGE_DISCARDED (R39, R53). -/
def execMessageDiscarded (src : Src) (_why : Discard) (s : State) : Out :=
  if s.links.ready && s.reachable src then .next (s.discard src) else .next s

/-! ### Ethernet (R35, R55 to R57) -/

/-- PD_NET is up: the device receives frames (R431, R434). -/
def State.netUp (s : State) : Bool := s.pwr.st.code ≤ 2 && s.links.ethUp

/-- UDP_DATAGRAM: a frame is dropped, or wakes the device, and its message is discarded, refused or left to the command row it spells (R39, R55, R56, R434). -/
def execUdpDatagram (d : Datagram) (s : State) : Out :=
  if !s.netUp then .next s
  else if !d.fcsOk then .next (s.onCnt fun c => { c with ethBad := c.ethBad + 1 })
  else if !s.udpOn || d.dstPort.toNat != s.cfgNat 10 2 2 then .next s
  else
    let src : Src := .udp d.srcIp d.srcPort
    let s1 := s.wake true
    let drop := s1.onCnt fun c => { c with msgsDiscarded := c.msgsDiscarded + 1 }
    if d.fragmented || (!s.onSubnet d.srcIp.toNat && s.cfgNat 10 8 4 == 0) then .next drop
    else if !s.links.ready then .next s1
    else match headOf 1452 d.payload with
      | .whole n =>
        if n != d.payload.length then .next drop
        else if knownOpcode (fieldAt 4 2 d.payload) then .next s1
        else .next (s1.refuseUnknown src d.payload)
      | _ => .next drop

/-- The 16-bit sum in one's complement of the big-endian words of a byte string (R55: the checksum of ICMP). -/
def onesSum : Bytes → Nat
  | [] => 0
  | [a] => a.toNat * 256
  | a :: b :: l => let t := a.toNat * 256 + b.toNat + onesSum l; t % 65536 + t / 65536

/-- The answer to an ICMP echo request: type 0, the checksum formed again, identifier, sequence and data as they came (R55; log 156). -/
def icmpEcho (q : Bytes) : Option Bytes :=
  if q.length < 8 || fieldAt 0 2 q != 0x0008 || onesSum q != 0xFFFF then none
  else
    let b := [0, 0, 0, 0] ++ q.drop 4
    some ([0, 0] ++ be 2 (65535 - onesSum b) ++ q.drop 4)

/-- The answer to an ARP request for IPv4 over Ethernet that asks for the device's address: operation 2, the device's addresses as
sender, the asker's as target (R55; log 156). -/
def State.arpAnswer (s : State) (q : Bytes) : Option Bytes :=
  let own := be 4 (s.cfgNat 10 4 4)
  if q.length < 28 || slice 0 8 q != [0, 1, 8, 0, 6, 4, 0, 1] || slice 24 4 q != own then none
  else some ([0, 1, 8, 0, 6, 4, 0, 2] ++ s.ownMac ++ own ++ slice 8 10 q)

/-- ARP_ICMP_REPLY: the device answers an ARP request for its address, or an ICMP echo request to it; the frame has no UDP port, which 0
stands for (R55). -/
def execArpIcmpReply (icmp : Bool) (ip : U32) (request : Bytes) (s : State) : Out :=
  if !s.netUp || !s.udpOn then .next s
  else match (if icmp then icmpEcho request else s.arpAnswer request) with
    | some b => .next (s.sendEth (.udp ip 0) b)
    | none => .next s

/-- The device manages the PHY (R57). -/
def State.phyManaged (s : State) : Bool := s.cfgNat 10 13 1 ≤ 31

/-- The MDIO writes of R57: no 10 or 100 Mbit/s ability, 1000BASE-T full duplex, auto-negotiation restarted. -/
def State.phyStart (s : State) : State :=
  if s.phyManaged then s.onLinks fun l => { l with mdio := [(0, 0x1200), (9, 0x0200), (4, 0x0001)] ++ l.mdio } else s

/-- ETH_UP follows the link and ETH_REFCLK, or ETH_REFCLK alone (R57). -/
def State.refreshEth (s : State) : State :=
  s.onLinks fun l => { l with ethUp := l.refclk && (!s.phyManaged || l.phyLink) }

/-- PHY_LINK_POLL: bit 2 of register 1, when the PHY drives MDIO (R57). -/
def execPhyLinkPoll (driven : Bool) (reg1 : U16) (s : State) : Out :=
  if s.phyManaged then .next ((s.onLinks fun l => { l with phyLink := driven && reg1.getLsbD 2 }).refreshEth) else .next s

/-- ETH_REFCLK_FLAG_FALL (R35, R36). -/
def execEthRefclkFlagFall (s : State) : Out :=
  if s.links.refclk then .next (((s.onLinks fun l => { l with refclk := false, phyLink := false }).refreshEth).flagFall 0x09 0) else .next s

/-- ETH_REFCLK_RETURN (R57). -/
def execEthRefclkReturn (s : State) : Out :=
  if s.links.refclk then .next s else .next (((s.onLinks fun l => { l with refclk := true }).phyStart).refreshEth)

/-! ### Console (R58) -/

/-- The counters of R47 as a console line. -/
def State.counterLine (s : State) : String :=
  let c := s.cnt
  String.intercalate " " ([c.behind, c.ctxOverrun].map (fun x : U32 => toString x.toNat) ++ c.crewMissed.map (fun x : U32 => toString x.toNat)
    ++ [c.workSkipped, c.gambitRefused, c.sweepSkipped, c.gambitReleased, c.streamsDiscarded, c.queueDrops, c.msgsDiscarded,
        c.eventsLost].map fun x : U32 => toString x.toNat)

/-- Bit `k` of a UART frame, sampled 16 times a bit from the fall of its start bit on: the majority of samples 7, 8 and 9 (R35; log 157). -/
def uartBit (l : List Bool) (k : Nat) : Bool := decide (2 ≤ (((l.drop (16 * k + 7)).take 3).filter id).length)

/-- A start bit lasts for half a bit at least (R35). -/
def uartStarts (l : List Bool) : Bool := (l.take 8).all (!·) && !uartBit l 0

/-- The byte of a UART frame, its first data bit least (R478). -/
def uartByte (l : List Bool) : Nat := ((List.range 8).map fun i => 2 ^ i * b2n (uartBit l (i + 1))).sum

/-- UART_RX_BYTE: a start bit too short is ignored, a badly framed byte counted, a carriage return asks for the counters, other bytes are
dropped (R35, R58). -/
def execUartRxByte (samples : List Bool) (s : State) : Out :=
  if !uartStarts samples then .next s
  else if !uartBit samples 9 then .next (s.onCnt fun c => { c with uartBad := c.uartBad + 1 })
  else if uartByte samples == 0x0D && s.links.ready then .next (s.console s.counterLine)
  else .next s

/-! ### Timeouts (R34, R36) -/

/-- What waits on a tag no longer does: its object is free again. -/
def State.forget (s : State) (tag : U16) : State :=
  let isTag (x : Option U16) : Bool := x == some tag
  let s1 := s.each [0, 1, 2, 3, 4] fun s i => s.onChain i fun c => { c with waits := c.waits.filter fun w => w.1 != tag }
  let drop (t : TxBand) : TxBand := { t with queue := t.queue.filter fun x => x.kind == .auto || x.tag != tag }
  let s2 := s1.onTx fun t => { t with h := drop t.h, l := drop t.l }
  let s3 := s2.onCfg fun c =>
    { c with waits := c.waits.filter fun k => k.1 != tag
             castle := match c.castle with
               | .checking t n r => if t == tag then .idle else .checking t n r
               | .armed t n l => if t == tag then .idle else .armed t n l
               | x => x }
  let s4 := s3.onBc fun b => { b with vhf := { b.vhf with tuning := if isTag b.vhf.tuning then some 0 else b.vhf.tuning }
                                      lfmf := { b.lfmf with tuning := if isTag b.lfmf.tuning then some 0 else b.lfmf.tuning } }
  let s5 := s4.each [0, 1, 2, 3] fun s g => s.onGroup g fun x =>
    let mine := x.starting.any (fun y : U16 × Nat × Bool => y.1 == tag)
    { x with starting := if mine then none else x.starting, measure := if mine then none else x.measure
             stopping := if isTag x.stopping then none else x.stopping, waits := x.waits.filter fun y => y.1 != tag }
  let s6 := s5.onTdm fun t => { t with starting := if t.starting.any (fun y : U16 × Nat => y.1 == tag) then none else t.starting
                                       stopping := if isTag t.stopping then none else t.stopping, waits := t.waits.filter fun y => y.1 != tag }
  s6.each [6, 7] fun s c => s.onCrew c fun x =>
    { x with starting := if isTag x.starting then none else x.starting, stopping := if isTag x.stopping then none else x.stopping
             waits := x.waits.filter fun y => y.1 != tag }

/-- COMMAND_TIMEOUT: a command that is not a long operation ends 2 s after receipt (R34, R48). -/
def execCommandTimeout (tag : U16) (s : State) : Out :=
  match s.outstanding tag with
  | none => .next s
  | some t =>
    if t.long then .next s
    else .next ((((s.at (t.received + 2 * sec)).forget tag).fallLine "command").finish tag .timeout (if t.opcode == 0x0030 then txRefusal else []))

/-- The operation behind a long tag ends (R34, R240, R413, R420, R461, R466). -/
def State.endLong (s : State) (tag : U16) : State :=
  let run := s.trim.run.any fun r => r.1 == tag
  let s1 := if run then
      let s2 := s.onTrim fun t => { t with run := none, queue := t.queue.filter fun q => !q.2 }
      if s.trim.now.any (·.ofRun) then s2.trimAbort else s2
    else s
  let s3 := s1.onTrim fun t => { t with survey := if t.survey == some tag then none else t.survey }
  let s4 := s3.onDir fun d => { d with rebuild := if d.rebuild.any (fun r => r.1 == tag) then none else d.rebuild }
  s4.onBoot fun b => { b with fwCommit := b.fwCommit.filter fun c => c.1 != tag
                              crewCommit := b.crewCommit.filter fun c => c.2.1 != tag }

/-- LONG_OP_TIMEOUT: 30 s without a progress step; time spent paused does not count (R34, R417). -/
def execLongOpTimeout (tag : U16) (s : State) : Out :=
  match s.outstanding tag with
  | none => .next s
  | some t =>
    let paused := t.opcode == 0x0080 && s.trim.now.any fun n => n.paused.isSome
    if !t.long || paused then .next s
    else .next ((((s.at (t.stepAt + 30 * sec)).endLong tag).fallLine "long operation").finish tag .timeout [])

end Sys2Proof.Machine
end

