-- ==== Sys2Proof/Machine/Time.lean ====
section
/-! DEFINITION. Meanings: time sources, PPS and PTP (chapter 11, R282 to R287). -/

namespace Sys2Proof.Machine

def TimeD.src (m : TimeD) (i : Nat) : TimeSrc := getT {} m.srcs i
def TimeD.setSrc (m : TimeD) (i : Nat) (x : TimeSrc) : TimeD := { m with srcs := putT m.srcs i x }

/-- The path of a source is enabled: source 3 needs VHF_EN and RDS_EN, source 4 needs LFMF_EN and a time-code slot (R283, R287). -/
def State.sourceOn (s : State) (i : Nat) : Bool :=
  if i == 3 then s.cfgBit 5 0 7 && s.cfgBit 5 0 5
  else if i == 4 then s.cfgBit 5 0 6 && s.bc.lfmf.profile != 0 && s.cfgNat 5 (64 * s.bc.lfmf.profile) 1 == 2
  else true

/-- The source in use: the first valid one of the running order, 0 with none; a change is noted for the next sample (R283, R284). -/
def State.chooseSource (s : State) : State :=
  let pick := match s.time.order.find? (fun i => i != 0 && (s.time.src i).valid && s.sourceOn i) with | some i => i | none => 0
  if pick == s.time.inUse then s else s.onTime fun m => { m with inUse := pick, changed := true }

/-- How long a source stays valid after its last sample, in seconds (R282). -/
def validFor : Nat → Nat
  | 2 => 16 | 3 => 180 | 4 => 180 | 5 => 3600 | _ => 0

/-- A sample of a source: its validity, and the sample itself for the next catch (R282, R284). -/
def State.sample (s : State) (src d : Nat) (utc : Int) (unc : Nat) : State :=
  let x := s.time.src src
  let valid := match src with
    | 1 => x.valid || 4 ≤ x.run + 1
    | 3 => x.valid || (match x.last with | some t => decide (distance (t + 60 * sec) d ≤ sec) | none => false)
    | _ => true
  (s.onTime fun m =>
    { m.setSrc src { valid := valid, last := some d, run := x.run + 1, lastUtc := utc } with pendingS := m.pendingS ++ [(src, d, utc, unc)] }).chooseSource

/-- TIME_SET supplies a sample of source 2 or 5 (R282, R284). -/
def execTimeSet (h : Hdr) (utc dtime : U64) (uncertainty : U32) (s : State) : Out :=
  .next (s.host h 0x00B0
    (fun s => { op := 0x00B0, form := h.len == 20, range := dtime.toNat ≤ s.dtime + sec
                state := if dtime.toNat + sec < s.dtime then some .late else none })
    fun s => (s.sample (if uncertainty.toNat ≤ 1000 then 2 else 5) dtime.toNat utc.toNat uncertainty.toNat).answer h 0x00B0 .ok [])

/-- A non-zero code appears twice (R283). -/
def twice : List Nat → Bool
  | [] => false
  | x :: l => (x != 0 && l.contains x) || twice l

/-- TIME_SOURCE replaces the running order (R283). -/
def execTimeSource (h : Hdr) (s0 s1 s2 s3 : U8) (s : State) : Out :=
  let order := [s0, s1, s2, s3].map fun x : U8 => x.toNat
  .next (s.host h 0x00B1
    (fun _ => { op := 0x00B1, form := h.len == 4 && !twice order, range := order.all (· ≤ 5), state := none })
    fun s =>
      let s1 := (s.onTime fun m => { m with order := order }).chooseSource
      s1.answer h 0x00B1 .ok (le 1 s1.time.inUse))

/-- TIME_SOURCE_EXPIRY: the validity of a source runs out (R282). -/
def execTimeSourceExpiry (source : Fin 6) (s : State) : Out :=
  let i := source.val
  match (s.time.src i).last with
  | none => .next s
  | some t =>
    if !(s.time.src i).valid || i == 1 then .next s
    else .next ((s.at (t + validFor i * sec)).onTime fun m => m.setSrc i { m.src i with valid := false, run := 0 }).chooseSource

/-- The nearest whole second of a UTC, in ns. -/
def nearestSecond (utc : Int) : Int := (utc + 500000000) / 1000000000 * 1000000000

/-- PPS_PULSE: a pulse is checked against its window, captured, and labelled with the model's nearest second at its DTIME plus PPS_DELAY (R35,
R282); one under 100 ns is ignored (R35). One that cannot be labelled breaks the row of four, and only the flag fall ends validity. -/
def execPpsPulse (at_ ns : Nat) (s : State) : Out :=
  let locked := (s.time.src 1).valid
  let off := match s.time.ppsAt with | some t => locked && decide (ms < distance (t + sec) at_) | none => false
  if ns < 100 then .next s
  else if off then .next (s.onCnt fun c => { c with ppsBad := c.ppsBad + 1 })
  else
    let s1 := s.onTime fun m => { m with ppsAt := some at_ }
    if s.time.related && decide (s.time.uncAt at_ < 400000000) then
      .next (s1.sample 1 at_ (nearestSecond (s.time.utcOf at_ + s.cfgInt 12 16 4) - s.cfgInt 12 16 4) 40)
    else .next (s1.onTime fun m => m.setSrc 1 { m.src 1 with run := 0 })

/-- PPS_FLAG_FALL: no pulse for 1.5 s after an accepted one (R35, R36). -/
def execPpsFlagFall (s : State) : Out :=
  match s.time.ppsAt with
  | none => .next s
  | some t =>
    let s1 := (s.at (t + 57600000)).onTime fun m => { m.setSrc 1 {} with ppsAt := none }
    .next (s1.chooseSource.flagFall 0x03 0)

/-- The quotient of two integers rounded to the nearest, halves up. -/
def roundInt (a b : Int) : Int := (2 * a + b) / (2 * b)

/-- The DTIME, to the nearest reference cycle, at which the model reaches a UTC (R286). -/
def TimeD.edgeOf (m : TimeD) (utc : Int) : Nat :=
  (m.d0 + roundInt ((utc - m.u0) * 3000000000000000) (78125 * (1000000000000 + m.r))).toNat

/-- The next rising edge of PPS_OUT after an instant, at least 500 ms after the previous edge (R286). -/
def State.ppsNext (s : State) : Option Nat :=
  let after := match s.time.ppsOutAt with | some t => max s.dtime (t + 1) | none => s.dtime
  match s.cfgNat 12 4 1 % 4 with
  | 2 => some (ceilDiv after sec * sec)
  | 1 =>
    if !s.utcKnown then none
    else
      let first := s.time.edgeOf ((s.time.utcOf after + 999999999) / 1000000000 * 1000000000)
      let tooNear := match s.time.ppsOutAt with | some t => decide (first < t + 500 * ms) | none => false
      some (if tooNear then s.time.edgeOf ((s.time.utcOf after + 999999999) / 1000000000 * 1000000000 + 1000000000) else first)
  | _ => none

/-- PPS_OUT_EDGE: PPS_OUT falls after its pulse width, or rises at its next second (R286). -/
def execPpsOutEdge (s : State) : Out :=
  if s.pins.ppsOut then
    let width := let w := s.cfgNat 12 5 1; (if w == 0 then 100 else w) * ms
    .next ((s.at (s.time.ppsOutAt.getD s.dtime + width)).onPins fun p => { p with ppsOut := false })
  else match s.ppsNext with
    | none => .next s
    | some t => .next (((s.at t).onPins fun p => { p with ppsOut := true }).onTime fun m => { m with ppsOutAt := some t })

/-- The kind 3 record of a PTP event frame (R236, R280). -/
def ptpRecord (f : PtpFrame) (utc : Nat) (seq : U32) : Bytes :=
  le 4 seq.toNat ++ le 8 f.sfd ++ le 8 utc ++ le 1 f.messageType.toNat ++ le 1 (b2n f.isUdp) ++ le 2 0 ++ le 2 f.sequenceId.toNat ++ le 8 0
    ++ le 2 (3 * 8192) ++ le 12 0 ++ f.message.take 255

/-- PTP_EVENT_FRAME: with PTP_FWD set an event frame is timestamped and delivered (R280, R282). -/
def execPtpEventFrame (f : PtpFrame) (s : State) : Out :=
  if s.netUp && s.cfgBit 12 4 3 && (if f.isUdp then f.udpPort == 319 else f.ethertype == 0x88F7) then
    .next (s.deliver (ptpRecord f (s.utcField f.sfd)))
  else .next s

end Sys2Proof.Machine
end

