-- ==== Sys2Proof/Machine/Broadcast.lean ====
section
/-! DEFINITION. Meanings: tuning, RDS, alternative frequencies and LF data (chapter 11, R267 to R280). -/

namespace Sys2Proof.Machine

/-! ### Tuning (R267, R268) -/

/-- A VHF frequency BC_TUNE accepts (R267). -/
def vhfOk (f : Nat) : Bool := 87500000 ≤ f && f ≤ 108000000 && f % 50000 == 0

/-- An LF or MF frequency BC_TUNE accepts (R267). -/
def lfmfOk (f : Nat) : Bool := (148500 ≤ f && f ≤ 283500) || (526500 ≤ f && f ≤ 1606500)

/-- The audio of a path is silent from now on for the 25 ms that a tune may take (R268; log 163). -/
def State.muteTune (s : State) (lf : Bool) : State :=
  s.onBc fun b => { b with mutes := ({ lf := lf, from_ := s.dtime, till := s.dtime + 25 * ms, fade := false } :: b.mutes).take 4 }

/-- A tune of the VHF path starts: decoding restarts, and SYN_V hops or locks where its LO changes (R92, R139, R268). -/
def State.tuneVhf (s : State) (f : Nat) (tag : U16) : State :=
  let s1 := (s.muteTune false).onBc fun b => { b with vhf := { b.vhf with freq := f, profile := 0, tuning := some tag, prev := b.vhf.freq, stopped := false }, rds := {} }
  if s1.synIs 5 .locked && (s1.synth 5).n == vhfN f then s1
  else if s1.synIs 5 .locked || (s1.synth 5).planned then s1.hopSyn 5 (vhfN f) 40
  else if (s1.synth 5).attempt != 0 then
    s1.onSynth 5 fun x => { x with n := vhfN f, d := 40, cached := (s1.cachedBand 5 (vhfN f) 40).isSome }
  else s1.startSyn 5 (vhfN f) 40

/-- A tune of the LF and MF path starts (R267, R268). -/
def State.tuneLfmf (s : State) (f profile : Nat) (tag : U16) : State :=
  (s.muteTune true).onBc fun b => { b with lfmf := { b.lfmf with freq := f, profile := profile, tuning := some tag, prev := b.lfmf.freq }, lfLast := [] }

/-- TYPE of an LF data profile slot (R277). -/
def State.lfType (s : State) (slot : Nat) : Nat := s.cfgNat 5 (64 + 64 * slot) 1

/-- Checks of BC_TUNE (R46, R267). -/
def chkBcTune (h : Hdr) (path profile : U8) (reserved : U16) (freq : U32) (s : State) : Check :=
  let p := profile.toNat
  { op := 0x0060, form := h.len == 8 && reserved == 0
    range := if path == 0 then vhfOk freq.toNat && p == 0
      else path == 1 && lfmfOk freq.toNat && (p == 0 || (p ≤ 2 && s.lfType (p - 1) != 0))
    state := if !s.chainIs 4 .receive || (if path == 0 then s.bc.vhf.tuning.isSome else s.bc.lfmf.tuning.isSome) then some .busy else none }

/-- BC_TUNE (R267). -/
def execBcTune (h : Hdr) (path profile : U8) (reserved : U16) (freq : U32) (s : State) : Out :=
  .next (s.host h 0x0060 (chkBcTune h path profile reserved freq) fun s =>
    let s1 := s.hold h 0x0060 false
    if path == 0 then (s1.onBc fun b => { b with af := { b.af with on := false, verify := none } }).tuneVhf freq.toNat h.tag
    else s1.tuneLfmf freq.toNat profile.toNat h.tag)

/-- BC_TUNE_COMPLETE: the 20 ms measurement ends and the reply is sent; the VHF path needs SYN_V locked (R268). -/
def execBcTuneComplete (lf : Bool) (rssi : Int) (s : State) : Out :=
  let reply (path : Nat) : Bytes := le 1 path ++ le 1 (b2n (decide (-1600 ≤ rssi))) ++ leI 2 rssi
  if lf then
    match s.bc.lfmf.tuning with
    | none => .next s
    | some tag => .next ((s.onBc fun b => { b with lfmf := { b.lfmf with tuning := none } }).finish tag .ok (reply 1))
  else match s.bc.vhf.tuning with
    | none => .next s
    | some tag =>
      if !s.synIs 5 .locked then .next s
      else .next ((s.onBc fun b => { b with vhf := { b.vhf with tuning := none }, af := { b.af with means := (s.dtime, rssi) :: b.af.means } }).finish
        tag .ok (reply 0))

/-! ### Records of chain B (R236, R280) -/

/-- GEN of chain B as records carry it (R280). -/
def State.genB (s : State) : Nat := (s.chain 4).w.gen.toNat

/-- A kind 1 record (R280). -/
def rdsRecord (t utc pi event group freq corrected gen flags aid : Nat) (rssi : Int) (payload : Bytes) (seq : U32) : Bytes :=
  le 4 seq.toNat ++ le 8 t ++ le 8 utc ++ le 2 pi ++ le 1 event ++ le 1 group ++ le 4 freq ++ leI 2 rssi ++ le 2 0 ++ le 2 corrected
    ++ le 2 (1 * 8192) ++ le 1 0 ++ le 1 gen ++ le 2 flags ++ le 2 aid ++ le 6 0 ++ payload

/-- An RDS record of a group is delivered; a gap mark travels with it (R25, R280). -/
def State.sendRds (s : State) (g : RdsGroup) (event aid : Nat) (payload : Bytes) : State :=
  let flags := b2n s.bc.vhf.gap + 2 * b2n (g.corrected != 0)
  let s1 := s.onBc fun b => { b with vhf := { b.vhf with gap := false } }
  s1.deliver (rdsRecord g.at_ (s.utcField g.at_) (match s.bc.rds.pi with | some p => p.toNat | none => 0) event (g.b2.toNat / 2048)
    s.bc.vhf.freq g.corrected s.genB flags aid g.rssi payload)

/-- A block as it is sent, high byte first (R280). -/
def blockBytes (b : U16) : Bytes := [b.extractLsb' 8 8, b.extractLsb' 0 8]

/-- Blocks 2 to 4 of a group (R280). -/
def groupBytes (g : RdsGroup) : Bytes := blockBytes g.b2 ++ blockBytes g.b3 ++ blockBytes g.b4

/-! ### RDS blocks (R271, R272) -/

/-- Differential coding: a bit is a change of sign between neighbouring symbols (R271). -/
def rdsBits : List Bool → List Bool
  | a :: b :: l => (a != b) :: rdsBits (b :: l)
  | _ => []

/-- The number that bits spell, the first the highest. -/
def bitsHigh (l : List Bool) : Nat := l.foldl (fun n b => 2 * n + b2n b) 0

/-- The remainder of a block modulo the generator of IEC 62106, x^10 + x^8 + x^7 + x^5 + x^4 + x^3 + 1: its offset word when it is
without error (R272; log 164). -/
def rdsRemainder (l : List Bool) : Nat :=
  l.foldl (fun r b => let n := 2 * r + b2n b; if n < 1024 then n else n ^^^ 0x5B9) 0

/-- Offset words A, B, C, C', D of IEC 62106 (log 164). -/
def rdsOffset (k : Nat) : Nat := [0x0FC, 0x198, 0x168, 0x350, 0x1B4].getD k 0

/-- A list with its members from place `k` on, `n` of them, inverted. -/
def flipAt (k n : Nat) (l : List Bool) : List Bool := (l.zip (List.range l.length)).map fun x => x.1 != (k ≤ x.2 && x.2 < k + n)

/-- A block as the decoder leaves it: its 16 bits, its state (0 as received, 1 corrected, 2 uncorrectable) and the bits corrected. -/
structure RdsBlock where
  info  : U16
  state : Nat
  bits  : Nat
  deriving DecidableEq, Repr

/-- A block of 26 bits against its offset words; bursts of up to 2 bits are corrected where `fix` says so (R272). -/
def rdsBlock (fix : Bool) (offs : List Nat) (l : List Bool) : RdsBlock :=
  let good (l : List Bool) : Bool := offs.any fun k => rdsRemainder l == rdsOffset k
  let info (l : List Bool) : U16 := BitVec.ofNat 16 (bitsHigh (l.take 16))
  let tries := (List.range 26).map (fun k => (k, 1)) ++ (List.range 25).map fun k => (k, 2)
  if good l then { info := info l, state := 0, bits := 0 }
  else match (if fix then tries.find? fun e => good (flipAt e.1 e.2 l) else none) with
    | some e => { info := info (flipAt e.1 e.2 l), state := 1, bits := e.2 }
    | none => { info := info l, state := 2, bits := 0 }

/-- RDS_CORR is clear: errors are corrected (R270). -/
def State.rdsFixes (s : State) : Bool := !s.cfgBit 5 0 2

/-- Block `k` of some bits. -/
def nthBlock (bits : List Bool) (k : Nat) : List Bool := (bits.drop (26 * k)).take 26

/-- Block 3 carries C in a group of version A and C' in one of version B; either where block 2 does not tell (R272). -/
def thirdOffsets (b2 : RdsBlock) : List Nat := if b2.state == 2 then [2, 3] else if b2.info.getLsbD 11 then [3] else [2]

/-- The group that symbols spell (R272). -/
def State.rdsDecode (s : State) (g : RdsIn) : RdsGroup :=
  let bits := rdsBits g.keyed
  let b1 := rdsBlock s.rdsFixes [0] (nthBlock bits 0)
  let b2 := rdsBlock s.rdsFixes [1] (nthBlock bits 1)
  let b3 := rdsBlock s.rdsFixes (thirdOffsets b2) (nthBlock bits 2)
  let b4 := rdsBlock s.rdsFixes [4] (nthBlock bits 3)
  { b1 := b1.info, b2 := b2.info, b3 := b3.info, b4 := b4.info, s1 := b1.state, s2 := b2.state, s3 := b3.state, s4 := b4.state
    corrected := b1.bits + b2.bits + b3.bits + b4.bits, at_ := g.at_, rssi := g.rssi }

/-- Two blocks in a row carry offset words in their order (R272). -/
def rdsInOrder (bits : List Bool) : Bool :=
  let a := rdsRemainder (nthBlock bits 0)
  let b := rdsRemainder (nthBlock bits 1)
  [(0, 1), (1, 2), (1, 3), (2, 4), (3, 4), (4, 0)].any fun p : Nat × Nat => a == rdsOffset p.1 && b == rdsOffset p.2

/-! ### RDS groups (R272, R273) -/

/-- The group type × 2 + version of a group: bits 15 to 11 of block 2. -/
def groupCode (g : RdsGroup) : Nat := g.b2.toNat / 2048

/-- PS name of groups 0A and 0B (R272). -/
def State.takePs (s : State) (g : RdsGroup) : State :=
  if 2 ≤ g.s4 then s
  else
    let segs := putT (s.bc.rds.ps) (g.b2.toNat % 4) g.b4
    if segs.length < 4 then s.onBc fun b => { b with rds := { b.rds with ps := segs } }
    else
      let name := (segs.map fun e => blockBytes e.2).flatten
      let again := name == s.bc.rds.psPrev && name != s.bc.rds.psSent
      let s1 := s.onBc fun b => { b with rds := { b.rds with ps := [], psPrev := name, psSent := if again then name else b.rds.psSent } }
      if again then s1.sendRds g 0 0 name else s1

/-- AF code of a frequency, 0 off the 100 kHz grid (R274). -/
def afCode (f : Nat) : Nat := if 87600000 ≤ f && f ≤ 107900000 && f % 100000 == 0 then (f - 87500000) / 100000 else 0

/-- A complete AF list is taken when it differs from the one held, and each change is delivered (R272, R276). -/
def State.closeAf (s : State) (g : RdsGroup) : State :=
  let r := s.bc.rds
  let tuned := BitVec.ofNat 8 (afCode s.bc.vhf.freq)
  match r.afHead with
  | none => s
  | some f =>
    let pairs := r.afNew.length / 2
    let methodB := pairs != 0 && (List.range pairs).all fun i => r.afNew.getD (2 * i) 0 == f || r.afNew.getD (2 * i + 1) 0 == f
    let list := if methodB then r.afNew.filter (· != f) else f :: r.afNew
    let s1 := s.onBc fun b => { b with rds := { b.rds with afHead := none, afLeft := 0, afNew := [] } }
    if (methodB && f != tuned) || list == r.af || list.isEmpty then s1
    else (s1.onBc fun b => { b with rds := { b.rds with af := list.take 25 } }).sendRds g 5 0 (list.take 25)

/-- AF codes of block 3 of group 0A, in method A or B: a count from 225 to 249 starts a list (R272; log 29). -/
def State.takeAf (s : State) (g : RdsGroup) : State :=
  if 2 ≤ g.s3 then s
  else
    let hi := g.b3.extractLsb' 8 8
    let lo := g.b3.extractLsb' 0 8
    let code (x : U8) : Bool := 1 ≤ x.toNat && x.toNat ≤ 204
    if 225 ≤ hi.toNat && hi.toNat ≤ 249 then
      let s1 := s.onBc fun b => { b with rds := { b.rds with afHead := if code lo then some lo else none, afLeft := hi.toNat - 225, afNew := [] } }
      if hi.toNat == 225 then s1.closeAf g else s1
    else if s.bc.rds.afHead.isNone then s
    else
      let new := [hi, lo].filter code
      let s1 := s.onBc fun b => { b with rds := { b.rds with afNew := b.rds.afNew ++ new, afLeft := b.rds.afLeft - new.length } }
      if s1.bc.rds.afLeft == 0 then s1.closeAf g else s1

/-- Text of segments, from segment 0 as far as they reach, up to 0x0D, padded with blanks to 64 characters (R272, R280). -/
def radioText (segs : List (Nat × U32)) : Bytes :=
  let raw := ((List.range 16).map fun i => match findT segs i with
    | some w => ((List.range 4).map fun k => w.extractLsb' (24 - 8 * k) 8)
    | none => [0x20, 0x20, 0x20, 0x20]).flatten
  let t := raw.takeWhile (· != 0x0D)
  t ++ List.replicate (64 - t.length) 0x20

/-- The segments reach from 0 to an end at 0x0D or to segment 15 (R272). -/
def textDone (segs : List (Nat × U32)) : Bool :=
  let ends (w : U32) : Bool := (List.range 4).any fun k => w.extractLsb' (8 * k) 8 == 0x0D#8
  match (List.range 16).find? (fun i => match findT segs i with | some w => ends w | none => true) with
  | some i => (findT segs i).isSome
  | none => true

/-- RadioText of group 2A: delivered when received twice, or when the A/B flag toggles (R272). -/
def State.takeRt (s : State) (g : RdsGroup) : State :=
  let ab := g.b2.getLsbD 4
  let r := s.bc.rds
  let toggled := r.rtAb.any (· != ab)
  let old := radioText r.rt
  let s1 := if toggled then
      let clear := s.onBc fun b => { b with rds := { b.rds with rt := [], rtPrev := [], rtSent := [] } }
      if r.rt.isEmpty || old == r.rtSent then clear else clear.sendRds g 1 0 old
    else s
  let s2 := s1.onBc fun b => { b with rds := { b.rds with rtAb := some ab } }
  if 2 ≤ g.s3 || 2 ≤ g.s4 then s2
  else
    let segs := putT s2.bc.rds.rt (g.b2.toNat % 16) (g.b3 ++ g.b4 : U32)
    if !textDone segs then s2.onBc fun b => { b with rds := { b.rds with rt := segs } }
    else
      let text := radioText segs
      let again := text == s2.bc.rds.rtPrev && text != s2.bc.rds.rtSent
      let s3 := s2.onBc fun b => { b with rds := { b.rds with rt := [], rtPrev := text, rtSent := if again then text else b.rds.rtSent } }
      if again then s3.sendRds g 1 0 text else s3

/-- UTC of the minute edge of a 4A group in ns: MJD 40,587 is the first day of 1970 (R272, R282). -/
def clockTime (g : RdsGroup) : Int :=
  let mjd := g.b2.toNat % 4 * 32768 + g.b3.toNat / 2
  let hour := g.b3.toNat % 2 * 16 + g.b4.toNat / 4096
  let minute := g.b4.toNat / 64 % 64
  (((mjd : Int) - 40587) * 86400 + hour * 3600 + minute * 60) * 1000000000

/-- Clock time of group 4A is delivered, and is a time sample when blocks 2 to 4 came without error (R272, R282). -/
def State.takeClock (s : State) (g : RdsGroup) : State :=
  if 2 ≤ g.s3 || 2 ≤ g.s4 then s
  else
    let utc := clockTime g
    let s1 := s.sendRds g 2 0 (groupBytes g ++ le 8 utc.toNat)
    if g.s2 == 0 && g.s3 == 0 && g.s4 == 0 && s.sourceOn 3 then s1.sample 3 g.at_ utc 110000000 else s1

/-- AIDs of the four slots of ODA_AID that are used (R269, R273). -/
def State.odaAids (s : State) : List Nat := ((List.range 4).map fun i => s.cfgNat 5 (16 + 2 * i) 2).filter fun a => a != 0 && a != 0xFFFF

/-- An announcement of group 3A (R273). -/
def State.takeOda (s : State) (g : RdsGroup) : State :=
  if 2 ≤ g.s4 || !s.odaAids.contains g.b4.toNat then s
  else
    let s1 := s.onBc fun b => { b with rds := { b.rds with oda := (g.b4, g.b2.toNat % 32) :: b.rds.oda.filter fun o => o.1 != g.b4 } }
    s1.sendRds g 3 g.b4.toNat (groupBytes g)

/-- A group of a type that an announcement of a named AID gave: type A groups 5A to 13A (R273). -/
def State.takeApp (s : State) (g : RdsGroup) : State :=
  let c := groupCode g
  if c % 2 != 0 || c < 10 || 26 < c then s
  else match s.bc.rds.oda.find? (fun o => o.2 == c && s.odaAids.contains o.1.toNat) with
    | some o => s.sendRds g 3 o.1.toNat (groupBytes g)
    | none => s

/-- A group is used by its type (R272, R273). -/
def State.useGroup (s : State) (g : RdsGroup) : State :=
  let s1 := if g.s1 ≤ 1 then s.onBc fun b => { b with rds := { b.rds with pi := some g.b1 } } else s
  if 2 ≤ g.s2 then s1
  else match groupCode g with
    | 0 => (s1.takePs g).takeAf g
    | 1 => s1.takePs g
    | 4 => s1.takeRt g
    | 6 => s1.takeOda g
    | 8 => s1.takeClock g
    | _ => s1.takeApp g

/-- The RDS decoder runs: VHF path enabled, tuned, receiving and not stopped, RDS_EN set (R268, R270, R272). -/
def State.rdsOn (s : State) : Bool :=
  s.cfgBit 5 0 7 && s.cfgBit 5 0 5 && s.bc.vhf.freq != 0 && !s.bc.vhf.stopped && s.chainIs 4 .receive && s.synIs 5 .locked

/-- RDS_SYNC_FOUND: two blocks in a row with valid syndromes (R272). -/
def execRdsSyncFound (keyed : List Bool) (s : State) : Out :=
  if s.rdsOn && !s.bc.rds.sync && rdsInOrder (rdsBits keyed) then
    .next (s.onBc fun b => { b with rds := { b.rds with sync := true, recent := [] } })
  else .next s

/-- RDS_SYNC_LOST: 10 uncorrectable blocks among the last 20 (R272). -/
def execRdsSyncLost (s : State) : Out :=
  if s.bc.rds.sync && 10 ≤ (s.bc.rds.recent.filter id).length then .next (s.onBc fun b => { b with rds := { b.rds with sync := false } })
  else .next s

/-- The states of a group's blocks join those of the last 20. -/
def Rds.mark (r : Rds) (g : RdsGroup) : Rds := { r with recent := (([g.s4, g.s3, g.s2, g.s1].map (· == 2)) ++ r.recent).take 20 }

/-- A decoded group is used, or held until the PI is verified after an AF switch (R272, R275, R276). -/
def State.takeGroup (s : State) (g : RdsGroup) : State :=
  let s1 := s.onBc fun b => { b with rds := b.rds.mark g
                                     af := { b.af with means := (s.dtime, g.rssi) :: b.af.means.filter fun m => decide (s.dtime < m.1 + 15 * sec) } }
  match s1.bc.af.verify with
  | none => s1.useGroup g
  | some _ =>
    if g.s1 ≤ 1 && g.b1 == s1.bc.af.pi then
      let held := s1.bc.rds.held
      let s2 := s1.onBc fun b => { b with af := { b.af with verify := none }, rds := { b.rds with held := [] } }
      (s2.each held State.useGroup).useGroup g
    else s1.onBc fun b => { b with rds := { b.rds with held := b.rds.held ++ [g] } }

/-- RDS_GROUP: the four blocks of a group are complete (R272). -/
def execRdsGroup (g : RdsIn) (s : State) : Out :=
  if !s.rdsOn || !s.bc.rds.sync then .next s else .next (s.takeGroup (s.rdsDecode g))

/-! ### Alternative frequencies (R274 to R276) -/

/-- BC_AF starts or stops AF following (R274). -/
def execBcAf (h : Hdr) (mode k : U8) (pi : U16) (codes : Bytes) (s : State) : Out :=
  .next (s.host h 0x0061
    (fun s => { op := 0x0061, form := h.len == 4 + k.toNat && codes.length == k.toNat
                range := mode.toNat ≤ 1 && k.toNat ≤ 25 && codes.all (fun c => 1 ≤ c.toNat && c.toNat ≤ 204)
                  && !(mode == 1 && pi == 0 && s.bc.rds.pi.isNone)
                state := if s.bc.vhf.freq == 0 then some .locked else none })
    fun s =>
      let s1 := if mode == 0 then s.onBc fun b => { b with af := { b.af with on := false, verify := none } }
        else s.onBc fun b => { b with af := { on := true, pi := if pi == 0 then b.rds.pi.getD 0 else pi, list := codes, means := b.af.means } }
      s1.answer h 0x0061 .ok (le 1 (afCode s.bc.vhf.freq)))

/-- AF_RSSI in 1/16 dBm; 0 selects −65 dBm (R269). -/
def State.afRssi (s : State) : Int := let x := s.cfgInt 5 14 2; if x == 0 then -1040 else x
/-- AF_MARGIN in 1/16 dB; 0 selects 6 dB (R269). -/
def State.afMargin (s : State) : Int := let x := s.cfgBits 5 2 4 4; 16 * ((if x == 0 then 6 else x : Nat) : Int)
/-- AF_DWELL in s; 0 selects 4 (R269). -/
def State.afDwell (s : State) : Nat := let x := s.cfgBits 5 2 0 4; if x == 0 then 4 else x

/-- Mean RSSI of the tuned programme over the last AF_DWELL seconds (R275). -/
def State.afMean (s : State) : Option Int :=
  let l := (s.bc.af.means.filter fun m => decide (s.dtime ≤ m.1 + s.afDwell * sec)).map (·.2)
  if l.isEmpty then none else some (floorDiv (sumI l) l.length)

/-- What the last check of a candidate found: RSSI and checks in a row above the margin. -/
def AfFollow.found (a : AfFollow) (c : U8) : Option (Int × Nat) := (a.checked.find? fun e => e.1 == c).map (·.2)

/-- The next candidate: unchecked ones first, then by descending RSSI; the tuned and the barred ones are left out (R275). -/
def State.afCandidate (s : State) : Option U8 :=
  let a := s.bc.af
  let list := (if a.list.isEmpty then s.bc.rds.af else a.list).filter fun c =>
    c.toNat != afCode s.bc.vhf.freq && !a.barred.any fun b => b.1 == c && decide (s.dtime < b.2)
  match list.find? (fun c => (a.found c).isNone) with
  | some c => some c
  | none => list.foldl (fun m c => match m with
      | none => some c
      | some d => match a.found c, a.found d with
        | some x, some y => if y.1 < x.1 then some c else some d
        | _, _ => some d) none

/-- A switch to a candidate: tuned, to be verified within 300 ms, delivered as event 4 (R275, R276). -/
def State.afSwitch (s : State) (c : U8) : State :=
  let prev := s.bc.vhf.freq
  let f := 87500000 + 100000 * c.toNat
  let rec4 := rdsRecord s.dtime (s.utcField s.dtime) s.bc.af.pi.toNat 4 0 f 0 s.genB (b2n s.bc.vhf.gap) 0
    (match s.bc.af.found c with | some x => x.1 | none => 0) (le 1 (afCode prev) ++ le 1 c.toNat)
  let s1 := (s.onBc fun b => { b with vhf := { b.vhf with gap := false } }).deliver rec4
  let s2 := s1.tuneVhf f 0
  s2.onBc fun b => { b with vhf := { b.vhf with tuning := none }, af := { b.af with verify := some (prev, c, s.dtime), means := [] } }

/-- The hops of a quiet check at an LO that is not in use: SYN_V has locked there, which is two changes of its word, and now hops back
(R129, R275; log 177). -/
def State.quietHop (s : State) (f : Nat) : State :=
  let home := s.synth 5
  if home.n == vhfN f then s
  else
    let s1 := (s.hopSyn 5 (vhfN f) 40).lockOwn 5
    (s1.onSynth 5 fun x => { x with w := { x.w with gen := home.w.gen + 2, genAt := none } }).hopSyn 5 home.n 40

/-- A quiet check of 1 ms at a frequency that ends now: the audio fades out before it and back after it (R275, R276). -/
def State.quietCheck (s : State) (f : Nat) : State :=
  (s.quietHop f).onBc fun b => { b with mutes := ({ lf := false, from_ := s.dtime - ms, till := s.dtime, fade := true } :: b.mutes).take 4 }

/-- AF_CHECK: the check of one second; `rssi` is what the candidate measures in a quiet check (R275). -/
def execAfCheck (rssi : Int) (s : State) : Out :=
  if !s.bc.af.on || !s.rdsOn || s.bc.af.verify.isSome || s.bc.vhf.tuning.isSome then .next s
  else match s.afMean with
    | none => .next s
    | some mean =>
      if s.afRssi ≤ mean then .next s
      else match s.afCandidate with
        | none => .next s
        | some c =>
          let n := if mean + s.afMargin ≤ rssi then (match s.bc.af.found c with | some x => x.2 | none => 0) + 1 else 0
          let s1 := (s.quietCheck (87500000 + 100000 * c.toNat)).onBc fun b => { b with af := { b.af with checked := (c, rssi, if 2 ≤ n then 0 else n) :: b.af.checked.filter fun e => e.1 != c } }
          .next (if 2 ≤ n then s1.afSwitch c else s1)

/-- AF_PI_TIMEOUT: the followed PI did not come within 300 ms; the previous frequency is tuned again and the candidate barred for 60 s (R275, R276). -/
def execAfPiTimeout (s : State) : Out :=
  match s.bc.af.verify with
  | none => .next s
  | some (prev, c, t) =>
    let s1 := s.at (t + 300 * ms)
    let s2 := (s1.tuneVhf prev 0).onBc fun b =>
      { b with vhf := { b.vhf with tuning := none }
               af := { b.af with verify := none, barred := (c, s1.dtime + 60 * sec) :: b.af.barred.filter fun x => x.1 != c } }
    .next s2

/-! ### LF data (R277 to R279) -/

/-- A kind 2 record (R280). -/
def lfRecord (t utc slot errs event freq nbits gen : Nat) (rssi : Int) (gap : Bool) (payload : Bytes) (seq : U32) : Bytes :=
  le 4 seq.toNat ++ le 8 t ++ le 8 utc ++ le 1 slot ++ le 1 errs ++ le 1 event ++ le 1 0 ++ le 4 freq ++ leI 2 rssi ++ le 2 0 ++ le 2 nbits
    ++ le 2 (2 * 8192) ++ le 1 0 ++ le 1 gen ++ le 2 (b2n gap) ++ le 8 0 ++ payload

/-- Bits packed with the first in bit 7 of byte 0, zero-padded (R280). -/
def packMsb (l : List Bool) : Bytes :=
  (List.range (ceilDiv l.length 8)).map fun i => BitVec.ofNat 8 (packBits ((List.range 8).map fun k => l.getD (8 * i + (7 - k)) false))

/-- An LF record is delivered; a gap mark travels with it. -/
def State.sendLf (s : State) (f : LfFrame) (event : Nat) (payload : Bytes) : State :=
  let s1 := s.onBc fun b => { b with lfmf := { b.lfmf with gap := false } }
  s1.deliver (lfRecord f.at_ (s.utcField f.at_) f.slot.val f.syncErrs event s.bc.lfmf.freq f.bits.length s.genB f.rssi s.bc.lfmf.gap payload)

/-- The number whose BCD bits a field entry selects, if every digit is a digit; none for an unused field (R277). -/
def State.bcdField (s : State) (slot k : Nat) (bits : List Bool) : Option Nat :=
  let o := 64 + 64 * slot + 24 + 2 * k
  let first := s.cfgNat 5 o 1
  let w := s.cfgNat 5 (o + 1) 1 % 16
  if first == 0xFF then none
  else
    let raw := (bits.drop first).take w
    let v := packBits (if s.cfgBit 5 (o + 1) 7 then raw.reverse else raw)
    if v % 16 ≤ 9 && v / 16 ≤ 9 then some (v / 16 * 10 + v % 16) else none

/-- Days from 1970-01-01 to a date of the years 2000 to 2099. -/
def daysOf (y m d : Nat) : Nat :=
  let year := 2000 + y
  let leap := if year % 4 == 0 then 1 else 0
  let before := ([31, 28 + leap, 31, 30, 31, 30, 31, 31, 30, 31, 30, 31].take (m - 1)).sum
  (year - 1970) * 365 + (year - 1969) / 4 + before + (d - 1)

/-- Days of a month. -/
def monthDays (y m : Nat) : Nat := [31, if y % 4 == 0 then 29 else 28, 31, 30, 31, 30, 31, 31, 30, 31, 30, 31].getD (m - 1) 0

/-- The UTC minute of a time frame, when every required field is BCD and in range (R277, R279). -/
def State.frameMinute (s : State) (slot : Nat) (bits : List Bool) : Option Int :=
  match s.bcdField slot 0 bits, s.bcdField slot 1 bits, s.bcdField slot 2 bits, s.bcdField slot 3 bits, s.bcdField slot 4 bits with
  | some mi, some ho, some da, some mo, some ye =>
    if mi ≤ 59 && ho ≤ 23 && 1 ≤ mo && mo ≤ 12 && 1 ≤ da && da ≤ monthDays ye mo then
      let dst := match s.bcdField slot 5 bits with | some x => x != 0 | none => false
      some (((daysOf ye mo da * 24 + ho) * 60 + mi : Nat) - s.cfgInt 5 (64 + 64 * slot + 36) 2 - (if dst then 60 else 0))
    else none
  | _, _, _, _, _ => none

/-- The LF path decodes a slot (R267, R270). -/
def State.lfOn (s : State) (slot : Nat) : Bool :=
  s.cfgBit 5 0 6 && s.bc.lfmf.freq != 0 && s.bc.lfmf.tuning.isNone && s.bc.lfmf.profile == slot + 1 && s.chainIs 4 .receive && s.synIs 1 .locked

/-- The bits of carrier phases under ENC: NRZ, or a phase change for 1 (R277, R278). -/
def State.lfBits (s : State) (slot : Nat) (phases : List Bool) : List Bool :=
  if s.cfgBit 5 (64 + 64 * slot + 1) 0 then rdsBits phases else phases.drop 1

/-- Bit errors of a received sync word, SYNC_LEN bits long (R277, R278). -/
def State.lfSyncErrs (s : State) (slot : Nat) (bits : List Bool) : Nat :=
  let n := s.cfgNat 5 (64 + 64 * slot + 5) 1
  let word := s.cfgNat 5 (64 + 64 * slot + 8) 4
  ((bits.take n).zip ((List.range n).map fun k => bitOf word (n - 1 - k))).countP fun x => x.1 != x.2

/-- The length of a reduction is a minute mark (R277, R279). -/
def State.lfMark (s : State) (slot len : Nat) : Bool :=
  let o := 64 + 64 * slot
  if s.cfgNat 5 (o + 15) 1 == 0 then len == 0 else s.cfgNat 5 (o + 18) 2 + s.cfgNat 5 (o + 20) 2 ≤ 2 * len

/-- The bit that a reduction stands for; the minute mark stands as 0 (R279; log 165). -/
def State.lfBit (s : State) (slot len : Nat) : Bool :=
  let o := 64 + 64 * slot
  !s.lfMark slot len && s.cfgNat 5 (o + 16) 2 + s.cfgNat 5 (o + 18) 2 ≤ 2 * len

/-- The frame that the receiver's phases or reductions make, if they make one: TYPE 1 a sync word within SYNC_ERR and FRAME_LEN bits, TYPE 2
sixty seconds from a minute mark, with no other among them (R278, R279). -/
def State.lfDecode (s : State) (f : LfIn) : Option LfFrame :=
  let slot := f.slot.val
  let o := 64 + 64 * slot
  if s.lfType slot == 1 then
    let bits := s.lfBits slot f.phases
    let n := s.cfgNat 5 (o + 5) 1
    let errs := s.lfSyncErrs slot bits
    if bits.length == n + s.cfgNat 5 (o + 12) 2 && errs ≤ s.cfgNat 5 (o + 6) 1 then
      some { slot := f.slot, bits := bits.drop n, syncErrs := errs, at_ := f.at_, marker := f.marker, rssi := f.rssi }
    else none
  else if s.lfType slot == 2 then
    match f.lens with
    | m :: rest =>
      if s.lfMark slot m && rest.length == 59 && !rest.any (s.lfMark slot) then
        some { slot := f.slot, bits := f.lens.map (s.lfBit slot), syncErrs := 0, at_ := f.at_, marker := f.marker, rssi := f.rssi }
      else none
    | [] => none
  else none

/-- A time frame of sixty bits: valid when its fields are and its time is one minute after the frame before; it is then delivered and gives
its markers a UTC (R279). -/
def State.timeFrame (s : State) (f : LfFrame) : State :=
  let slot := f.slot.val
  match s.frameMinute slot f.bits with
  | none => s.onBc fun b => { b with lfLast := delT b.lfLast slot }
  | some m =>
    let utc : Int := m * 60000000000 - s.cfgNat 12 20 4
    let valid := match findT s.bc.lfLast slot with | some x => x.1 + 1 == m | none => true
    let gap := s.bc.lfmf.gap
    let s1 := s.onBc fun b => { b with lfLast := putT b.lfLast slot (m, if valid && !gap then 0 else 60, utc + 60000000000) }
    if !valid then s1
    else
      let s2 := s1.sendLf f 1 (packMsb f.bits ++ le 8 utc.toNat)
      if gap then s2 else s2.sample 4 f.marker utc 1000000

/-- LF_FRAME: a data frame is delivered; a valid time frame is delivered and gives its markers a UTC (R278, R279). -/
def execLfFrame (f : LfIn) (s : State) : Out :=
  if !s.lfOn f.slot.val then .next s
  else match s.lfDecode f with
    | none => .next s
    | some x => .next (if s.lfType f.slot.val == 1 then s.sendLf x 0 (packMsb x.bits) else s.timeFrame x)

/-- LF_SECOND_MARKER: a marker of the minute after a valid frame is a time sample (R279). -/
def execLfSecondMarker (at_ : Nat) (s : State) : Out :=
  let slot := s.bc.lfmf.profile - 1
  match findT s.bc.lfLast slot with
  | some (m, n, utc) =>
    if s.lfOn slot && s.lfType slot == 2 && n < 60 then
      .next ((s.onBc fun b => { b with lfLast := putT b.lfLast slot (m, n + 1, utc + 1000000000) }).sample 4 at_ utc 1000000)
    else .next s
  | none => .next s

end Sys2Proof.Machine
end

