-- ==== Sys2Proof/Machine/Audio.lean ====
section
/-! DEFINITION. Broadcast audio: FM demodulation, stereo, de-emphasis, AM, scale, silence and latency (chapter 11, R268, R271, R276,
R281). -/

namespace Sys2Proof.Machine

/-! ### Fields (R270) -/

def audioSource (set : List Host.Cell) : Nat := bitsOf (setNat set 5 1 1) 0 2
def audioMono (set : List Host.Cell) : Bool := bitOf (setNat set 5 1 1) 3
/-- RATE in frames per second, and reference cycles of a frame. -/
def audioFs (set : List Host.Cell) : Nat := if bitOf (setNat set 5 1 1) 2 then 32000 else 48000
def framePeriod (fs : Nat) : Nat := 38400000 / fs
def stereoEn (set : List Host.Cell) : Bool := bitOf (setNat set 5 0 1) 4
/-- Time constant of DEEMPH in µs. -/
def deemphUs (set : List Host.Cell) : Nat := if bitOf (setNat set 5 0 1) 3 then 75 else 50

/-! ### FM (R271) -/

/-- A sample reaches the FM demodulator: the frequency over the last sample period, in 2^-40 turn per sample. -/
def AudioPath.fm (a : AudioPath) (x : IqSample) : AudioPath :=
  let y := (x.i.toInt, x.q.toInt)
  { a with prev := y, past := (argTurn (y.1 * a.prev.1 + y.2 * a.prev.2) (y.2 * a.prev.1 - y.1 * a.prev.2) :: a.past).take 1200 }

/-- Share of stereo in 1/256: whole from 30 dB of multiplex SNR up, none at 20 dB and below, none without the pilot (R271; log 163). -/
def stereoOf (set : List Host.Cell) (past : List Int) : Nat :=
  if !stereoEn set || !Config.mpxPilot past then 0
  else
    let snr := Config.mpxSnr past
    if 480 ≤ snr then 256 else if snr ≤ 320 then 0 else Config.stereoShare snr % 257

/-- The part of the way to its input that a de-emphasis network of `us` makes in a frame period, in 2^-60 (R271; log 163). -/
def deemphStep (us fs : Nat) : Int := unit60 - expSeries 24 0 (-(unit60 * 1000000 / ((us * fs : Nat) : Int))) unit60

/-- -6 dBFS: the amplitude of 75 kHz deviation, and of 100% modulation, 10^(-6 / 20) of full scale (R271, R281). -/
def minus6 : Int := 8388607 * powerRatio (-300)

/-- A frequency in 2^-40 turn per sample of 4.8 MHz as a 24-bit audio value: 75 kHz is -6 dBFS (R271). -/
def fmScale (x : Int) : Int := satI 24 (roundI (x * 4800000 * minus6) (turn40 * 75000 * unit60))

/-- A frame of FM audio: mono and stereo parts, blend, de-emphasis and scale; with MONO the mono sum on both channels (R271, R281). -/
def AudioPath.fmFrame (set : List Host.Cell) (a : AudioPath) : AudioPath × (Int × Int) :=
  let m := Config.mpxMono a.past
  let d := if audioMono set then 0 else Int.fdiv (stereoOf set a.past * Config.mpxStereo a.past) 256
  let k := deemphStep (deemphUs set) (audioFs set)
  let l := a.deL + mul60 k (m + d - a.deL)
  let r := a.deR + mul60 k (m - d - a.deR)
  ({ a with deL := l, deR := r }, (fmScale l, fmScale r))

/-! ### AM (R281) -/

/-- A sample reaches the envelope detector. -/
def AudioPath.am (a : AudioPath) (x : IqSample) : AudioPath :=
  { a with past := ((isqrt (x.i.toInt * x.i.toInt + x.q.toInt * x.q.toInt).toNat : Nat) :: a.past : List Int).take 1200 }

/-- A frame of AM audio on both channels: 100% modulation is -6 dBFS; without a carrier it is 0 (R281; log 163). -/
def AudioPath.amFrame (a : AudioPath) : Int × Int :=
  let c := Config.amCarrier a.past
  let v := if c ≤ 0 then 0 else satI 24 (roundI ((Config.amLevel a.past - c) * minus6) (c * unit60))
  (v, v)

/-! ### The audio of a stroke -/

/-- The path of an audio source delivers: enabled, tuned, receiving, its clocks locked or in a planned hop, whose silence is that of the tune or
of the quiet check (R137, R267, R270, R281). -/
def State.audioRuns (s : State) (source : Nat) : Bool :=
  s.chainIs 4 .receive && s.synIs 1 .locked
    && ((source == 1 && s.cfgBit 5 0 7 && s.bc.vhf.freq != 0 && !s.bc.vhf.stopped && (s.synIs 5 .locked || (s.synth 5).planned))
      || (source == 2 && s.cfgBit 5 0 6 && s.bc.lfmf.freq != 0))

/-- A sample that did not come. -/
def noIq : IqSample := { i := 0, q := 0 }

/-- Frames of a stroke from sample chunk to sample chunk, the newest in front; `t` is the DTIME of the first. -/
def audioFrames (set : List Host.Cell) (source : Nat) : (n t : Nat) → AudioPath → List IqSample → AudioPath × List AudioFrame
  | 0, _, a, _ => (a, [])
  | n + 1, t, a, l =>
    let len := 4800000 / audioFs set
    let chunk := l.take len ++ List.replicate (len - (l.take len).length) noIq
    let r : AudioPath × (Int × Int) :=
      if source == 1 then (chunk.foldl AudioPath.fm a).fmFrame set else let b := chunk.foldl AudioPath.am a; (b, b.amFrame)
    let rest := audioFrames set source n (t + framePeriod (audioFs set)) r.1 (l.drop len)
    (rest.1, rest.2 ++ [{ at_ := t, lr := some r.2 }])

/-- Frames in a stroke: 12 at 48 kHz, 8 at 32 kHz (R281). -/
def framesPerStroke (set : List Host.Cell) : Nat := strokeLen / framePeriod (audioFs set)

/-- The audio of the stroke that ends at a catch joins the last 512 frames (R271, R281). -/
def State.catchAudio (s : State) (vhf lfmf : List IqSample) : State :=
  let set := s.cfg.active
  let k := audioSource set
  let t := strokeLen * (s.stroke - 1)
  let n := framesPerStroke set
  if !s.audioRuns k then
    s.onBc fun b => { b with sound := {}
                             audio := (((List.range n).reverse.map fun f => ({ at_ := t + f * framePeriod (audioFs set), lr := none } : AudioFrame)) ++ b.audio).take 512 }
  else
    let r := audioFrames set k n t s.bc.sound (if k == 1 then vhf else lfmf)
    s.onBc fun b => { b with sound := r.1, audio := (r.2 ++ b.audio).take 512 }

/-- The frames of strokes up to `n` whose work was skipped are zero and invalid (R281). -/
def State.skipAudio (s : State) (n : Nat) : State :=
  s.onBc fun b => { b with audio := b.audio.map fun f => if f.at_ / strokeLen == n then { f with lr := none } else f }

/-! ### What the port takes (R268, R276, R281) -/

/-- What a silence leaves of a sample at a DTIME, in 1/19,200: it fades over 0.5 ms before a quiet check and after it (R276; log 163). -/
def Mute.share (m : Mute) (t : Nat) : Nat :=
  if m.from_ ≤ t && t < m.till then 0
  else if !m.fade then 19200
  else if t < m.from_ then min 19200 (m.from_ - t) else min 19200 (t - m.till)

/-- Reference cycles from the aerial port to the frame that carries a sample: 3.0 ms for VHF, 4.0 ms for LF and MF (R281). -/
def audioLatency (source : Nat) : Nat := if source == 1 then 3 * ms else 4 * ms

/-- The audio that a frame written at a DTIME carries, which is sent 32 frames later: right or left; none where it is invalid (R281,
R309). -/
def State.audioAt (s : State) (right : Bool) (t : Nat) : Option Int :=
  let set := s.cfg.active
  let k := audioSource set
  let aerial := t + 32 * framePeriod (audioFs set) - audioLatency k
  match s.bc.audio.find? (fun f => f.at_ ≤ aerial) with
  | some f =>
    if aerial < f.at_ + framePeriod (audioFs set) then
      f.lr.map fun x =>
        let v := if right then x.2 else x.1
        let shares := (s.bc.mutes.filter fun m => m.lf == (k == 2)).map fun m => m.share f.at_
        Int.fdiv (v * ((shares.foldl min 19200 : Nat) : Int)) 19200
    else none
  | none => none

end Sys2Proof.Machine
end

