-- ==== Sys2Proof/Machine/Sections.lean ====
section
/-! DEFINITION. The configuration sections: their field maps with the reserved and the grouped bits (R14, R69, R71), and the
fourteen agreement groups of R72. -/

namespace Sys2Proof.Machine

/-- One field of an entry: the bytes that hold it, its bits there, whether it belongs to an agreement group, and its range. -/
structure Fld where
  ofs : Nat
  n   : Nat
  lo  : Nat
  w   : Nat
  grouped : Bool
  ok  : Nat → Bool

/-- Any value of its width. -/
def anyV (_ : Nat) : Bool := true
/-- A closed range. -/
def inR (a b v : Nat) : Bool := decide (a ≤ v) && decide (v ≤ b)
/-- 0, or a closed range. -/
def zeroOr (a b v : Nat) : Bool := v == 0 || inR a b v

/-- An ungrouped field of whole bytes. -/
def fu (ofs n : Nat) (ok : Nat → Bool) : Fld := { ofs := ofs, n := n, lo := 0, w := 8 * n, grouped := false, ok := ok }
/-- A grouped field of whole bytes. -/
def fg (ofs n : Nat) : Fld := { ofs := ofs, n := n, lo := 0, w := 8 * n, grouped := true, ok := anyV }
/-- An ungrouped field of some bits. -/
def bu (ofs n lo w : Nat) (ok : Nat → Bool) : Fld := { ofs := ofs, n := n, lo := lo, w := w, grouped := false, ok := ok }
/-- A grouped field of some bits of a byte. -/
def bg (ofs lo w : Nat) : Fld := { ofs := ofs, n := 1, lo := lo, w := w, grouped := true, ok := anyV }

/-- Sizes of the sections (R71); 0 for an identifier that is not in the catalogue. -/
def sectionSize : Nat → Nat
  | 1 => 160 | 2 => 8192 | 3 => 1024 | 4 => 64 | 5 => 256 | 6 => 576 | 7 => 32 | 8 => 512 | 9 => 64 | 10 => 32 | 11 => 64 | 12 => 32
  | 13 => 16 | _ => 0

/-! ### Field maps -/

/-- A chain's entry: the fields common to all, and those of the entries that use them (R111 to R115). -/
def chainFlds (i : Nat) : List Fld :=
  [bu 0 1 0 2 anyV, bu 8 1 0 1 anyV, fu 9 1 (inR 0 15), fu 10 1 (inR 0 15), fu 11 1 (zeroOr 6 20), fu 12 1 anyV]
  ++ (if i == 0 || i == 2 then [bu 0 1 5 2 (inR 0 2), bu 2 2 11 1 anyV, bu 2 2 0 10 anyV, fu 13 1 (inR 0 20)] else [])
  ++ (if i == 2 || i == 3 then [bg 1 0 3] else [])
  ++ (if i < 2 then [fg 4 4] else [])

/-- A lane's entry (R151 to R154). -/
def laneFlds : List Fld :=
  [bg 0 7 1, bu 0 1 6 1 anyV, bg 0 0 3, fg 1 1, bg 2 0 5, bu 3 1 4 4 (inR 0 5), bu 3 1 0 4 (inR 0 5), fg 4 4, bu 8 2 0 15 anyV,
   fu 10 1 (zeroOr 64 250), fu 11 1 (inR 0 100), bu 12 1 0 2 anyV]

/-- FREQ_BW of R185. -/
def freqBwOk (v : Nat) : Bool := inR 0 8 v || v == 15

/-- A profile's entry (R184, R185). -/
def profFlds : List Fld :=
  [fg 0 1, bg 1 0 3, fg 2 1, fg 3 1, fg 4 4, fg 8 4, fg 12 4, fg 16 4, fg 20 1, fg 21 1, bu 22 1 0 3 (inR 0 4), bu 23 1 0 1 anyV,
   fg 24 2, fg 26 2, bu 28 1 4 4 (inR 0 8), bu 28 1 0 4 freqBwOk, fu 30 2 (zeroOr 8 4096)]

/-- The head of section TXPOLICY (R256). -/
def txHeadFlds : List Fld := [fu 0 4 anyV, fu 4 4 anyV, fg 8 2, fg 10 2, fu 12 1 (zeroOr 2 8)]
/-- A reply rule (R256). -/
def txRuleFlds : List Fld :=
  [bg 0 5 3, fu 1 1 (inR 0 31), fg 2 1, fu 3 1 anyV, fu 4 1 anyV, fu 5 1 anyV, fu 6 1 anyV, fg 8 4, fu 12 4 anyV]

/-- VHF_FREQ and LFMF_FREQ under R267; 0 leaves the path untuned (R269). -/
def vhfFreqOk (v : Nat) : Bool := v == 0 || vhfOk v
def lfmfFreqOk (v : Nat) : Bool := v == 0 || lfmfOk v

/-- The head of section BROADCAST (R269, R270). -/
def bcFlds : List Fld :=
  [bg 0 2 6, bg 1 0 4, bu 2 1 4 4 (zeroOr 3 15), bu 2 1 0 4 anyV, fu 4 4 vhfFreqOk, fu 8 4 lfmfFreqOk, fg 12 1, fu 14 2 anyV, fu 16 8 anyV]

/-- An LF data profile slot (R277); all of it is grouped (R269). -/
def lfSlotFlds : List Fld :=
  [fg 0 1, bg 1 0 1, fg 2 2, fg 4 1, fg 5 1, fg 6 1, fg 8 4, fg 12 2, fg 14 1, fg 15 1, fg 16 2, fg 18 2, fg 20 2, fg 36 2]
  ++ ((List.range 6).map fun k => [fg (24 + 2 * k) 1, bg (25 + 2 * k) 0 4, bg (25 + 2 * k) 7 1]).flatten

/-- A stream group's entry and a stream channel's (R302, R303). -/
def streamGroupFlds : List Fld := [bg 0 7 1, fg 1 1, fg 4 4]
def streamChanFlds : List Fld :=
  [bg 0 7 1, bu 0 1 6 1 anyV, bg 0 0 4, bu 1 1 4 4 (inR 0 5), bu 1 1 0 4 (inR 0 5), bu 2 2 0 12 anyV, bu 4 4 0 30 anyV, bu 8 1 0 1 anyV]

/-- Section TDM (R315). -/
def tdmFlds : List Fld := [bg 0 6 2, bu 0 1 4 2 anyV, fg 1 1, fg 2 2, bu 4 1 1 3 anyV, fg 16 16]

/-- Section METERING: the two spans of its head, a circuit and a leak pair (R334, R335). -/
def meterHeadFlds : List Fld := [bu 0 1 6 2 anyV, fu 2 2 (zeroOr 4 4000), fu 4 1 (inR 0 250)]
def meterLeakFlds : List Fld := [fu 0 2 (zeroOr 10 10080), fu 2 1 (zeroOr 4 120), fu 3 1 (inR 0 200), fu 4 2 anyV, fu 6 2 anyV]
def circuitFlds : List Fld := [bg 0 7 1, bu 0 1 6 1 anyV, bu 0 1 4 2 (inR 0 2), fg 1 1, fg 2 1, fu 3 1 (inR 0 15), fu 4 8 anyV]
def leakPairFlds : List Fld := [bg 0 7 1, fg 1 1, fg 2 1, fu 4 4 (inR 0 1000000)]

/-- MAINS_GPIO of R449. -/
def mainsOk (v : Nat) : Bool := inR 1 15 v || v == 255

/-- Section POWER (R449). -/
def powerFlds : List Fld :=
  [bu 0 1 6 2 anyV, fu 1 1 (inR 0 2), fu 2 1 (inR 0 4), fu 3 1 (inR 0 4), fg 4 2, fu 6 2 (zeroOr 10 1000), fu 8 1 (zeroOr 8 0x77),
   fu 9 1 anyV, fu 10 1 mainsOk, bu 12 2 1 15 anyV, fu 14 2 (inR 0 10000), fu 16 2 (inR 0 1440), fu 18 2 (inR 0 3600),
   fu 20 2 (inR 0 60000), fu 22 2 (inR 0 60000), fu 24 2 (inR 0 60000)]

/-- PHY_ADDR and MAC_ADDR of R56. -/
def phyAddrOk (v : Nat) : Bool := inR 0 31 v || v == 255
def macOk (v : Nat) : Bool := v % 2 == 0

/-- Section DELIVERY (R56). -/
def deliveryFlds : List Fld :=
  [bg 0 6 2, fu 1 1 (inR 0 100), fg 2 2, fg 4 4, fu 8 4 anyV, fu 12 1 (zeroOr 8 30), fu 13 1 phyAddrOk, fu 14 6 macOk]

/-- RIG_TIME of R419. -/
def rigTimeOk (v : Nat) : Bool := inR 0 1439 v || v == 0xFFFF

/-- Section TRIM (R419). -/
def trimFlds : List Fld :=
  [bu 0 1 7 1 anyV, fu 1 1 (zeroOr 5 40), fu 2 2 (inR 0 720), fu 4 2 (inR 0 60000), fu 6 1 (inR 0 63), fg 7 1, fu 8 2 rigTimeOk,
   bu 10 1 7 1 anyV, fu 11 1 (inR 0 12)]

/-- PPS_DELAY of R287. -/
def ppsDelayOk (v : Nat) : Bool := let d := signed 32 v; decide (-1000000 ≤ d) && decide (d ≤ 1000000)

/-- Section TIME (R287). -/
def timeFlds : List Fld :=
  [fg 0 4, bu 4 1 0 2 (inR 0 2), bu 4 1 2 2 anyV, fu 5 1 (inR 0 200), fu 8 4 (zeroOr 1000 1000000000), fu 12 4 anyV, fu 16 4 ppsDelayOk,
   fu 20 4 (inR 0 20000000)]

/-- Section CREWS (R463). -/
def crewFlds : List Fld := [bg 0 6 2, bu 1 1 6 2 anyV]

/-- The entry that holds a byte of a section: where it starts, and its fields. -/
def entryAt (sec ofs : Nat) : Nat × List Fld :=
  match sec with
  | 1 => (32 * (ofs / 32), chainFlds (ofs / 32))
  | 2 => (16 * (ofs / 16), laneFlds)
  | 3 => (32 * (ofs / 32), profFlds)
  | 4 => if ofs < 16 then (0, txHeadFlds) else (16 * (ofs / 16), txRuleFlds)
  | 5 => if ofs < 64 then (0, bcFlds) else if ofs < 192 then (64 * (ofs / 64), lfSlotFlds) else (192, [])
  | 6 => if ofs < 64 then (16 * (ofs / 16), streamGroupFlds) else (16 * (ofs / 16), streamChanFlds)
  | 7 => (0, tdmFlds)
  | 8 =>
    if ofs < 16 then (0, meterHeadFlds)
    else if ofs < 352 then (16 + 12 * ((ofs - 16) / 12), circuitFlds)
    else if ofs < 368 then (352, meterLeakFlds)
    else if ofs < 432 then (368 + 8 * ((ofs - 368) / 8), leakPairFlds)
    else (432, [])
  | 9 => (0, powerFlds)
  | 10 => (0, deliveryFlds)
  | 11 => (0, trimFlds)
  | 12 => (0, timeFlds)
  | 13 => (0, crewFlds)
  | _ => (0, [])

/-- The bits of a field in byte `k` of its entry. -/
def Fld.mask (f : Fld) (k : Nat) : U8 :=
  if k < f.ofs then 0 else BitVec.ofNat 8 ((2 ^ f.w - 1) * 2 ^ f.lo / 256 ^ (k - f.ofs))

/-- The bits of a byte that some field of the layout defines; the others are reserved (R14). -/
def definedMask (sec ofs : Nat) : U8 :=
  let e := entryAt sec ofs
  e.2.foldl (fun m f => m ||| f.mask (ofs - e.1)) 0

/-- The bits of a byte that belong to a grouped field (R69). -/
def groupedMask (sec ofs : Nat) : U8 :=
  let e := entryAt sec ofs
  (e.2.filter (·.grouped)).foldl (fun m f => m ||| f.mask (ofs - e.1)) 0

/-- Every reserved bit of the written bytes is 0 (R14, R68). -/
def reservedClear (sec : Nat) : (ofs : Nat) → Bytes → Bool
  | _, [] => true
  | ofs, b :: bs => (b &&& ~~~definedMask sec ofs) == 0 && reservedClear sec (ofs + 1) bs

/-- A field's value in a set. -/
def Fld.value (set : List Host.Cell) (sec base : Nat) (f : Fld) : Nat := bitsOf (setNat set sec (base + f.ofs) f.n) f.lo f.w

/-- The ranges that join two fields of an entry: PULSE_RAW with PULSE_EN (R335), and POLICY with DEEPEST (R449). -/
def jointOk (set : List Host.Cell) (sec ofs base : Nat) : Bool :=
  if sec == 8 && 16 ≤ ofs && ofs < 352 && (ofs == base || base + 4 ≤ ofs) then
    !(bitOf (setNat set 8 base 1) 6 && setNat set 8 (base + 4) 8 == 0)
  else if sec == 9 && (ofs == 1 || ofs == 2) then !(setNat set 9 1 1 == 2 && 2 < setNat set 9 2 1)
  else true

/-- Every ungrouped field that a written byte belongs to lies in its range in the set after the write (R69). -/
def rangesOk (set : List Host.Cell) (sec ofs n : Nat) : Bool :=
  (List.range n).all fun k =>
    let e := entryAt sec (ofs + k)
    jointOk set sec (ofs + k) e.1 && e.2.all fun f => f.grouped || f.mask (ofs + k - e.1) == 0 || f.ok (f.value set sec e.1)

/-- A write would change a grouped field, bit by bit (R70). -/
def changesGrouped (set : List Host.Cell) (sec : Nat) : (ofs : Nat) → Bytes → Bool
  | _, [] => false
  | ofs, b :: bs => ((b ^^^ readCell cfgReset set (cfgKey sec ofs)) &&& groupedMask sec ofs) != 0 || changesGrouped set sec (ofs + 1) bs

/-- Some byte of a span differs between two sets. -/
def spanChanged (a b : List Host.Cell) (sec ofs n : Nat) : Bool :=
  readCells cfgReset a (cfgKey sec ofs) n != readCells cfgReset b (cfgKey sec ofs) n

/-! ### Agreement groups (R72) -/

/-- The two sets' entries that group 0x0001 reads. -/
def chainLo (set : List Host.Cell) (i : Nat) : Nat := setNat set 1 (32 * i + 4) 4

/-- Group 0x0001: one LO frequency for H-A and H-B, a multiple of 1.2 MHz from 863 to 928 MHz. -/
def groupH (set : List Host.Cell) : Bool :=
  let f := chainLo set 0
  f == chainLo set 1 && f % 1200000 == 0 && inR 863000000 928000000 f

/-- Group 0x0002: L-A and L-B select one sub-band and one LO (R113). -/
def groupL (set : List Host.Cell) : Bool := bitsOf (setNat set 1 65 1) 0 3 == bitsOf (setNat set 1 97 1) 0 3

/-- Group 0x0003 for one lane. -/
def laneSourceOk (set : List Host.Cell) (i : Nat) : Bool :=
  let lim : Nat := if lanePair set i == 0 then 300000 else 150000
  lanePair set i < 2 && laneBin set i < (if lanePair set i == 0 then 64 else 16) && decide ((laneNco set i).natAbs ≤ lim)

/-- Group 0x0004 for one lane. Without an output rate, the ratio is not tested. -/
def laneRateOk (set : List Host.Cell) (i : Nat) : Bool :=
  let p := laneProf set i
  let base := if lanePair set i == 0 then 1200000 else 600000
  let r := profRate set p * 2 ^ laneK set i
  profEn set p && laneK set i ≤ 5 && (2 ≤ lanePair set i || (decide (4 * r ≤ base) && decide (base ≤ 64 * r)))

/-- The row of R186 for a MODE: MOD, LINE, SYM_RATE and DEV_HZ. -/
def modeRow (set : List Host.Cell) (p : Nat) : Bool :=
  let r := profRate set p
  let d := profDev set p
  let four := profMod4 set p
  let line := profLine set p
  let rule := profLenRule set p
  match profMode set p with
  | 0 =>
    let bits := r * profBps set p
    inR 1200 200000 bits && decide (3 * r ≤ 20 * d) && decide (2 * d ≤ 3 * r) && (rule == 0 || rule == 2)
  | 1 => !four && line == 1 && r == 32768 && inR 30000 70000 d && rule == 1
  | 2 => !four && line == 2 && r == 100000 && inR 30000 90000 d && rule == 1
  | 3 => !four && line == 0 && r == 100000 && inR 30000 70000 d && rule == 1
  | 4 => line == 0 && (if four then r == 9600 else r == 2400 || r == 4800) && inR 1500 3500 d && rule == 1
  | 5 => !four && line == 0 && r == 2400 && inR 3000 8000 d && rule == 1
  | _ => false

/-- Group 0x0005 for one profile (R186). -/
def profileOk (set : List Host.Cell) (p : Nat) : Bool :=
  let w := profW set p
  let n := profSyncLen set p
  let alt := profAltLen set p
  inR 8 32 w && inR (w + 1) 4096 (profPreLen set p) && inR 8 32 n && !(profMod4 set p && n % 2 == 1) && n / profBps set p ≤ w + 8
    && profSync set p < 2 ^ n && profSyncAlt set p < 2 ^ n && (alt == 0 || (alt == n && profSyncAlt set p != profSync set p))
    && profLine set p != 3 && profLenRule set p != 3 && (profLenRule set p != 0 || inR 8 16384 (profFixedLen set p))
    && (profLenRule set p != 1 || profMode set p != 0) && (profLenRule set p != 2 || profLine set p == 0)
    && inR 30 100 (profBT set p) && modeRow set p

/-- Group 0x0006 (R72, R256). -/
def groupTx (set : List Host.Cell) : Bool :=
  let pw (o : Nat) : Int := setInt set 4 o 2
  decide (-40 ≤ pw 8) && decide (pw 8 ≤ 28) && decide (-20 ≤ pw 10) && decide (pw 10 ≤ 40)
    && (List.range 3).all fun r =>
      let o := 16 * r + 16
      !bitOf (setNat set 4 o 1) 7
        || (setNat set 4 (o + 2) 1 < 32 && profEn set (setNat set 4 (o + 2) 1) && inR 19200 38400000 (setNat set 4 (o + 8) 4))

/-- The time-code lengths of R277; TM_MS counts with MARK_KIND 1. -/
def lfLengthsOk (t0 t1 tm kind : Nat) : Bool :=
  10 ≤ t0 && decide (t0 + 40 ≤ t1) && (if kind == 1 then decide (t1 + 40 ≤ tm) && decide (tm ≤ 900) else decide (t1 ≤ 900))

/-- An LF data profile slot whose TYPE is not 0 lies within R277. -/
def lfSlotOk (set : List Host.Cell) (slot : Nat) : Bool :=
  let g (o n : Nat) : Nat := setNat set 5 (64 + 64 * slot + o) n
  match g 0 1 with
  | 0 => true
  | 1 =>
    inR 10 200 (g 2 2) && inR 45 180 (g 4 1) && inR 8 32 (g 5 1) && g 6 1 ≤ 4 && g 8 4 < 2 ^ g 5 1 && inR 8 2040 (g 12 2)
  | 2 =>
    let zone := signed 16 (g 36 2)
    inR 3 20 (g 14 1) && g 15 1 ≤ 1 && lfLengthsOk (g 16 2) (g 18 2) (g 20 2) (g 15 1)
      && (List.range 6).all (fun k =>
        let pos := g (24 + 2 * k) 1
        let wid := bitsOf (g (25 + 2 * k) 1) 0 4
        if pos == 255 then k == 5 else pos ≤ 59 && inR 1 8 wid && (k != 5 || wid == 1))
      && decide (-720 ≤ zone) && decide (zone ≤ 840)
  | _ => false

/-- Group 0x0007 (R72, R287). LFMF_PROF names no slot, or one whose TYPE is not 0 (R267). -/
def groupTime (set : List Host.Cell) : Bool :=
  let order := (List.range 4).map fun k => setNat set 12 k 1
  let ctrl := setNat set 5 0 1
  let prof := setNat set 5 12 1
  let slotType := setNat set 5 (64 * prof) 1
  lfSlotOk set 0 && lfSlotOk set 1 && prof ≤ 2 && (prof == 0 || slotType != 0) && order.all (· ≤ 5) && !twice order
    && (!order.contains 3 || (bitOf ctrl 7 && bitOf ctrl 5)) && (!order.contains 4 || (bitOf ctrl 6 && prof != 0 && slotType == 2))

/-- Group 0x0008 for one stream group; one without an enabled channel is not checked. -/
def streamGroupOk (set : List Host.Cell) (g : Nat) : Bool :=
  (groupChans set g).all (fun c => inR 1 10 (chnStages set c) && chnStages set c == groupStages set g)
    && ((groupChans set g).isEmpty || strExt set g || inR 25 150 (strDiv set g))

/-- The output rate of an enabled channel as a fraction, where it is defined (R302). -/
def chnRate (set : List Host.Cell) (c : Nat) : Option (Nat × Nat) :=
  let g := c / 8
  let s := chnStages set c
  if 31 < c || !chnEn set c || !inR 1 10 s then none
  else if strExt set g then (if strExtHz set g == 0 then none else some (strExtHz set g, 2 ^ s))
  else if inR 25 150 (strDiv set g) then some (153600000, strDiv set g * 2 ^ s)
  else none

/-- Two output rates are defined and equal (R302). -/
def ratesEqual (a b : Option (Nat × Nat)) : Bool :=
  match a, b with
  | some x, some y => x.1 * y.2 == y.1 * x.2
  | _, _ => false

/-- The channel pairs of the enabled circuits and of the enabled leak pairs. -/
def circuitPairs (set : List Host.Cell) : List (Nat × Nat) :=
  ((List.range 28).filter fun c => bitOf (setNat set 8 (16 + 12 * c) 1) 7).map fun c =>
    (setNat set 8 (17 + 12 * c) 1, setNat set 8 (18 + 12 * c) 1)
def leakPairs (set : List Host.Cell) : List (Nat × Nat) :=
  ((List.range 8).filter fun p => bitOf (setNat set 8 (368 + 8 * p) 1) 7).map fun p =>
    (setNat set 8 (369 + 8 * p) 1, setNat set 8 (370 + 8 * p) 1)

/-- Group 0x0009 (R72, R334). -/
def groupCircuits (set : List Host.Cell) : Bool :=
  let cs := circuitPairs set
  (cs.map (·.1)).eraseDups.length ≤ 4 && (cs.map (·.2)).eraseDups.length ≤ 28
    && (cs ++ leakPairs set).all fun p => ratesEqual (chnRate set p.1) (chnRate set p.2)

/-- Fields of section TDM. -/
def tdmSlots (set : List Host.Cell) : Nat := setNat set 7 1 1
def tdmMask (set : List Host.Cell) : Nat := setNat set 7 2 2
def tdmFs (set : List Host.Cell) : Nat := if bitOf (setNat set 7 0 1) 6 then 32000 else 48000
def tdmSlave (set : List Host.Cell) : Bool := bitOf (setNat set 7 0 1) 7
/-- Active words: the bits set in SLOT_MASK (R307). -/
def tdmWords (set : List Host.Cell) : Nat := ((List.range 16).filter (bitOf (tdmMask set))).length

/-- Frames of so many words in the FIFO (R309). -/
def Tdm.level (x : Tdm) (words : Nat) : Nat := x.fifo.length / words

/-- FIFO level in frames (R309; log 166). -/
def State.tdmLevel (s : State) : Nat := s.str.tdm.level (tdmWords s.cfg.active)

/-- Group 0x000A. -/
def groupFrame (set : List Host.Cell) : Bool := inR 1 16 (tdmSlots set) && tdmMask set < 2 ^ tdmSlots set

/-- A source code of R308 names an enabled source whose rate equals Fs. -/
def sourceOk (set : List Host.Cell) (code : Nat) : Bool :=
  let ctrl := setNat set 5 0 1
  let audio := setNat set 5 1 1
  if code == 0 then true
  else if code ≤ 2 then
    (match bitsOf audio 0 2 with | 1 => bitOf ctrl 7 | 2 => bitOf ctrl 6 | _ => false) && (if bitOf audio 2 then 32000 else 48000) == tdmFs set
  else inR 0x40 0x5F code && ratesEqual (chnRate set (code - 0x40)) (some (tdmFs set, 1))

/-- Group 0x000B (R72, R270, R307). -/
def groupSource (set : List Host.Cell) : Bool :=
  bitsOf (setNat set 5 1 1) 0 2 != 3 && (List.range (tdmWords set)).all fun w => sourceOk set (setNat set 7 (16 + w) 1)

/-- Group 0x000C. -/
def groupTransport (set : List Host.Cell) : Bool :=
  let ctrl := setNat set 10 0 1
  let ip := setNat set 10 4 4
  (!bitOf ctrl 7 || bitOf ctrl 6) && (!bitOf ctrl 6 || (setNat set 10 2 2 != 0 && ip != 0 && ip != 0xFFFFFFFF))

/-- The customer owns a crew in a set (R463). -/
def crewOwned (set : List Host.Cell) (c : Nat) : Bool := bitOf (setNat set 13 0 1) c

/-- Group 0x000D: no crew changes owner while it is CUSTOMER_RUNNING; unit states count as they are (R73). -/
def groupCrews (s : State) (set : List Host.Cell) : Bool :=
  [6, 7].all fun c => crewOwned set c == crewOwned s.cfg.active c || !s.crewIs c .customerRunning

/-- Group 0x000E, with FLOOR_ADD from 0 to 50 (R419, R423). -/
def groupFloor (s : State) (set : List Host.Cell) : Bool :=
  let v := let x := setNat set 9 4 2; if x == 0 then 650 else x
  setNat set 11 7 1 ≤ 50 && decide (ledgerFloor s.trim.ledger.vbase (setNat set 11 7 1) ≤ v)

/-- One group's check on a set (R72). -/
def groupOk (s : State) (set : List Host.Cell) : Nat → Bool
  | 1 => groupH set
  | 2 => groupL set
  | 3 => (enabledLanes set).all (laneSourceOk set)
  | 4 => (enabledLanes set).all (laneRateOk set)
  | 5 => ((List.range 32).filter (profEn set)).all (profileOk set)
  | 6 => groupTx set
  | 7 => groupTime set
  | 8 => (List.range 4).all (streamGroupOk set)
  | 9 => groupCircuits set
  | 10 => groupFrame set
  | 11 => groupSource set
  | 12 => groupTransport set
  | 13 => groupCrews s set
  | 14 => groupFloor s set
  | _ => true

/-- The groups a set fails, lowest first (R73). -/
def State.failing (s : State) (set : List Host.Cell) : List Nat := ((List.range 14).map (· + 1)).filter fun g => !groupOk s set g

/-- The section reported for a failing group (R72). -/
def groupSection : Nat → Nat
  | 1 => 1 | 2 => 1 | 3 => 2 | 4 => 2 | 5 => 3 | 6 => 4 | 7 => 12 | 8 => 6 | 9 => 8 | 10 => 7 | 11 => 7 | 12 => 10 | 13 => 13 | _ => 9

end Sys2Proof.Machine
end

