-- ==== Sys2Proof/Machine/Crews.lean ====
section
/-! DEFINITION. Customer crews: packages, their loading, starts, stops and faults, and the stroke interface's accounts (R26, R352,
R357 to R361, R463 to R468). -/

namespace Sys2Proof.Machine

/-! ### Crew packages (R465) -/

/-- A segment of a crew package. -/
structure Seg where
  dst   : Nat
  scull : Nat
  data  : Bytes

/-- Bytes are all zero. -/
def zeros (b : Bytes) : Bool := b.all (· == 0)

/-- The segments of a package body; none where the layout is broken (R465). -/
def splitSegs : (fuel : Nat) → Bytes → Option (List Seg)
  | 0, b => if b.isEmpty then some [] else none
  | f + 1, b =>
    if b.isEmpty then some []
    else if b.length < 12 || !zeros (slice 5 3 b) then none
    else
      let n := fieldAt 8 4 b
      let m := ceilDiv n 4 * 4
      if b.length < 12 + m || !zeros ((b.take (12 + m)).drop (12 + n)) then none
      else (splitSegs f (b.drop (12 + m))).map fun l => { dst := fieldAt 0 4 b, scull := fieldAt 4 1 b, data := (b.drop 12).take n } :: l

/-- The system address of a segment of a crew's package; none for a destination outside its memories (R390, R465). -/
def Seg.addr (g : Seg) (crew : Nat) : Option Nat :=
  if g.scull < 8 then
    if g.dst / 0x10000 < 3 && g.dst % 0x10000 + g.data.length ≤ 0x8000 then some (0x04000000 + 0x40000 * (8 * crew + g.scull) + g.dst) else none
  else if g.scull == 0xFF && g.dst + g.data.length ≤ 15 * 0x10000 then some (0x10000000 + 0x100000 * crew + g.dst)
  else none

/-- Entry address of scull `i` in a package (R465). -/
def pkgEntry (b : Bytes) (i : Nat) : Nat := fieldAt (16 + 4 * i) 4 b

/-- The layout of a package for a crew (R465). -/
def pkgForm (crew : Nat) (b : Bytes) : Bool :=
  let lanes := fieldAt 49 1 b
  256 ≤ b.length && b.length ≤ 524288 && fieldAt 0 2 b == 0x4350 && fieldAt 2 1 b == 1 && fieldAt 3 1 b == 0 && fieldAt 4 4 b + 256 == b.length
    && fieldAt 48 1 b < 16 && lanes ≤ 16 && zeros (slice 50 2 b) && zeros ((slice 52 32 b).drop (2 * lanes)) && zeros (slice 84 12 b)
    && zeros (slice 128 64 b)
    && match splitSegs b.length (b.drop 256) with
      | some l => l.all fun g => (g.addr crew).isSome
      | none => false

/-- body_hash of a package is right (R465, R467). -/
def pkgHash (b : Bytes) : Bool := sha256 (b.drop 256) == slice 96 32 b

/-- What verifying a package answers (R451, R465, R466). -/
def State.pkgCheck (s : State) (crew : Nat) (b : Bytes) : Status :=
  if !pkgForm crew b then .invalidArg
  else match s.boot.makerKey with
    | none => .authFail
    | some key =>
      if s.boot.makerId == some (BitVec.ofNat 32 (fieldAt 12 4 b)) && pkgHash b && ecdsaVerify key (slice 192 64 b) (b.take 192) then .ok
      else .authFail

/-- Crew 6 or 7 belongs to the customer (R463). -/
def State.crewMine (s : State) (c : Nat) : Bool := (c == 6 || c == 7) && s.cfgBit 13 0 c

/-- The current half of a crew's package store (R450). -/
def State.package (s : State) (c : Nat) : Option Bytes :=
  if c == 6 then s.boot.cur6.map fun h => s.boot.pkg6.getD (b2n h) []
  else if c == 7 then s.boot.cur7.map fun h => s.boot.pkg7.getD (b2n h) []
  else none

/-- A valid package is held for a crew (R464). -/
def State.holdsPkg (s : State) (c : Nat) : Bool := (s.package c).any fun b => s.pkgCheck c b == .ok

/-! ### Crew memories and registers (R464, R467) -/

/-- Instances of a crew: the local memories of its sculls and instances 0 to 14 of its store (R395, R465). -/
def crewInsts (c : Nat) : List Nat := (List.range 24).map (24 * c + ·) ++ (List.range 15).map (192 + 16 * c + ·)

/-- The content of an instance is cleared: every byte reads 0 (R464, R467). -/
def State.clearInst (s : State) (n : Nat) : State :=
  let out (a : Nat) : Bool := a < instBase n || instBase n + instSize n ≤ a
  (s.onMem fun m => { m with cells := m.cells.filter fun c => out c.1, fresh := m.fresh.filter out }).onInst n fun i => { i with lost := 0 }

/-- A crew's memories are cleared and the registers of its sculls reset (R336, R464, R467). -/
def State.clearCrew (s : State) (c : Nat) : State :=
  let s1 := (s.setPowers (crewInsts c) 2).each (crewInsts c) State.clearInst
  { s1 with arr := { s1.arr with sculls := s1.arr.sculls.filter fun e => e.1 / 8 != c } }

/-- The segments of a package are loaded into cleared memories (R467). -/
def State.loadCrew (s : State) (c : Nat) (b : Bytes) : State :=
  (s.clearCrew c).each ((splitSegs b.length (b.drop 256)).getD []) fun s g =>
    match g.addr c with
    | some a => s.pokeBytes a g.data
    | none => s

/-- At a catch every scull with an entry starts there with RUN set, and the crew runs (R464, R467). The first stroke it owes is the
one whose blocks this catch posts (R358). -/
def State.startCrew (s : State) (c : Nat) (tag : U16) : State :=
  let b := (s.package c).getD []
  let s1 := s.each (List.range 8) fun s i =>
    if pkgEntry b i == 0xFFFFFFFF then s
    else s.onScull (8 * c + i) fun x => { x with pc := BitVec.ofNat 32 (pkgEntry b i), halted := false, run := true }
  let s2 := (s1.moveCrew c .customerRunning).onCrew c fun x => { x with starting := none, owes := s.stroke - 1, doneAt := s.stroke }
  (s2.audit 3 c).finish tag .ok []

/-- Every scull of a crew is halted with RUN clear and its DMA descriptors discarded, and the crew takes a state (R464). -/
def State.haltCrew (s : State) (c : Nat) (st : CrewSt) : State :=
  let s1 := s.each (List.range 8) fun s i =>
    s.onScull (8 * c + i) fun x => { x with halted := true, run := false, idle := false, branch := none, rpt := none, dmaQ := [] }
  (s1.onMem fun m => { m with starved := m.starved.filter fun k => k / 8 != c || 64 ≤ k }).moveCrew c st

/-! ### Chunked loads (R460, R464, R466) -/

/-- The form of a chunk against the load in progress: its package length and its own (R460). -/
def chunkForm (l : Option Load) (chunk pkgLen n : Nat) : Bool :=
  chunk == 0 || match l with
    | none => true
    | some l => l.pkgLen == pkgLen && n ≤ l.chunkLen && l.got == l.next * l.chunkLen && l.got + n ≤ l.pkgLen

/-- The chunk number is 0 or the next of the load in progress (R460). -/
def chunkNext (l : Option Load) (chunk : Nat) : Bool := chunk == 0 || l.any fun l => l.next == chunk

/-- The load after a chunk (R460). -/
def chunkTaken (l : Option Load) (chunk pkgLen n : Nat) : Load :=
  match chunk, l with
  | 0, _ => { pkgLen := pkgLen, chunkLen := n, next := 1, got := n }
  | _, some l => { l with next := l.next + 1, got := l.got + n }
  | c, none => { pkgLen := pkgLen, chunkLen := n, next := c + 1, got := n }

/-- Where a chunk begins: chunk number times the length of chunk 0 (R460). -/
def chunkAt (l : Option Load) (chunk : Nat) : Nat := chunk * (match l with | some l => l.chunkLen | none => 0)

/-- The chunks of a load cover exactly the package length (R460). -/
def loadWhole (l : Option Load) (pkgLen : Nat) : Bool := l.any fun l => l.pkgLen == pkgLen && l.got == pkgLen

/-- DRAM customer window of a crew (R394). -/
def crewWindow (c : Nat) : Nat := if c == 6 then 0x9D400000 else 0x9D800000

/-- What refuses CREW_LOAD: a crew that is not the customer's, or one that runs or is about to (R46, R464). -/
def State.crewRefuse (s : State) (c : Nat) : Option Status :=
  if !s.crewMine c || s.crewIs c .customerRunning || (s.crew c).starting.isSome then some .locked else none

/-- What refuses a chunk of CREW_LOAD, in the order of R33 (R46, R460, R464; log 35). -/
def State.chunkRefuse (s : State) (c chunk pkgLen n : Nat) : Option Status :=
  let l := findT s.boot.crewLoad c
  if !chunkForm l chunk pkgLen n then some .invalidArg
  else if !chunkNext l chunk || 524288 < pkgLen || pkgLen < n then some .range
  else s.crewRefuse c

/-- What refuses a commit of CREW_LOAD (R46, R460, R464). -/
def State.commitRefuse (s : State) (c pkgLen : Nat) : Option Status :=
  if !loadWhole (findT s.boot.crewLoad c) pkgLen then some .invalidArg else s.crewRefuse c

/-- A chunk is staged in the crew's DRAM window (R460, R466). -/
def State.stageChunk (s : State) (c chunk pkgLen : Nat) (data : Bytes) : State :=
  let l := findT s.boot.crewLoad c
  (s.pokeBytes (crewWindow c + chunkAt l chunk) data).onBoot fun b => { b with crewLoad := putT b.crewLoad c (chunkTaken l chunk pkgLen data.length) }

/-- Steps of a crew commit: 64 KiB hashed, then 64 KiB written (R466). -/
def commitSteps (pkgLen : Nat) : Nat := 2 * ceilDiv pkgLen 65536

/-- The commit of a crew begins; its load is used up (R466). -/
def State.beginCommit (s : State) (c : Nat) (tag : U16) (pkgLen : Nat) : State :=
  (s.progress tag 0 (commitSteps pkgLen)).onBoot fun b => { b with crewCommit := putT b.crewCommit c (tag, pkgLen), crewLoad := delT b.crewLoad c }

/-! ### The commands on a crew in order of receipt (R41, R464, R467) -/

/-- A command on the crew is in progress (R41). -/
def State.crewBusy (s : State) (c : Nat) : Bool :=
  (s.crew c).starting.isSome || (s.crew c).stopping.isSome || (findT s.boot.crewCommit c).isSome

/-- The tag of a waiting command becomes that of a long operation: QUEUED is sent (R44). -/
def State.queueTag (s : State) (tag : U16) : State :=
  match s.outstanding tag with
  | none => s
  | some t =>
    (s.onLinks fun l => { l with tags := l.tags.map fun e => if e.tag == tag then { e with long := true, stepAt := s.dtime } else e }).post
      (mkReply t.src t.opcode tag 0 .queued [])

/-- A command on a crew is carried out: true says that it is answered and the next may begin (R464, R466, R467). -/
def State.runCrewJob (s : State) (c : Nat) (tag : U16) : CrewJob → State × Bool
  | .start =>
    if !s.crewMine c || !(s.crewIs c .customerLoaded || s.crewIs c .faulted) then (s.finish tag .locked [], true)
    else match s.package c with
      | none => (s.finish tag .locked [], true)
      | some b =>
        if pkgHash b then ((s.loadCrew c b).onCrew c fun x => { x with starting := some tag }, false) else (s.finish tag .authFail [], true)
  | .stop =>
    if !s.crewIs c .customerRunning then (s.finish tag .locked [], true)
    else (s.onCrew c fun x => { x with stopping := some tag }, false)
  | .chunk k n data =>
    match s.chunkRefuse c k n data.length with
    | some st => (s.finish tag st [], true)
    | none => ((s.stageChunk c k n data).finish tag .ok [], true)
  | .commit n =>
    match s.commitRefuse c n with
    | some st => (s.finish tag st [], true)
    | none => ((s.queueTag tag).beginCommit c tag n, false)

/-- The next command on a crew begins when none is in progress (R41). -/
def State.serveCrew (s : State) (c : Nat) : (fuel : Nat) → State
  | 0 => s
  | f + 1 =>
    if s.crewBusy c then s
    else match (s.crew c).waits with
      | [] => s
      | (tag, j) :: rest =>
        let r := (s.onCrew c fun x => { x with waits := rest }).runCrewJob c tag j
        if r.2 then r.1.serveCrew c f else r.1

/-- A command on a crew takes its place behind those received before it (R41). -/
def State.waitCrew (s : State) (h : Hdr) (op c : Nat) (j : CrewJob) : State :=
  ((s.hold h op false).onCrew c fun x => { x with waits := x.waits ++ [(h.tag, j)] }).serveCrew c 64

/-- CREW_START or CREW_STOP (R464, R467). -/
def State.crewCommand (s : State) (h : Hdr) (op : Nat) (crew : U8) (reserved : BitVec 24) (start : Bool) : State :=
  s.host h op (fun _ => { op := op, form := h.len == 4 && reserved == 0, range := inR 6 7 crew.toNat, state := none }) fun s =>
    s.waitCrew h op crew.toNat (if start then .start else .stop)

/-- CREW_START (R467). -/
def execCrewStart (h : Hdr) (crew : U8) (reserved : BitVec 24) (s : State) : Out := .next (s.crewCommand h 0x00A1 crew reserved true)

/-- CREW_STOP (R464). -/
def execCrewStop (h : Hdr) (crew : U8) (reserved : BitVec 24) (s : State) : Out := .next (s.crewCommand h 0x00A2 crew reserved false)

/-- One crew at a catch: the stop and the start that wait for it take place, then the next command begins (R464, R467). -/
def State.catchCrew (s : State) (c : Nat) : State :=
  let s1 := match (s.crew c).stopping with
    | none => s
    | some tag => (((s.haltCrew c .customerLoaded).onCrew c fun x => { x with stopping := none }).audit 3 c).finish tag .ok []
  let s2 := match (s1.crew c).starting with
    | none => s1
    | some tag => s1.startCrew c tag
  s2.serveCrew c 64

/-! ### Faults and flag falls (R36, R352, R464) -/

/-- A running crew becomes FAULTED; a CREW_STOP that waits for the catch finds it so (R352, R464). -/
def State.faultCrew (s : State) (c : Nat) : State :=
  let stop := (s.crew c).stopping
  let s1 := (s.haltCrew c .faulted).onCrew c fun x => { x with stopping := none }
  ((s1.audit 3 c).finish (stop.getD 0) .locked []).serveCrew c 64

/-- CREW_FLAG_FALL: no accepted STK_DONE write for 4,000 strokes (R36, R360). -/
def execCrewFlagFall (crew : Fin 8) (s : State) : Out :=
  let c := crew.val
  if s.crewIs c .customerRunning && (s.crew c).doneAt + 4000 ≤ s.stroke then .next ((s.faultCrew c).flagFall 0x06 c) else .next s

/-- A scull halted under R352, found at a catch: a Molrel scull is reset with its contexts aborted, a customer crew is FAULTED (R36, R352). -/
def State.deadScull (s : State) (c : Nat) : State :=
  if !(s.scull c).dead then s
  else if s.crewIs (c / 8) .customerRunning then (s.faultCrew (c / 8)).onScull c fun x => { x with dead := false }
  else s.resetScull c

/-! ### Declarations (R26, R359 to R361) -/

/-- DONE lies at or after stroke `n` in 32-bit order (R359). -/
def doneAfter (done : U32) (n : Nat) : Bool := (done - BitVec.ofNat 32 n).toNat < 2147483648

/-- The crew has declared stroke `n`: every scull with RUN set holds a DONE at or after it, and there is one (R359). -/
def State.declared (s : State) (c n : Nat) : Bool :=
  let l := ((List.range 8).map fun i => s.scull (8 * c + i)).filter (·.run)
  !l.isEmpty && l.all fun x => doneAfter x.stkDone n

/-- The crew is behind at a catch: some stroke it owes, n with n + 2 reached, is not declared (R26). -/
def State.crewBehind (s : State) (c : Nat) : Bool :=
  decide ((s.crew c).owes + 2 ≤ s.stroke) && !s.declared c (s.stroke - 2)

/-- Strokes declared by a crew leave what it owes. -/
def State.dropOwed (s : State) (c : Nat) : (fuel : Nat) → State
  | 0 => s
  | f + 1 =>
    if (s.crew c).owes < s.stroke && s.declared c (s.crew c).owes then (s.onCrew c fun x => { x with owes := x.owes + 1 }).dropOwed c f else s

/-- The accounts of a running crew at a catch: BEHIND in its sculls and the behind counter (R26, R361). -/
def State.accountCrew (s : State) (c : Nat) : State :=
  if !s.crewIs c .customerRunning then s
  else
    let s0 := s.dropOwed c 64
    let late := s0.crewBehind c
    let s1 := s0.each (List.range 8) fun s i => s.onScull (8 * c + i) fun x => { x with behind := late }
    if late then s1.onCrew c fun x => { x with behindCnt := x.behindCnt + 1 } else s1

/-- CREW_MISSED_STROKE: the oldest stroke owed is withdrawn four strokes after it, with MISSED in every scull of the crew, and is
counted and reported (R26, R28, R360). -/
def execCrewMissedStroke (crew : Fin 8) (s : State) : Out :=
  let c := crew.val
  let s0 := s.dropOwed c 64
  if s.crewIs c .customerRunning && (s0.crew c).owes + 4 ≤ s.stroke && !s.declared c (s0.crew c).owes then
    let s1 := s0.each (List.range 8) fun s i => s.onScull (8 * c + i) fun x =>
      { x with missed := true, ipr := x.ipr ||| 4#8, missedCnt := BitVec.ofNat 16 (satTo 65535 (x.missedCnt.toNat + 1)) }
    let s2 := (s1.onCrew c fun x => { x with owes := x.owes + 1 }).onCnt fun k =>
      { k with crewMissed := modifyAt (· + 1) k.crewMissed c, accMissed := modifyAt (· + 1) k.accMissed c }
    .next s2.missedEvent
  else .next s

end Sys2Proof.Machine
end

