-- ==== Sys2Proof/Machine/Decimator.lean ====
section
/-! DEFINITION. The channel decimators of a stream group: from the levels at the edges of its clock to rows of samples with their
DTIMEs, through stalls (chapter 12, R290 to R298). -/

namespace Sys2Proof.Machine

/-- The level a channel of a group takes in a clock period: of pin k / 2, at the rising edge for an even channel, at the falling one for
an odd channel (R289, R290). -/
def edgeLevel (e : SckEdge) (k : Nat) : Bool := (if k % 2 == 0 then e.rise else e.fall).getLsbD (k / 2)

/-- The bit `d` back in a delay line of 4,096 bits, which a start fills with alternating ones, 0 the newest (R296, R297; log 162). -/
def lineBit (bits : List Bool) (d : Nat) : Bool := bits.getD d ((d - bits.length) % 2 == 1)

/-- Stages 1 to S of a channel: recipe and shift (R296). -/
def chnCascade (set : List Host.Cell) (c : Nat) : List (Nat × Nat) :=
  (List.range (chnStages set c)).map fun s => (if s + 1 == chnStages set c then chnRecipe set c else 6, chnShift set c (s + 1))

/-- What a bit makes of a channel: its decimator, the sample if one is due, and whether a stage saturated. -/
structure Decimated where
  deci : Decimator
  out  : Option Int
  sat  : Bool

/-- A channel takes the bit of rising edge `i` (R296). -/
def Decimator.push (set : List Host.Cell) (c i : Nat) (d : Decimator) (b : Bool) : Decimated :=
  let bits := (b :: d.bits).take 4096
  let x : Int := if lineBit bits (chnDelay set c) != chnInvert set c then 1048576 else -1048576
  let r := cascade (chnCascade set c) i d.lines { Quad.zero with ai := x }
  { deci := { bits := bits, lines := r.lines }, out := r.out.map (·.ai), sat := r.a }

/-- The course of a group over a stroke. -/
structure Course where
  edge   : Nat
  deci   : List Decimator
  halted : Bool
  lastAt : Nat × Nat
  /-- rows made, newest first, none where the stall makes a sample invalid, each with its DTIME -/
  rows   : List (Option (List Int) × Nat) := []
  /-- channels that saturated, by number within the group -/
  sat    : List Nat := []
  /-- offset of the row at which the decimators restarted -/
  again  : Option Nat := none
  /-- DTIME of the last edge, or of the start of the stroke -/
  prev   : Nat

/-- The decimators restart with cleared lines when they stood (R293, R297). -/
def Course.wake (c : Course) : Course :=
  if c.halted then { c with halted := false, deci := List.replicate 8 {}, again := some c.rows.length } else c

/-- A rising edge at a DTIME reaches the enabled channels of a group; every 2^S-th completes a row (R290, R295, R296). -/
def Course.take (set : List Host.Cell) (g at_ : Nat) (c : Course) (e : SckEdge) : Course :=
  let c := c.wake
  let r := (List.range 8).map fun k =>
    if chnEn set (8 * g + k) then (c.deci.getD k {}).push set (8 * g + k) c.edge (edgeLevel e k) else { deci := {}, out := none, sat := false }
  let two := 2 ^ groupStages set g
  let done := c.edge % two == 0
  { c with edge := c.edge + 1, deci := r.map (·.deci), sat := c.sat ++ (List.range 8).filter fun k => (r.map (·.sat)).getD k false
           rows := if done then (some (r.map fun x => x.out.getD 0), at_) :: c.rows else c.rows
           lastAt := if done then (c.edge / two, at_) else c.lastAt }

/-- A rising edge that a stall leaves out: the decimators stand, and a sample due at it is invalid (R293). -/
def Course.miss (set : List Host.Cell) (g at_ : Nat) (c : Course) : Course :=
  { c with edge := c.edge + 1, halted := true
           rows := if c.edge % 2 ^ groupStages set g == 0 then (none, at_) :: c.rows else c.rows }

/-- The stalls of a group over a stroke: whether it was stalled at an instant, and when stalls ended. -/
structure Stalls where
  at_  : Nat → Bool
  ends : List Nat

/-- A stall that ended after one edge and up to the next makes the decimators restart at that one (R293). -/
def Course.afterStall (c : Course) (h : Stalls) (t : Nat) : Course :=
  { c with prev := t, halted := c.halted || h.ends.any fun r => c.prev < r && r ≤ t }

/-- Edges of an internal clock, from index `edge` on, at t0 + i × SCK_DIV / 4 (R291). -/
def Course.inner (set : List Host.Cell) (g t0 : Nat) (h : Stalls) : (n : Nat) → Course → List SckEdge → Course
  | 0, c, _ => c
  | n + 1, c, l =>
    let t := (4 * t0 + c.edge * strDiv set g) / 4
    if h.at_ t then Course.inner set g t0 h n (c.miss set g t) l
    else Course.inner set g t0 h n ((c.afterStall h t).take set g t (l.headD { rise := 0, fall := 0, at_ := 0 })) (l.drop 1)

/-- Invalid samples of a stalled external clock before a DTIME, at the period `num / den` from the last sample on; `j` is the index of
the next (R293). -/
def Course.extrapolate (num den limit : Nat) : (fuel j : Nat) → Course → Course
  | 0, _, c => c
  | f + 1, j, c =>
    let t := c.lastAt.2 + (j - c.lastAt.1) * num / den
    if t < limit then Course.extrapolate num den limit f (j + 1) { c with rows := (none, t) :: c.rows } else c

/-- Edges of an external clock (R292, R293). The first after a stall completes the sample whose index the count has reached. -/
def Course.outer (set : List Host.Cell) (g first num den : Nat) (h : Stalls) : Course → List SckEdge → Course
  | c, [] => c
  | c, e :: l =>
    if h.at_ e.at_ then Course.outer set g first num den h { c with halted := true } l
    else
      let c0 := c.afterStall h e.at_
      let c1 := if c0.halted then
          let d := c0.extrapolate num den e.at_ 800 (first + c0.rows.length)
          { d with edge := (first + d.rows.length) * 2 ^ groupStages set g }
        else c0
      Course.outer set g first num den h (c1.take set g e.at_ e) l

/-- The course of group `g` over the stroke that ends at the present catch (R290 to R297). -/
def State.groupCourse (s : State) (g : Nat) (l : List SckEdge) : Course :=
  let set := s.cfg.active
  let x := s.group g
  let limit := strokeLen * s.stroke
  let now := s.groupIs g .stalled
  let h : Stalls := { at_ := wasAt now x.halts, ends := (x.halts.filter fun e => !e.2).map (·.1) }
  let c : Course := { edge := x.edge, deci := x.deci, halted := x.halted, lastAt := x.lastAt, prev := limit - strokeLen }
  if strExt set g then
    let num := 2 ^ groupStages set g * 38400000000000
    let den := strExtHz set g * (1000000 + x.ratePpm).toNat
    let d := Course.outer set g x.j num den h c l
    if now then { (d.extrapolate num den limit 800 (x.j + d.rows.length)) with halted := true } else d.afterStall h limit
  else (Course.inner set g x.t0 h (ceilDiv (4 * (limit - x.t0)) (strDiv set g) - x.edge) c l).afterStall h limit

/-- Rate error in ppm of an external clock against EXT_HZ over the edges of a stroke, to the nearest (R293; log 162). -/
def ratePpmOf (hz : Nat) (l : List SckEdge) : Option Int :=
  match l, l.getLast? with
  | a :: _ :: _, some b =>
    if a.at_ < b.at_ && hz != 0 then
      some (roundI (((l.length - 1) * 38400000 * 1000000 : Nat) - ((b.at_ - a.at_) * hz * 1000000 : Nat)) (((b.at_ - a.at_) * hz : Nat) : Int))
    else none
  | _, _ => none

end Sys2Proof.Machine
end

