-- ==== Sys2Proof/Machine/Streams.lean ====
section
/-! DEFINITION. Stream groups and the TDM port: commands, blocks, supervision and their meanings (chapter 12, R289 to R316). -/

namespace Sys2Proof.Machine

/-! ### Starting and stopping a group (R294) -/

/-- Channels of a group as bits: bit k is channel 8 g + k. -/
def chanBits (l : List Nat) : U8 := l.foldl (fun m c => m ||| (1#8 <<< (c % 8))) 0

/-- What refuses a STREAM_START, in the order of R294. -/
def State.streamRefuse (s : State) (g : Nat) : Option Status :=
  let set := s.cfg.active
  if s.groupIs g .running || s.groupIs g .stalled then some .busy
  else if !streamGroupOk set g then some .inconsistent
  else if (groupChans set g).isEmpty || (!strExt set g && !s.synIs 1 .locked) then some .locked
  else if strExt set g && !inR 1024000 6144000 (strExtHz set g) then some .range
  else none

/-- The next catch after the present instant (R9). -/
def State.nextCatch (s : State) : Nat := (s.dtime / strokeLen + 1) * strokeLen

/-- The next command on a group starts when none is in progress (R41, R294). -/
def State.serveGroup (s : State) (g : Nat) : (fuel : Nat) → State
  | 0 => s
  | f + 1 =>
    let x := s.group g
    if x.starting.isSome || x.stopping.isSome then s
    else match x.waits with
      | [] => s
      | (tag, true) :: rest =>
        let s1 := s.onGroup g fun x => { x with waits := rest }
        (match s.streamRefuse g with
          | some st => s1.finish tag st []
          | none =>
            let ext := strExt s.cfg.active g
            s1.onGroup g fun x => { x with starting := some (tag, if ext then s.dtime else s.nextCatch, ext), measure := none }).serveGroup g f
      | (tag, false) :: rest =>
        let s1 := s.onGroup g fun x => { x with waits := rest }
        if s.groupIs g .stopped then (s1.finish tag .locked []).serveGroup g f
        else s1.onGroup g fun x => { x with stopping := some tag }

/-- A command on a group takes its place behind those received before it (R41). -/
def State.groupCommand (s : State) (h : Hdr) (op : Nat) (group : U8) (reserved : BitVec 24) (start : Bool) : State :=
  s.host h op (fun _ => { op := op, form := h.len == 4 && reserved == 0, range := group.toNat < 4, state := none }) fun s =>
    ((s.hold h op false).onGroup group.toNat fun x => { x with waits := x.waits ++ [(h.tag, start)] }).serveGroup group.toNat 8

/-- STREAM_START (R294). -/
def execStreamStart (h : Hdr) (group : U8) (reserved : BitVec 24) (s : State) : Out := .next (s.groupCommand h 0x0070 group reserved true)

/-- STREAM_STOP (R294). -/
def execStreamStop (h : Hdr) (group : U8) (reserved : BitVec 24) (s : State) : Out := .next (s.groupCommand h 0x0071 group reserved false)

/-- Rising edge 0 of a group: it enters RUNNING and its start is answered (R294). -/
def State.beginGroup (s : State) (g t0 : Nat) (tag : U16) : State :=
  let s1 := (s.moveGroup g .running).onGroup g fun x =>
    { x with t0 := t0, j := 0, edge := 0, deci := List.replicate 8 {}, halts := [], halted := false, lastAt := (0, t0), starting := none
             measure := none, dead := false, settle := s.settleAll g, changed := 0, flags := 4, drops := [] }
  (s1.audit 4 g).finish tag .ok (le 8 t0)

/-- STREAM_START_TIMEOUT: no edge of an external clock for 10 ms (R294). -/
def execStreamStartTimeout (g : Fin 4) (s : State) : Out :=
  let x := s.group g.val
  match x.starting with
  | some (tag, t, true) =>
    if x.measure.isSome then .next s
    else
      .next (((((s.at (t + 10 * ms)).onGroup g.val fun x => { x with starting := none }).fallLine "stream start").finish tag .timeout []).serveGroup g.val 8)
  | _ => .next s

/-! ### Blocks (R295 to R301) -/

/-- Rising offsets gathered into ranges of neighbours: offset and count (R300). -/
def rangesOf : List Nat → List (Nat × Nat)
  | [] => []
  | o :: l =>
    match rangesOf l with
    | (a, n) :: r => if a == o + 1 then (o, n + 1) :: r else (o, 1) :: (a, n) :: r
    | [] => [(o, 1)]

/-- At most four ranges: the fourth reaches to the last invalid sample (R300). -/
def fourRanges (l : List (Nat × Nat)) : List (Nat × Nat) :=
  match l.drop 3, l.getLast? with
  | (a, _) :: _ :: _, some (b, n) => l.take 3 ++ [(a, b + n - a)]
  | _, _ => l

/-- A sample offset lies in an invalid range. -/
def inRanges (l : List (Nat × Nat)) (o : Nat) : Bool := l.any fun r => r.1 ≤ o && o < r.1 + r.2

/-- DTIME of the sample at an offset of a block, and the same in 1/256 reference cycle (R295). -/
def SBlock.time (b : SBlock) (o : Nat) : Nat := b.times.getD o ((b.tA + o * b.tP) / b.tQ)
def SBlock.time256 (b : SBlock) (o : Nat) : Nat :=
  match b.times[o]? with | some t => 256 * t | none => 256 * (b.tA + o * b.tP) / b.tQ

/-- The instant of the first sample of the block being filled and the sample period, as (tA, tP, tQ): (tA + o × tP) / tQ for an internal
clock; for an external one the period is the measured one (R291, R293, R295). -/
def State.groupTimes (s : State) (g : Nat) (c : Course) : Nat × Nat × Nat :=
  let set := s.cfg.active
  let x := s.group g
  let two := 2 ^ groupStages set g
  if !strExt set g then (4 * x.t0 + x.j * two * strDiv set g, two * strDiv set g, 4)
  else
    let q := strExtHz set g * (1000000 + x.ratePpm).toNat
    ((match c.rows.getLast? with | some r => r.2 | none => 0) * q, two * 38400000000000, q)

/-- Rows of the block with zeros where samples are invalid (R300). -/
def zeroRows (ranges : List (Nat × Nat)) : (o : Nat) → List (List Int) → List (List Int)
  | _, [] => []
  | o, r :: l => (if inRanges ranges o then List.replicate 8 0 else r) :: zeroRows ranges (o + 1) l

/-- The block descriptor (R300), with the buffer's address (R392). -/
def SBlock.bytes (b : SBlock) (g : Nat) : Bytes :=
  let settling := chanBits ((List.range 8).filter fun k => 0 < b.settle.getD k 0 || b.again.isSome)
  le 8 b.stroke ++ le 8 b.jFirst ++ le 8 (if b.rows.isEmpty then 0 else b.time 0) ++ le 4 (0x20A80000 + 25600 * (16 * g + b.buffer))
    ++ le 2 b.rows.length ++ le 1 b.gen.toNat ++ le 1 b.stages ++ le 2 b.flags.toNat ++ le 1 b.sat.toNat ++ le 1 b.changed.toNat
    ++ le 1 settling.toNat ++ le 1 b.ranges.length ++ le 2 0
    ++ (((b.ranges ++ List.replicate 4 (0, 0)).take 4).map fun r : Nat × Nat => le 2 r.1 ++ le 2 r.2).flatten ++ le 8 0

/-- A sample of channel `k` settles (R297). -/
def SBlock.settles (b : SBlock) (o k : Nat) : Bool :=
  o < b.settle.getD k 0 || (match b.again with | some a => a ≤ o && o < a + 47 | none => false)

/-- Settling left after `count` samples, in which the decimators may have restarted (R297). -/
def State.settleLeft (s : State) (g count : Nat) (again : Option Nat) : List Nat :=
  ((s.group g).settle.zip (s.settleAll g)).map fun e => max (e.1 - count) (match again with | some a => a + e.2 - count | none => 0)

/-- The block that a group's course makes (R299 to R301). -/
def State.groupBlock (s : State) (g : Nat) (c : Course) : SBlock :=
  let x := s.group g
  let tm := s.groupTimes g c
  let rows := c.rows.reverse.take 800
  let invalid := (List.range rows.length).filter fun o => x.drops.contains o || (rows.getD o (none, 0)).1.isNone
  let ranges := fourRanges (rangesOf invalid)
  let stall := rows.any fun r => r.1.isNone
  { stroke := s.stroke - 1, jFirst := x.j, tA := tm.1, tP := tm.2.1, tQ := tm.2.2, buffer := x.buffer, gen := x.w.gen
    stages := groupStages s.cfg.active g, flags := x.flags ||| (if x.stopping.isSome then 16 else 0) ||| (if stall then 1 else 0)
    sat := chanBits c.sat, changed := x.changed, settle := x.settle, again := c.again, times := if strExt s.cfg.active g then rows.map (·.2) else []
    ranges := ranges, rows := zeroRows ranges 0 (rows.map fun r => r.1.getD (List.replicate 8 0)) }

/-- The block of the stroke that ends at a catch is posted, its samples and descriptor reaching the shared store (R299, R300, R392). -/
def State.postGroup (s : State) (g : Nat) (l : List SckEdge) : State :=
  let x := s.group g
  let c := s.groupCourse g l
  let b := s.groupBlock g c
  let count := b.rows.length
  let lost := (c.rows.filter fun r => r.1.isNone).length
  let s1 := s.onGroup g fun x =>
    { x with j := x.j + count, edge := c.edge, deci := c.deci, halted := c.halted, lastAt := c.lastAt, halts := []
             settle := s.settleLeft g count c.again, changed := 0, flags := 0, drops := []
             blocks := (b :: x.blocks).take 6, buffer := (x.buffer + 1) % 16, stallSamples := x.stallSamples + BitVec.ofNat 32 lost }
  let s2 := s1.memWrite (0x20A80000 + 25600 * (16 * g + x.buffer)) ((b.rows.map fun r => (r.map (leI 4)).flatten).flatten)
  s2.memWrite (0x20048000 + 128 * g + 64 * ((s.stroke - 1) % 2)) (b.bytes g)

/-- The start of a group at a catch: edge 0 of an internal clock, or the course of an external clock's measurement (R294). -/
def State.startAtCatch (s : State) (g : Nat) (i : Option StreamIn) : State :=
  let x := s.group g
  match x.starting with
  | none => s
  | some (tag, t, false) => if t ≤ s.dtime then s.beginGroup g (strokeLen * s.stroke) tag else s
  | some (tag, _, true) =>
    let fail : State := (s.onGroup g fun x => { x with starting := none, measure := none }).finish tag .hwFault []
    match x.measure, i with
    | some m, some a =>
      if s.stroke ≤ m then s
      else match ratePpmOf (strExtHz s.cfg.active g) a.edges with
        | some r => if 20000 < r.natAbs then fail else (s.onGroup g fun x => { x with ratePpm := r }).beginGroup g a.next tag
        | none => fail
    | some _, none => fail
    | none, some _ => s.onGroup g fun x => { x with measure := some s.stroke }
    | none, none => s

/-- A leak capture that uses a group is spoilt when the group stops or faults (R331). -/
def State.spoilLeak (s : State) (g : Nat) : State :=
  match s.str.leak.run with
  | some (p :: _) =>
    let a := s.cfgNat 8 (369 + 8 * p) 1
    let b := s.cfgNat 8 (370 + 8 * p) 1
    if !s.str.leak.captured && (a / 8 == g || b / 8 == g) then s.onLeak fun l => { l with broken := true } else s
  | _ => s

/-- The rate error of a running external group over a stroke without a stall (R293). -/
def State.rateGroup (s : State) (g : Nat) (whole : Bool) (l : List SckEdge) : State :=
  if whole && strExt s.cfg.active g && s.groupIs g .running then
    match ratePpmOf (strExtHz s.cfg.active g) l with
    | some r => s.onGroup g fun x => { x with ratePpm := r }
    | none => s
  else s

/-- One stream group at a catch: its block, its stop, its start, its measured rate, and the commands that wait (R293, R294, R299). -/
def State.catchGroup (s : State) (ins : List StreamIn) (g : Nat) : State :=
  let i := ins.find? fun a => a.group.val == g
  let l := match i with | some a => a.edges | none => []
  let whole := (s.group g).halts.isEmpty
  let last := s.groupIs g .rateFault && bitOf (s.group g).flags.toNat 4
  let s1 := if s.groupIs g .running || s.groupIs g .stalled || last then (s.postGroup g l).rateGroup g whole l else s
  let s2 := match (s1.group g).stopping with
    | none => s1
    | some tag =>
      (((s1.moveGroup g .stopped).onGroup g fun x => { x with stopping := none, flags := 0, dead := false }).spoilLeak g).finish tag .ok []
  (s2.startAtCatch g i).serveGroup g 8

/-! ### Supervision (R293, R301) -/

/-- STREAM_STALL: no edge for 4 µs, or an internal group without SYN_A (R293). -/
def execStreamStall (g : Fin 4) (s : State) : Out :=
  if s.groupIs g.val .running && (strExt s.cfg.active g.val || !s.synIs 1 .locked) then .next (s.stallGroup g.val) else .next s

/-- STREAM_STALL_END: 64 good periods, or SYN_A locked again (R293, R297). -/
def execStreamStallEnd (g : Fin 4) (s : State) : Out :=
  if s.groupIs g.val .stalled && (strExt s.cfg.active g.val || (s.synIs 1 .locked && !(s.group g.val).dead)) then .next (s.resumeGroup g.val)
  else .next s

/-- STREAM_RATE_FAULT: an external clock was off by more than 2% over the last stroke; the block of this stroke is the last (R293, R299). -/
def execStreamRateFault (g : Fin 4) (s : State) : Out :=
  let ppm := (s.group g.val).ratePpm
  if s.groupIs g.val .running && strExt s.cfg.active g.val && 20000 < ppm.natAbs then
    let s1 := (s.moveGroup g.val .rateFault).onGroup g.val fun x => { x with flags := x.flags ||| 16, rateFaults := x.rateFaults + 1 }
    .next ((s1.spoilLeak g.val).streamFault g.val 2 ppm)
  else .next s

/-- STREAM_SAMPLE_DROP: the sample at an offset of the block is dropped in every channel of the group (R301). -/
def execStreamSampleDrop (g : Fin 4) (ofs : Nat) (s : State) : Out :=
  if (s.groupIs g.val .running || s.groupIs g.val .stalled) && ofs < 800 && !(s.group g.val).drops.contains ofs then
    .next (s.onGroup g.val fun x => { x with drops := x.drops ++ [ofs], flags := x.flags ||| 2, dropSamples := x.dropSamples + 1 })
  else .next s

/-! ### Changes of configuration (R304) -/

/-- A running group takes the new set at a catch (R298, R304); the state word's GEN is advanced by the caller. -/
def State.changeGroup (s : State) (old new : List Host.Cell) (castled : Bool) (g : Nat) : State :=
  if !(s.groupIs g .running || s.groupIs g .stalled) then s
  else
    let chans := (List.range 8).map (8 * g + ·)
    let hard := strExt old g != strExt new g || strDiv old g != strDiv new g
      || chans.any fun c => chnEn old c != chnEn new c || chnStages old c != chnStages new c
    let coef := chans.filter fun c =>
      spanChanged old new 6 (65 + 16 * c) 1 || spanChanged old new 6 (68 + 16 * c) 4
        || bitOf (setNat old 6 (64 + 16 * c) 1) 6 != bitOf (setNat new 6 (64 + 16 * c) 1) 6
    let delay := chans.filter fun c => spanChanged old new 6 (66 + 16 * c) 2 || spanChanged old new 6 (72 + 16 * c) 1
    let cfg : U16 := if castled then 8 else 0
    if hard then
      s.onGroup g fun x =>
        { x with t0 := strokeLen * s.stroke, j := 0, edge := 0, deci := List.replicate 8 {}, lastAt := (0, strokeLen * s.stroke), settle := s.settleAll g
                 flags := x.flags ||| 4 ||| cfg }
    else
      s.onGroup g fun x =>
        { x with changed := x.changed ||| chanBits (coef ++ delay), flags := x.flags ||| cfg
                 settle := (List.range 8).map fun k =>
                   if delay.contains (8 * g + k) && chnEn new (8 * g + k) then 47 else x.settle.getD k 0 }

/-! ### The TDM port (R305 to R315) -/

/-- The next command on the port starts when none is in progress (R41, R312). -/
def State.serveTdm (s : State) : (fuel : Nat) → State
  | 0 => s
  | f + 1 =>
    let x := s.str.tdm
    if x.starting.isSome || x.stopping.isSome then s
    else match x.waits with
      | [] => s
      | (tag, true) :: rest =>
        let s1 := s.onTdm fun x => { x with waits := rest }
        if !s.tdmIs .stopped then (s1.finish tag .busy []).serveTdm f
        else if !groupFrame s.cfg.active || !groupSource s.cfg.active then (s1.finish tag .inconsistent []).serveTdm f
        else s1.onTdm fun x => { x with starting := some (tag, s.dtime) }
      | (tag, false) :: rest =>
        let s1 := s.onTdm fun x => { x with waits := rest }
        if s.tdmIs .stopped then (s1.finish tag .locked []).serveTdm f
        else s1.onTdm fun x => { x with stopping := some tag }

/-- A command on the port takes its place behind those received before it (R41). -/
def State.tdmCommand (s : State) (h : Hdr) (op : Nat) (start : Bool) : State :=
  s.host h op (fun _ => { op := op, form := h.len == 0, range := true, state := none }) fun s =>
    ((s.hold h op false).onTdm fun x => { x with waits := x.waits ++ [(h.tag, start)] }).serveTdm 8

/-- TDM_START (R312). -/
def execTdmStart (h : Hdr) (s : State) : Out := .next (s.tdmCommand h 0x0072 true)

/-- TDM_STOP (R312). -/
def execTdmStop (h : Hdr) (s : State) : Out := .next (s.tdmCommand h 0x0073 false)

/-- TDM_START_TIMEOUT: a slave start without edges for 10 ms (R312). -/
def execTdmStartTimeout (s : State) : Out :=
  match s.str.tdm.starting with
  | some (tag, t) =>
    if tdmSlave s.cfg.active then
      .next (((((s.at (t + 10 * ms)).onTdm fun x => { x with starting := none }).fallLine "TDM start").finish tag .timeout []).serveTdm 8)
    else .next s
  | none => .next s

/-- A fresh start or restart of what the port sends: FIFO, tags and slots (R311, R312). -/
def Tdm.clear (x : Tdm) : Tdm := { x with fifo := [], missing := 0, excess := 0, skew := 0, frame := [] }

/-- The rate error in ppm of `n` frames that took `span` reference cycles, to the nearest (R312, R313; log 166). -/
def framePpm (set : List Host.Cell) (n span : Nat) : Int :=
  if span == 0 then 0 else roundI (((n * (38400000 / tdmFs set) : Nat) - (span : Nat) : Int) * 1000000) (span : Int)

/-- What the measurement of a slave start finds over four frames: their lengths in BCLK periods and the cycles they took (R305, R312). -/
def slaveGood (set : List Host.Cell) (lens : List Nat) (span : Nat) : Bool :=
  let lf := lens.headD 0
  lens.length == 4 && lens.all (· == lf) && inR (32 * tdmSlots set) 512 lf && (framePpm set 4 span).natAbs ≤ 20000

/-- TDM_START_FRAME_SYNC: the first frame sync of the started port, or the failure of the slave measurement (R305, R312). -/
def execTdmStartFrameSync (lens : List Nat) (span : Nat) (s : State) : Out :=
  match s.str.tdm.starting with
  | none => .next s
  | some (tag, t) =>
    let set := s.cfg.active
    let slave := tdmSlave set
    if slave && !slaveGood set lens span then .next (((s.onTdm fun x => { x with starting := none }).finish tag .hwFault []).serveTdm 8)
    else
      let s1 := if slave then s else s.at ((t / strokeLen + 1) * strokeLen)
      let s2 := (s1.moveTdm .running).onTdm fun x =>
        { x.clear with starting := none, silence := .start, lf := if slave then lens.headD 0 else 512
                       ratePpm := if slave then framePpm set 4 span else 0, stalled := false, fsLog := [] }
      .next (((s2.audit 4 4).finish tag .ok (le 8 s1.dtime)).serveTdm 8)

/-- A restart of the port: the FIFO is flushed and the tags restart (R311). -/
def State.tdmRestart (s : State) : State := s.onTdm fun x => { x.clear with silence := .restart }

/-- SLOT_SLIP: the first word whose tag is not its slot's active index (R310, R311). -/
def execSlotSlip (s : State) : Out :=
  if s.tdmIs .running && s.str.tdm.skew != 0 && s.str.tdm.silence == .none && !s.str.tdm.stalled then
    let auto := s.cfgBit 7 0 5
    let s1 := ((s.moveTdm .slipped).onTdm fun x => { x with slips := x.slips + 1 }).raise 0x8005 4 4 (le 1 (b2n auto) ++ le 3 0)
    .next (if auto then s1.tdmRestart else s1)
  else .next s

/-- Words flow from the FIFO: the port runs, sends data, and its slave clock is there. -/
def State.tdmFlows (s : State) : Bool :=
  !s.tdmIs .stopped && s.str.tdm.silence == .none && !s.str.tdm.stalled && s.str.tdm.stopping.isNone && tdmWords s.cfg.active != 0

/-- TDM_UNDERRUN: a word due with the FIFO empty is sent as 0, and the words behind it fall one slot back (R310). -/
def execTdmUnderrun (s : State) : Out :=
  if s.tdmFlows && s.str.tdm.fifo.isEmpty then
    .next (s.onTdm fun x => { x with underrun := x.underrun + 1, missing := x.missing + 1, skew := (x.skew + 1) % tdmWords s.cfg.active })
  else .next s

/-- TDM_OVERFLOW: a frame that finds 64 frames in the FIFO is discarded; frames older than the newest 32 that a restart
discards are not counted (R310, R311). -/
def execTdmOverflow (s : State) : Out :=
  if !s.tdmIs .stopped && s.str.tdm.silence == .none && s.tdmLevel == 64 then .next (s.onTdm fun x => { x with overflow := x.overflow + 1, excess := x.excess + 1 })
  else .next s

/-- The newest 32 frames of the FIFO, silent ones before them where there are fewer (R311). -/
def Tdm.newest (words : Nat) (x : Tdm) : List Int :=
  List.replicate (32 * words - x.fifo.length) 0 ++ x.fifo.drop (x.fifo.length - 32 * words)

/-- TDM_RESTART_END: after 256 silent frames data resume at the target level (R311, R312). -/
def execTdmRestartEnd (s : State) : Out :=
  let target (x : Tdm) : Tdm := { x with silence := .none, fifo := x.newest (tdmWords s.cfg.active) }
  if s.tdmIs .stopped || s.str.tdm.stalled then .next s
  else
    match s.str.tdm.silence with
    | .none => .next s
    | .start => .next (s.onTdm target)
    | .restart => .next ((s.moveTdm .running).onTdm fun x => { target x with restarts := x.restarts + 1 })

/-- An audio oscillator item that was not run falls due when TDM_STOP completes (R418). -/
def State.audioDue (s : State) : State := if s.trim.marked.contains 0x0600 then s.trimAuto [0x0600] false else s

/-- TDM_STOP_END: the last silent frame of a stop has ended (R312). -/
def execTdmStopEnd (s : State) : Out :=
  match s.str.tdm.stopping with
  | none => .next s
  | some tag =>
    let s1 := (s.moveTdm .stopped).onTdm fun x => { x.clear with stopping := none, silence := .none, stalled := false }
    .next ((s1.finish tag .ok []).audioDue.serveTdm 8)

/-- TDM_SLAVE_STALL: no TDM_BCLK edge for 4 µs (R313). -/
def execTdmSlaveStall (s : State) : Out :=
  if tdmSlave s.cfg.active && !s.tdmIs .stopped && !s.str.tdm.stalled then
    .next ((s.onTdm fun x => { x with stalled := true }).streamFault 4 0 s.str.tdm.ratePpm)
  else .next s

/-- TDM_SLAVE_STALL_END: four frames of length Lf, and a restart (R311, R313). -/
def execTdmSlaveStallEnd (s : State) : Out :=
  if s.str.tdm.stalled && !s.tdmIs .stopped then
    .next (((s.onTdm fun x => { x with stalled := false }).streamFault 4 1 s.str.tdm.ratePpm).tdmRestart)
  else .next s

/-- TDM_FRAME_ERROR: an early or late sync restarts the slot count there, which displaces as many words as it left unsent or
sent twice; a missing one lets it run on (R313). -/
def execTdmFrameError (missing : Bool) (displaced : Nat) (s : State) : Out :=
  if tdmSlave s.cfg.active && !s.tdmIs .stopped && !s.str.tdm.stalled then
    let n := tdmWords s.cfg.active
    .next (s.onTdm fun x =>
      { x with fsErrors := x.fsErrors + 1, skew := if missing || n == 0 || x.silence != .none then x.skew else (x.skew + displaced) % n })
  else .next s

/-- TDM_RATE_FAULT: slave frames off by more than 2% over 16 strokes stop the port; a stop in progress is then done (R313). -/
def execTdmRateFault (s : State) : Out :=
  if tdmSlave s.cfg.active && !s.tdmIs .stopped && 20000 < s.str.tdm.ratePpm.natAbs then
    let s1 := (s.moveTdm .stopped).onTdm fun x => { x.clear with stopping := none, silence := .none, stalled := false }
    let s2 := s1.streamFault 4 2 s.str.tdm.ratePpm
    .next ((match s.str.tdm.stopping with | some tag => (s2.finish tag .ok []).audioDue | none => s2).serveTdm 8)
  else .next s

/-- `x` kept within `lo` to `hi`. -/
def clampI (lo hi x : Int) : Int := if x < lo then lo else if hi < x then hi else x

/-! ### Frames of the TDM port (R140, R141, R305 to R309) -/

/-- Frequency of the audio oscillator in Hz at a tuning word, its coarse band apart (R140). -/
def audioHz (w : Int) : Int := Int.fdiv (196608000 * (1000000000 + w)) 1000000000

/-- Oscillator cycles of a frame: the oscillator is divided by 4 at 48 kHz and by 6 at 32 kHz, to 1,024 periods a frame (R140). -/
def oscPerFrame (set : List Host.Cell) : Nat := if tdmFs set == 48000 then 4 * 1024 else 6 * 1024

/-- A sample of a stream channel in frame `k` of the `n` written over a stroke, resampled; none where the group gave none or an invalid
one (R293, R301, R308). -/
def State.streamWord (s : State) (c k n : Nat) : Option Int :=
  match (s.group (c / 8)).blocks.head? with
  | some b =>
    let o := k * b.rows.length / n
    if b.stroke + 1 != s.stroke || b.rows.isEmpty || inRanges b.ranges o then none
    else some (satI 24 (Config.resample (b.rows.map fun r => r.getD (c % 8) 0) k n))
  | none => none

/-- The word that source SRC[w] gives frame `k` of the `n` written over a stroke, none where it is invalid (R281, R308). -/
def State.sourceWord (s : State) (w k n : Nat) : Option Int :=
  let src := setNat s.cfg.active 7 (16 + w) 1
  if src == 1 || src == 2 then s.audioAt (src == 2) (strokeLen * (s.stroke - 1) + k * strokeLen / n)
  else if 0x40 ≤ src then s.streamWord (src - 0x40) k n
  else some 0

/-- The words of the `n` frames that the converter writes over a stroke, frame by frame, and how many of them are invalid (R307, R308). -/
def State.framesWritten (s : State) (n : Nat) : List Int × Nat :=
  let l := ((List.range n).map fun k => (List.range (tdmWords s.cfg.active)).map fun w => s.sourceWord w k n).flatten
  (l.map fun x => x.getD 0, l.countP (·.isNone))

/-- The active index of a slot, when it carries a word: slots at and above SLOTS, and those whose mask bit is clear, carry none (R305, R307). -/
def slotIndex (set : List Host.Cell) (k : Nat) : Option Nat :=
  if k < tdmSlots set && bitOf (tdmMask set) k then some ((List.range k).filter (bitOf (tdmMask set))).length else none

/-- TDM_DOUT in BCLK period `p` after the frame origin: words most significant bit first, the sample in bits 31 to 8 (R305, R307). -/
def tdmDout (set : List Host.Cell) (words : List Int) (p : Nat) : Option Bool :=
  match slotIndex set (p / 32) with
  | some w => some (bitOf (twos 3 (words.getD w 0) * 256) (31 - p % 32))
  | none => if bitOf (setNat set 7 0 1) 4 then none else some false

/-- TDM_FS of a master in BCLK period `p` after the frame origin: formats 0 and 2 rise one period before it, 1 and 3 at it; 0 and 1 last
one period, 2 and 3 half a frame (R306). -/
def tdmFsLevel (set : List Host.Cell) (lf p : Nat) : Bool :=
  let fmt := bitsOf (setNat set 7 4 1) 2 2
  let q := if fmt % 2 == 0 then (p + 1) % lf else p
  q < if fmt < 2 then 1 else lf / 2

/-- The levels of a frame on the balls, BCLK period by period: TDM_FS, which a slave does not drive, and TDM_DOUT (R305 to R307). -/
def tdmFrame (set : List Host.Cell) (lf : Nat) (words : List Int) : List (Option Bool × Option Bool) :=
  (List.range lf).map fun p => (if tdmSlave set then none else some (tdmFsLevel set lf p), tdmDout set words p)

/-- The FIFO over a stroke: whole frames written while it has room for 64, the others discarded and counted, or the newest 32 kept over silent
frames; and words read in slot order (R309 to R311). It answers the words sent last. -/
def Tdm.run (n read : Nat) (new : List Int) (x : Tdm) : Tdm × List Int :=
  if x.silence != .none then
    let l := x.fifo ++ new
    ({ x with fifo := l.drop (l.length - 32 * n), missing := 0, excess := 0 }, [])
  else
    let taken := read * n - x.missing
    let l := x.fifo ++ new
    let room := min l.length (taken + 64 * n)
    let lost := (l.length - room) / n
    let kept := l.take (l.length - lost * n)
    ({ x with fifo := kept.drop taken, missing := 0, excess := 0, overflow := x.overflow + BitVec.ofNat 32 (lost - x.excess) }
      , (kept.take taken).drop ((kept.take taken).length - n))

/-- The frame syncs of a stroke join those of the strokes before, and the rate error is that over 16 strokes (R313). -/
def Tdm.measure (set : List Host.Cell) (edges : List Nat) (x : Tdm) : Tdm :=
  match edges with
  | [] => { x with fsLog := [] }
  | e :: _ =>
    let l := ((e, edges.length) :: x.fsLog).take 17
    match l[16]? with
    | some o => { x with fsLog := l, ratePpm := framePpm set ((l.drop 1).map (·.2)).sum (e - o.1) }
    | none => { x with fsLog := l }

/-- One step of the tuning word: at most 1,000, within its limits (R140, R141, R309). -/
def Tdm.steer (slave : Bool) (level : Nat) (x : Tdm) : Tdm :=
  { x with tune := clampI (-1000000) 1000000 (x.tune + clampI (-1000) 1000 (Config.tuneStep slave x.count level x.tune)) }

/-- The TDM port over a stroke: the oscillator's count, frames written and read, the frame on the balls, the slave rate, and one step of the
tuning word (R140, R305 to R313). -/
def State.catchTdm (s : State) (i : CatchIn) : State :=
  if s.tdmIs .stopped then s.serveTdm 8
  else
    let set := s.cfg.active
    let n := tdmWords set
    let x := s.str.tdm
    let all := x.part + i.oscCount
    let made := all / oscPerFrame set
    let w := s.framesWritten made
    let read := if x.stalled then 0 else if tdmSlave set then i.fsEdges.length else made
    let silent := x.silence != .none || x.stopping.isSome
    let r := x.run n read w.1
    let words := if silent then List.replicate n 0 else r.2
    let y : Tdm := { r.1 with count := i.oscCount, part := all % oscPerFrame set, invalidWords := x.invalidWords + BitVec.ofNat 32 w.2
                              frame := if read == 0 then x.frame else tdmFrame set x.lf words }
    let z := if tdmSlave set then y.measure set i.fsEdges else { y with ratePpm := 0 }
    (s.onTdm fun _ => z.steer (tdmSlave set) (z.level n)).serveTdm 8

/-- A castling that changes a grouped field other than SRC restarts a running port (R311, R315). -/
def State.changeTdm (s : State) (old new : List Host.Cell) : State :=
  if !s.tdmIs .stopped && (bitsOf (setNat old 7 0 1) 6 2 != bitsOf (setNat new 7 0 1) 6 2 || spanChanged old new 7 1 3) then s.tdmRestart
  else s

end Sys2Proof.Machine
end

