-- ==== Sys2Proof/Machine/Energy.lean ====
section
/-! DEFINITION. Energy windows and pulse outputs: operations and meanings (chapter 13, R317 to R328, R334, R335). -/

namespace Sys2Proof.Machine

/-! ### Section METERING (R334, R335) -/

def cirNat (set : List Host.Cell) (c ofs n : Nat) : Nat := setNat set 8 (16 + 12 * c + ofs) n
def cirPulseEn (set : List Host.Cell) (c : Nat) : Bool := bitOf (cirNat set c 0 1) 7 && bitOf (cirNat set c 0 1) 6
def cirGpio (set : List Host.Cell) (c : Nat) : Nat := cirNat set c 3 1
/-- WIN; 0 selects 800. -/
def meterWin (set : List Host.Cell) : Nat := let w := setNat set 8 2 2; if w == 0 then 800 else w
/-- PULSE_MS in reference cycles; 0 selects 10. -/
def State.pulseLen (s : State) : Nat := (let p := s.cfgNat 8 4 1; if p == 0 then 10 else p) * ms

/-- What a circuit's work for a stroke under this set is done under. -/
def planOf (set : List Host.Cell) (c : Nat) : Plan :=
  { en := bitOf (setNat set 8 0 1) 7, cir := bitOf (cirNat set c 0 1) 7, v := cirNat set c 1 1, i := cirNat set c 2 1, win := meterWin set }

/-- The plan of the stroke that begins, after the plan of the stroke before it (R322). -/
def Plan.next (old new : Plan) : Plan :=
  let mark := old.cir != new.cir || old.v != new.v || old.i != new.i
  { new with fresh := mark || (new.en && !old.en), mark := mark }

/-! ### Pulses (R326, R327) -/

/-- A circuit's ball has another function, or a lower-numbered circuit has it (R327, R479). -/
def State.pulseBlocked (s : State) (c : Nat) : Bool :=
  let set := s.cfg.active
  let g := cirGpio set c
  (if g == 0 then s.spiOn else s.cfgNat 9 10 1 == g || bitOf (s.cfgNat 9 12 2) g)
    || (List.range c).any fun d => cirPulseEn set d && cirGpio set d == g

/-- The total T that pulses are counted against (R326). -/
def State.pulseTotal (s : State) (c : Nat) : Nat :=
  let x := s.circuit c
  match bitsOf (cirNat s.cfg.active c 0 1) 4 2 with
  | 0 => x.eImp
  | 1 => x.eExp
  | _ => x.eImp + x.eExp

/-- The pulse accounting restarts (R326). -/
def State.restartPulses (s : State) (c : Nat) : State :=
  let t := s.pulseTotal c
  s.onCircuit c fun x => { x with base := t, counted := 0, pulses := 0, pending := 0, pulseLost := false }

/-- The ball of a pulse output driven. -/
def State.setPulse (s : State) (g : Nat) (on : Bool) : State :=
  s.onPins fun p => { p with pulses := if on then g :: p.pulses.filter (· != g) else p.pulses.filter (· != g) }

/-- The next pulse rises when one is pending and the output is free (R326). -/
def State.risePulse (s : State) (c : Nat) : State :=
  let x := s.circuit c
  if x.pending == 0 || x.highTill.isSome || x.lowTill.isSome || s.pulseBlocked c || !cirPulseEn s.cfg.active c then s
  else
    (s.onCircuit c fun x => { x with pending := x.pending - 1, pulses := x.pulses + 1, highTill := some (s.dtime + s.pulseLen) }).setPulse
      (cirGpio s.cfg.active c) true

/-- Pulses owed for what T has passed (R326, R327). -/
def State.owePulses (s : State) (c : Nat) : State :=
  let raw := cirNat s.cfg.active c 4 8
  if !cirPulseEn s.cfg.active c || raw == 0 then s
  else
    let x := s.circuit c
    let all := (s.pulseTotal c - x.base) / raw
    let owed := all - x.counted
    let s1 := s.onCircuit c fun x =>
      if s.pulseBlocked c then { x with counted := all, pulses := x.pulses + BitVec.ofNat 32 owed }
      else { x with counted := all, pending := min 65535 (x.pending + owed), pulseLost := x.pulseLost || decide (65535 < x.pending + owed) }
    s1.risePulse c

/-- Changes of the pulse fields, or of the ball's function, at a catch (R326, R327). -/
def State.changePulses (s : State) (old : List Host.Cell) (c : Nat) : State :=
  let new := s.cfg.active
  let fields := bitsOf (cirNat old c 0 1) 4 3 != bitsOf (cirNat new c 0 1) 4 3 || cirGpio old c != cirGpio new c
    || cirNat old c 4 8 != cirNat new c 4 8
  let drop := (s.circuit c).highTill.isSome && (!cirPulseEn new c || cirGpio old c != cirGpio new c || s.pulseBlocked c)
  let s1 := if drop then (s.setPulse (cirGpio old c) false).onCircuit c fun x => { x with highTill := none, lowTill := none } else s
  if fields then s1.restartPulses c else s1

/-- PULSE_END: PULSE_MS after its rise the output falls (R326). -/
def execPulseEnd (circuit : Fin 28) (s : State) : Out :=
  match (s.circuit circuit.val).highTill with
  | none => .next s
  | some t =>
    .next (((s.at t).setPulse (cirGpio s.cfg.active circuit.val) false).onCircuit circuit.val fun x =>
      { x with highTill := none, lowTill := some (t + s.pulseLen) })

/-- PULSE_LOW_END: the low time is over and a pending pulse rises (R326). -/
def execPulseLowEnd (circuit : Fin 28) (s : State) : Out :=
  match (s.circuit circuit.val).lowTill with
  | none => .next s
  | some t => .next (((s.at t).onCircuit circuit.val fun x => { x with lowTill := none }).risePulse circuit.val)

/-! ### Windows (R318 to R325) -/

/-- The record of a window from offset 20 on (R323, R324). -/
def State.windowBytes (s : State) (c v i : Nat) (x : Circuit) : Bytes :=
  let flags := x.flags ||| (if cirPulseEn s.cfg.active c && s.pulseBlocked c then 32 else 0) ||| (if x.pulseLost then 64 else 0)
  let period := match x.firstX with
    | some f => if 2 ≤ x.crossings.toNat then (x.lastX - f) / (x.crossings.toNat - 1) else 0
    | none => 0
  le 1 c ++ le 1 v ++ le 1 i ++ le 1 (s.group (v / 8)).w.gen.toNat ++ le 4 x.used.toNat ++ le 4 x.gaps.toNat ++ le 2 0
    ++ le 2 (4 * 8192 + c) ++ le 1 0 ++ le 1 (s.group (i / 8)).w.gen.toNat ++ le 2 flags.toNat ++ leI 4 x.skew ++ le 4 x.k
    ++ leI 16 x.sVi ++ leI 16 x.sVv ++ leI 16 x.sIi ++ le 16 x.eImp ++ le 16 x.eExp ++ le 4 period ++ le 4 x.crossings.toNat
    ++ le 4 x.pulses.toNat ++ le 4 x.pending

/-- A window closes at a DTIME and awaits its record. -/
def State.closeWindow (s : State) (c v i end_ : Nat) (short : Bool) : State :=
  let x := let y := s.circuit c; { y with flags := y.flags ||| (if short then 2 else 0) }
  s.onCircuit c fun _ => { x with open_ := false, closed := x.closed ++ [(end_, s.windowBytes c v i x)], pulseLost := false }

/-- The sample of a channel at an index, with its block and offset, among the blocks a group still holds. -/
def sampleAt (l : List SBlock) (j : Int) (k : Nat) : Option (Int × SBlock × Nat) :=
  match l.find? (fun b => decide ((b.jFirst : Int) ≤ j) && decide (j < b.jFirst + b.rows.length)) with
  | none => none
  | some b => let o := (j - b.jFirst).toNat; some (((b.rows.getD o []).getD k 0), b, o)

/-- The index, among the samples of some blocks, whose DTIME is nearest to `d`; the earlier one on a tie (R318). -/
def nearestIndex (l : List SBlock) (d : Nat) : Option (Int × Nat) :=
  let all := (l.reverse.map fun b => (List.range b.rows.length).map fun o => (b.jFirst + o, b.time o)).flatten
  all.foldl (fun best e => match best with
    | none => some ((e.1 : Int), e.2)
    | some x => if distance e.2 d < distance x.2 d then some ((e.1 : Int), e.2) else best) none

/-- A sample of a block is usable: valid, and its channel not settling (R297, R321). -/
def SBlock.usable (b : SBlock) (o k : Nat) : Bool := !inRanges b.ranges o && !b.settles o k

/-- One pair of samples enters the sums, with the zero crossing of the voltage that it may complete (R318 to R320). -/
def Circuit.pair (x : Circuit) (v i : Int) (t256 : Nat) : Circuit :=
  let cross := match x.prevV with
    | some (pv, pt) => if pv < 0 && 0 ≤ v then some (pt + ((t256 - pt) * pv.natAbs) / (v - pv).natAbs) else none
    | none => none
  let y := { x with sVi := x.sVi + v * i, sVv := x.sVv + v * v, sIi := x.sIi + i * i, used := x.used + 1, prevV := some (v, t256) }
  match cross with
  | none => y
  | some t => { y with crossings := y.crossings + 1, firstX := some (y.firstX.getD t), lastX := t }

/-- A pair excluded under R321. -/
def Circuit.exclude (x : Circuit) : Circuit := { x with gaps := x.gaps + 1, flags := x.flags ||| 1, prevV := none }

/-- A fresh window of a circuit opens at a stroke, its pairing re-established (R318, R320). -/
def State.openWindow (s : State) (c n : Nat) (p : Plan) (b : SBlock) : State :=
  let same := p.v / 8 == p.i / 8
  let near := if same then none else nearestIndex (s.group (p.v / 8)).blocks (b.time 0)
  s.onCircuit c fun x =>
    { x with open_ := true, k := n / p.win, win := p.win, wv := p.v, wi := p.i, sVi := 0, sVv := 0, sIi := 0, used := 0, gaps := 0, crossings := 0, firstX := none
             lastX := 0, prevV := if p.fresh || x.resume || x.wv != p.v then none else x.prevV
             pairing := if same then some 0 else near.map fun e => e.1 - b.jFirst
             skew := match near with | some e => (b.time 0 : Int) - e.2 | none => 0
             flags := (if p.mark then 4 else 0) ||| (if x.resume then 8 else 0) ||| (if x.short then 2 else 0)
             resume := false, short := false }

/-- The work of one stroke on a circuit: every current sample of its block is paired, or excluded where the work is skipped
(R318 to R322). -/
def State.foldStroke (s : State) (c : Nat) (d : Due) (b : SBlock) : State :=
  let p := d.plan
  let all := (s.group (p.v / 8)).blocks
  let vs := if p.v / 8 == p.i / 8 then [b] else all
  let x0 := s.circuit c
  let sat := bitOf b.sat.toNat (p.i % 8) || (match vs.find? (fun q => q.stroke == b.stroke) with
    | some q => bitOf q.sat.toNat (p.v % 8) | none => false)
  let x1 := (List.range b.rows.length).foldl (fun (x : Circuit) o =>
    let i := (b.rows.getD o []).getD (p.i % 8) 0
    match x.pairing with
    | none => x.exclude
    | some k =>
      match sampleAt vs (b.jFirst + o + k) (p.v % 8) with
      | none => x.exclude
      | some (v, q, vo) =>
        if d.skip || !b.usable o (p.i % 8) || !q.usable vo (p.v % 8) then x.exclude
        else x.pair v i (q.time256 vo)) x0
  let net := x1.sVi - x0.sVi
  s.onCircuit c fun _ =>
    { x1 with flags := x1.flags ||| (if sat then 16 else 0)
              eImp := if 0 ≤ net then x1.eImp + net.toNat else x1.eImp
              eExp := if 0 ≤ net then x1.eExp else x1.eExp + net.natAbs }

/-- A circuit finishes the work of a stroke: its window closes or opens as the plan of that stroke asks, its work is done, its
pulses are owed (R317 to R326). -/
def State.energyStroke (s : State) (c : Nat) (d : Due) : State :=
  let p := d.plan
  let n := d.stroke
  let x := s.circuit c
  let block (ch : Nat) : Option SBlock := (s.group (ch / 8)).blocks.find? fun b => b.stroke == n
  let turned := p.mark || x.win != p.win
  let s1 := if x.open_ && turned then
      (s.closeWindow c x.wv x.wi (strokeLen * n) true).onCircuit c fun y => { y with short := !p.mark }
    else s
  let s2 := if p.fresh then (s1.onCircuit c fun y => { y with eImp := 0, eExp := 0 }).restartPulses c else s1
  match (if p.en && p.cir then block p.i else none), block p.v with
  | some b, some _ =>
    let s3 := if (s2.circuit c).open_ then s2 else s2.openWindow c n p b
    let s4 := ((s3.foldStroke c d b).onCircuit c fun y => { y with running := true }).owePulses c
    if (n + 1) % p.win == 0 then s4.closeWindow c p.v p.i (strokeLen * (n + 1)) false else s4
  | _, _ => s2.onCircuit c fun y =>
      { y with running := false, open_ := false, resume := p.en && p.cir && (y.open_ || y.resume) }

/-- Circuits that have anything to do. -/
def State.circuitsInUse (s : State) : List Nat :=
  (List.range 28).filter fun c => bitOf (cirNat s.cfg.active c 0 1) 7 || (s.circuit c).plan.cir || !(s.circuit c).due.isEmpty

/-- A work order of a unit for a stroke up to `n` is outstanding (R25). -/
def State.orderedUpTo (s : State) (unit n : Nat) : Bool := (s.rx.orders ++ s.rx.unplaced).any fun o => o.unit == unit && o.stroke ≤ n

/-- Work orders of a unit for a stroke up to `n` are withdrawn. -/
def State.withdraw (s : State) (unit n : Nat) : State :=
  let stays (o : Order) : Bool := !(o.unit == unit && o.stroke ≤ n)
  s.onRx fun r => { r with orders := r.orders.filter stays, unplaced := r.unplaced.filter stays }

/-- A circuit does its strokes in order, as far as they are over and no work order of theirs is outstanding (R25, R325; log 79). -/
def State.catchUp (s : State) (c : Nat) : (fuel : Nat) → State
  | 0 => s
  | f + 1 =>
    match (s.circuit c).due with
    | [] => s
    | d :: rest =>
      if s.stroke < d.stroke + 2 || (!d.skip && s.orderedUpTo c d.stroke) then s
      else ((s.onCircuit c fun x => { x with due := rest }).energyStroke c d).catchUp c f

/-- A circuit does what it can of the strokes it owes. -/
def State.doDue (s : State) (c : Nat) : State := s.catchUp c (s.circuit c).due.length

/-- Energy work at a catch, once the blocks are posted: a stroke is finished at the catch two after its own, unless its work order is
still outstanding (R25, R325). -/
def State.catchEnergy (s : State) : State := s.each s.circuitsInUse State.doDue

/-- The plan of the stroke that begins, once the changes of the catch apply. -/
def State.planEnergy (s : State) : State :=
  s.each s.circuitsInUse fun s c =>
    s.onCircuit c fun x =>
      let p := x.plan.next (planOf s.cfg.active c)
      { x with plan := p, due := x.due ++ [{ stroke := s.stroke, plan := p }] }

/-- ENERGY_WINDOW_RECORD: a closed window delivers its record (R323, R325). -/
def execEnergyWindowRecord (circuit : Fin 28) (s : State) : Out :=
  match (s.circuit circuit.val).closed with
  | [] => .next s
  | (t, b) :: rest =>
    let utc := s.utcField t
    .next ((s.onCircuit circuit.val fun x => { x with closed := rest }).deliver fun q => le 4 q.toNat ++ le 8 t ++ le 8 utc ++ b)

/-- Work is skipped and counted (R25, R29, R47). -/
def State.skipped (s : State) : State :=
  (s.onCnt fun c => { c with workSkipped := c.workSkipped + 1, accSkipped := c.accSkipped + 1 }).missedEvent

/-- The work order of a broadcast path is unfinished at the catch four after its stroke (R25): VHF is unit 28, LF and MF 29. -/
def State.pathLate (s : State) (unit : Nat) : Bool := 4 ≤ s.stroke && s.orderedUpTo unit (s.stroke - 4)

/-- The late work orders of a broadcast path are withdrawn, and the audio of their strokes is lost when the path is the audio source
(R25, R281). -/
def State.skipPath (s : State) (unit source : Nat) : State :=
  let late := ((s.rx.orders ++ s.rx.unplaced).filter fun o => o.unit == unit && o.stroke ≤ s.stroke - 4).map (·.stroke)
  let s1 := s.withdraw unit (s.stroke - 4)
  if audioSource s.cfg.active == source then s1.each late State.skipAudio else s1

/-- The stroke of a circuit that WORK_SKIPPED skips: the oldest it owes, when that is unfinished four catches on (R25). -/
def State.lateDue (s : State) (c : Nat) : Option (Due × List Due) :=
  match (s.circuit c).due with
  | [] => none
  | d :: rest => if d.plan.en && d.plan.cir && !d.skip && d.stroke + 4 ≤ s.stroke && s.orderedUpTo c d.stroke then some (d, rest) else none

/-- WORK_SKIPPED: stroke work of a circuit or of a broadcast path that is unfinished four catches on is left undone, and its output
carries the mark (R25, R28). -/
def execWorkSkipped (broadcast : Bool) (unit : Fin 28) (s : State) : Out :=
  if broadcast then
    if unit.val == 0 && s.pathLate 28 then
      .next ((s.skipPath 28 1).onBc fun b => { b with vhf := { b.vhf with gap := true } }).skipped
    else if unit.val == 1 && s.pathLate 29 then
      .next ((s.skipPath 29 2).onBc fun b => { b with lfmf := { b.lfmf with gap := true } }).skipped
    else .next s
  else
    match s.lateDue unit.val with
    | some (d, rest) =>
      .next (((s.withdraw unit.val d.stroke).onCircuit unit.val fun x => { x with due := { d with skip := true } :: rest }).doDue unit.val).skipped
    | none => .next s

end Sys2Proof.Machine
end

