-- ==== Sys2Proof/Machine/Leak.lean ====
section
/-! DEFINITION. Leak correlation: capture, segments, phase transform, peaks, records and meanings (chapter 13, R329 to R333). -/

namespace Sys2Proof.Machine

/-! ### Fields and records (R329, R332, R334) -/

/-- LEAK_PERIOD in reference cycles, ACQ_S, LEAK_THR (R334). -/
def State.leakPeriod (s : State) : Nat := (let x := s.cfgNat 8 352 2; if x == 0 then 1440 else x) * 60 * sec
def State.leakAcq (s : State) : Nat := let x := s.cfgNat 8 354 1; if x == 0 then 30 else x
def State.leakThr (s : State) : Nat := let x := s.cfgNat 8 356 2; if x == 0 then 6554 else x

def pairA (set : List Host.Cell) (p : Nat) : Nat := setNat set 8 (369 + 8 * p) 1
def pairB (set : List Host.Cell) (p : Nat) : Nat := setNat set 8 (370 + 8 * p) 1
def leakPairsOn (set : List Host.Cell) : List Nat := (List.range 8).filter fun p => bitOf (setNat set 8 (368 + 8 * p) 1) 7

/-- Samples that a pair captures (R329). -/
def State.leakN (s : State) (p : Nat) : Nat :=
  match chnRate s.cfg.active (pairA s.cfg.active p) with
  | none => 0
  | some (n, d) => min (s.leakAcq * n / d) 8388608

/-- Segments of a capture of `n` samples (R329). -/
def segments (n : Nat) : Nat := if n < 4096 then 0 else (n - 4096) / 2048 + 1

/-- Steps of a pair (R329). -/
def State.leakSteps (s : State) (p : Nat) : Nat := s.leakAcq + segments (s.leakN p)

/-- A leak record (R332), from offset 20. -/
def State.leakBytes (s : State) (p status used disc : Nat) (lag : Int) (peak second : Nat) (la lb pos : Int) : Bytes :=
  let a := pairA s.cfg.active p
  let b := pairB s.cfg.active p
  le 1 p ++ le 1 a ++ le 1 b ++ le 1 status ++ le 4 used ++ le 4 disc ++ le 2 0 ++ le 2 (5 * 8192 + p)
    ++ le 1 (s.group (b / 8)).w.gen.toNat ++ le 1 (s.group (a / 8)).w.gen.toNat ++ le 2 (b2n (disc != 0)) ++ le 4 s.str.leak.runs.toNat
    ++ le 4 0 ++ leI 4 lag ++ le 2 (satTo 65535 peak) ++ le 2 (satTo 65535 second) ++ leI 2 la ++ leI 2 lb ++ leI 4 pos ++ le 4 0

/-- A leak record reaches the delivery queue. -/
def State.sendLeak (s : State) (t : Nat) (b : Bytes) : State :=
  let utc := s.utcField t
  s.deliver fun q => le 4 q.toNat ++ le 8 t ++ le 8 utc ++ b

/-- A step of the run (R65, R333). -/
def State.leakStep (s : State) : State :=
  let l := s.str.leak
  (s.progressEvent 0 0x0003 l.done (l.done + 1) l.total).onLeak fun l => { l with done := l.done + 1, stepAt := s.dtime }

/-- Steps of the run, one after the other. -/
def State.leakStepsBy (s : State) : (n : Nat) → State
  | 0 => s
  | n + 1 => s.leakStep.leakStepsBy n

/-- The run goes on to its next pair, or ends (R329). -/
def State.nextPair (s : State) (rest : List Nat) : State :=
  s.onLeak fun l => { l with run := if rest.isEmpty then none else some rest, captured := false, broken := false, n := 0, nB := 0
                             capStrokes := 0, segs := 0, firstA := none, firstB := none, bad := [], badB := [], beganAt := s.dtime }

/-- A run is abandoned: every pair not yet reported delivers ABANDONED (R333). -/
def State.abandonLeak (s : State) : State :=
  match s.str.leak.run with
  | none => s
  | some l =>
    (s.each l fun s p => s.sendLeak (if s.str.leak.captured && l.head? == some p then s.str.leak.endAt else s.dtime)
      (s.leakBytes p 3 0 0 0 0 0 0 0 (-2147483648))).onLeak fun x => { x with run := none, captured := false }

/-- LEAK_RUN_START: a run that is due starts, unless one is in progress (R329). -/
def execLeakRunStart (s : State) : Out :=
  match s.str.leak.nextAt with
  | none => .next s
  | some t =>
    let s1 := (s.at t).onLeak fun l => { l with nextAt := some (t + s.leakPeriod) }
    if s.str.leak.run.isSome then .next s1
    else
      let pairs := leakPairsOn s.cfg.active
      .next ((s1.onLeak fun l =>
        { l with startAt := t, runs := l.runs + 1, done := 0, total := (pairs.map s.leakSteps).sum, stepAt := s1.dtime }).nextPair pairs)

/-! ### Capture (R329, R394) -/

/-- An int16 of the leak capture: bits 23 to 8 of the sample, rounded half up and saturated (R394). -/
def leakSample (x : Int) : Int := clampI (-32768) 32767 (Int.fdiv (x + 128) 256)

/-- What a block gives the capture of one channel: the samples from a DTIME on, which of them are not usable, and of the first one the
instant at the pins and the sample period, in 2^-32 reference cycle: its DTIME less DELAY (R295, R330). -/
structure Captured where
  words : List Int := []
  bad   : List Nat := []
  first : Option (Int × Nat) := none
  deriving DecidableEq, Repr

/-- The samples of a channel in the block just posted, from a DTIME on (R329). -/
def State.leakWords (s : State) (ch from_ : Nat) : Captured :=
  match (s.group (ch / 8)).blocks.find? (fun b => b.stroke + 1 == s.stroke) with
  | none => {}
  | some b =>
    let l := (List.range b.rows.length).filter fun o => from_ ≤ b.time o
    let words := l.map fun o => leakSample ((b.rows.getD o []).getD (ch % 8) 0)
    match l with
    | [] => {}
    | o :: _ =>
      let p := b.tP * 4294967296 / b.tQ
      { words := words, bad := (l.filter fun k => !b.usable k (ch % 8)).map (· - o)
        first := some ((((b.tA + o * b.tP) * 4294967296 / b.tQ : Nat) : Int)
          - ((setNat s.cfg.active 6 (66 + 16 * ch) 2 % 4096 * p / 2 ^ b.stages : Nat) : Int), p) }

/-- Strokes of a capture step, which is a second. -/
def stepStrokes : Nat := 4000

/-- The capture of the pair in work waits, class 7 being shed: it does so at the end of a step (R27, R333; log 160). -/
def Leak.waits (l : Leak) : Bool := l.paused && l.capStrokes % stepStrokes == 0

/-- The samples of a stroke reach the DRAM leak region, channel a at +0 and channel b at +16 MiB (R329, R394). -/
def State.captureStroke (s : State) (p : Nat) : State :=
  let l := s.str.leak
  let n := s.leakN p
  let a := s.leakWords (pairA s.cfg.active p) l.beganAt
  let b := s.leakWords (pairB s.cfg.active p) l.beganAt
  let wa := a.words.take (n - l.n)
  let wb := b.words.take (n - l.nB)
  ((s.memWrite (0x9B400000 + 2 * l.n) ((wa.map (leI 2)).flatten)).memWrite (0x9C400000 + 2 * l.nB) ((wb.map (leI 2)).flatten)).onLeak fun l =>
    { l with n := l.n + wa.length, nB := l.nB + wb.length, firstA := if l.n == 0 then a.first else l.firstA
             firstB := if l.nB == 0 then b.first else l.firstB, bad := l.bad ++ a.bad.map (l.n + ·), badB := l.badB ++ b.bad.map (l.nB + ·)
             capStrokes := l.capStrokes + 1 }

/-- Capture steps made so far. -/
def State.capturedSecs (s : State) : Nat := min s.leakAcq (s.str.leak.capStrokes / stepStrokes)

/-- The run over a stroke: capture with a step each second, or the segment steps that the correlation makes meanwhile, whose number is a
free value and the last of which the pair's record stands for (R65, R329, R333; log 153). While it waits its time limit rests. -/
def State.catchLeak (s : State) : State :=
  match s.str.leak.run with
  | some (p :: _) =>
    let l := s.str.leak
    if l.captured then
      if l.paused then s.onLeak fun l => { l with stepAt := l.stepAt + strokeLen }
      else
        let k := min (Config.longSteps s.fresh) (segments (s.leakN p) - 1 - l.segs)
        ((s.leakStepsBy k).onLeak fun l => { l with segs := l.segs + k }).draw
    else if l.waits then s.onLeak fun l => { l with stepAt := l.stepAt + strokeLen, beganAt := l.beganAt + strokeLen }
    else
      let s1 := s.captureStroke p
      if s.capturedSecs < s1.capturedSecs then s1.leakStep else s1
  | _ => s

/-- LEAK_CAPTURE_DONE: ACQ_S seconds, or as many samples as fit, have been captured, and the pair's correlation begins (R329). -/
def execLeakCaptureDone (s : State) : Out :=
  match s.str.leak.run with
  | some (p :: _) =>
    let l := s.str.leak
    if l.captured || l.waits then .next s
    else
      let secs := match chnRate s.cfg.active (pairA s.cfg.active p) with
        | some (n, d) => min (s.leakAcq * sec) (8388608 * d * sec / n)
        | none => s.leakAcq * sec
      let s1 := s.at (l.beganAt + secs)
      .next ((s1.leakStepsBy (s.leakAcq - s.capturedSecs)).onLeak fun l => { l with captured := true, endAt := s1.dtime })
  | _ => .next s

/-! ### Correlation (R330) -/

/-- A complex number in units of 2^-60. -/
structure Cplx where
  re : Int
  im : Int
  deriving DecidableEq, Repr

def Cplx.zero : Cplx := { re := 0, im := 0 }
def Cplx.add (x y : Cplx) : Cplx := { re := x.re + y.re, im := x.im + y.im }
def Cplx.sub (x y : Cplx) : Cplx := { re := x.re - y.re, im := x.im - y.im }
def Cplx.mul (x y : Cplx) : Cplx := { re := mul60 x.re y.re - mul60 x.im y.im, im := mul60 x.re y.im + mul60 x.im y.re }
def Cplx.conj (x : Cplx) : Cplx := { x with im := -x.im }

/-- The members of a list at even and at odd places. -/
def evenOdd : List Cplx → List Cplx × List Cplx
  | [] => ([], [])
  | x :: l => let r := evenOdd l; (x :: r.2, r.1)

/-- The discrete Fourier transform of 2^k samples. -/
def fft : (k : Nat) → List Cplx → List Cplx
  | 0, l => l
  | k + 1, l =>
    let p := evenOdd l
    let e := fft k p.1
    let o := (List.range (2 ^ k)).zip (fft k p.2) |>.map fun x =>
      let t := cosSin (-((x.1 : Int) * turn40 / ((2 ^ (k + 1) : Nat) : Int)))
      x.2.mul { re := t.1, im := t.2 }
    e.zipWith Cplx.add o ++ e.zipWith Cplx.sub o

/-- The Hann window of 4,096 samples, one period of it (log 161). -/
def hann (i : Nat) : Int := (unit60 - (cosSin ((i : Int) * turn40 / 4096)).1) / 2

/-- The samples of a channel of the capture from index `o` on, 4,096 of them (R394). -/
def State.leakSegment (s : State) (base o : Nat) : List Cplx :=
  (List.range 4096).map fun i => { re := signed 16 (ofLe (s.memRead (base + 2 * (o + i)) 2)) * hann i, im := 0 }

/-- Segments in which every sample is captured, valid and settled on both channels (R330). -/
def State.goodSegments (s : State) (p : Nat) : List Nat :=
  let l := s.str.leak
  (List.range (segments (s.leakN p))).filter fun g =>
    let bad (k : Nat) : Bool := 2048 * g ≤ k && k < 2048 * g + 4096
    2048 * g + 4096 ≤ min l.n l.nB && !l.bad.any bad && !l.badB.any bad

/-- The cross spectrum over some segments (R330). -/
def State.crossSpectrum (s : State) (l : List Nat) : List Cplx :=
  l.foldl (fun acc g =>
    let xa := fft 12 (s.leakSegment 0x9B400000 (2048 * g))
    let xb := fft 12 (s.leakSegment 0x9C400000 (2048 * g))
    acc.zipWith Cplx.add (xa.zipWith (fun x y => x.mul y.conj) xb)) (List.replicate 4096 Cplx.zero)

/-- The phase transform of a bin; 0 where its magnitude is 0 (R330). -/
def Cplx.phase (x : Cplx) : Cplx :=
  let m : Int := (isqrt (x.re * x.re + x.im * x.im).toNat : Nat)
  if m == 0 then Cplx.zero else { re := x.re * unit60 / m, im := x.im * unit60 / m }

/-- c of R330: the real part of the inverse transform, by lag modulo 4,096. -/
def phaseCorrelation (cross : List Cplx) : List Int := (fft 12 (cross.map fun x => x.phase.conj)).map fun x => x.re / 4096

/-- Lags in samples that lie within MAX_LAG_MS once aligned by `off`, in 2^-32 reference cycle, rising; a segment shows no others than
-2,048 to 2,047 (R330; log 161). -/
def lagsWithin (maxLag period : Nat) (off : Int) : List Int :=
  ((List.range 4096).map fun k : Nat => (k : Int) - 2048).filter fun m => decide ((m * period + off).natAbs ≤ maxLag * ms * 4294967296)

/-- c at a lag. -/
def atLag (c : List Int) (m : Int) : Int := c.getD (m % 4096).toNat 0

/-- The lag of the greatest value among some, the earliest on a tie (R330). -/
def greatestLag (c : List Int) (l : List Int) : Option Int :=
  l.foldl (fun best m => match best with
    | none => some m
    | some b => if atLag c b < atLag c m then some m else some b) none

/-- A value of c as a record has it: 1/65,536, to the nearest, from 0 up, saturating (R332; log 161). -/
def peakField (x : Int) : Nat := satTo 65535 (roundI (65536 * x) unit60).toNat

/-- What the correlation of a pair finds: peak, second peak, and the lag in 1/16 reference cycle (R330). -/
structure Correlated where
  peak   : Nat := 0
  second : Nat := 0
  lag    : Int := 0
  deriving DecidableEq, Repr

/-- Peak, parabola fraction and second peak of a correlation (R330; log 161). -/
def peaksOf (c : List Int) (maxLag period : Nat) (off : Int) : Correlated :=
  let l := lagsWithin maxLag period off
  match greatestLag c l with
  | none => {}
  | some m =>
    let x := atLag c m
    let u := atLag c (m - 1)
    let v := atLag c (m + 1)
    let curve := 2 * (2 * x - u - v)
    let frac : Int := if curve ≤ 0 then 0 else Int.fdiv ((v - u) * period) curve
    { peak := peakField x
      second := match greatestLag c (l.filter fun k => 8 ≤ (k - m).natAbs) with | some k => peakField (atLag c k) | none => 0
      lag := roundI (16 * (m * period + frac + off)) 4294967296 }

/-- The correlation of the captured pair over its good segments (R330). -/
def State.correlate (s : State) (good : List Nat) : Correlated :=
  match s.str.leak.firstA, s.str.leak.firstB with
  | some a, some b => peaksOf (phaseCorrelation (s.crossSpectrum good)) (let m := s.cfgNat 8 355 1; if m == 0 then 100 else m) a.2 (a.1 - b.1)
  | _, _ => {}

/-- The level of a captured channel over its samples in 1/16 dBFS (R332; log 161); an open value where all are zero (log 133). -/
def State.leakLevel (s : State) (base n : Nat) : Int :=
  levelOf s.str.leak.endAt n ((List.range n).map fun i => let x := signed 16 (ofLe (s.memRead (base + 2 * i) 2)); (x * x).toNat).sum

/-! ### Meanings -/

/-- The position from sensor a in cm (R331). The lag is in 1/16 of a reference cycle. -/
def leakPosition (speed dist : Nat) (lag : Int) : Int :=
  if speed == 0 || dist == 0 || decide (dist * 614400000 < lag.natAbs * speed * 100) then -2147483648
  else ((dist : Int) * 614400000 + 100 * (speed : Int) * lag) / 1228800000

/-- The status of a pair (R331). -/
def State.leakStatus (s : State) (segs used peak : Nat) : Nat :=
  if 2 * used < segs || s.str.leak.broken then 2 else if s.leakThr ≤ peak then 0 else 1

/-- LEAK_PAIR_DONE: the correlation of a pair is complete; its record is delivered and the run goes on (R329 to R332). A run that class 7
sheds goes on once load allows (R27). -/
def execLeakPairDone (s : State) : Out :=
  match s.str.leak.run with
  | some (p :: rest) =>
    let l := s.str.leak
    if !l.captured || l.paused then .next s
    else
      let segs := segments (s.leakN p)
      let good := s.goodSegments p
      let used := good.length
      let c := s.correlate good
      let status := s.leakStatus segs used c.peak
      let pos := if status == 0 then leakPosition (s.cfgNat 8 358 2) (s.cfgNat 8 (372 + 8 * p) 4) c.lag else -2147483648
      .next (((s.sendLeak l.endAt (s.leakBytes p status used (segs - used) c.lag c.peak c.second (s.leakLevel 0x9B400000 l.n)
        (s.leakLevel 0x9C400000 l.nB) pos)).leakStepsBy (segs - l.segs)).nextPair rest)
  | _ => .next s

/-- A catch at which LEAK_EN is set or a leak field changes: the run is abandoned and the next is a period away (R329, R333). -/
def State.changeLeak (s : State) (old : List Host.Cell) : State :=
  let new := s.cfg.active
  let on (x : List Host.Cell) : Bool := bitOf (setNat x 8 0 1) 6
  let changed := on old != on new || spanChanged old new 8 352 8 || spanChanged old new 8 368 64
  if !changed then s else s.abandonLeak.onLeak fun l => { l with nextAt := if on new then some (s.dtime + s.leakPeriod) else none }

/-- INTERNAL_OP_FLAG_FALL: a patrol sweep, a daily survey or a leak run that makes no step for 30 s ends (R36, R404, R421). -/
def execInternalOpFlagFall (code : U16) (s : State) : Out :=
  if (s.internalOp code.toNat).isNone then .next s
  else
    match code.toNat with
    | 1 =>
      let at_ := match s.mem.sweep with | some x => x.2.2 | none => s.dtime
      let s1 := s.at (at_ + 30 * sec)
      .next ((s1.onMem fun m =>
        { m with sweep := none, nextSweep := some (max (m.sweepAt + 3600 * sec) s1.dtime)
                 engines := m.engines.map fun e => (e.1, { e.2 with left := [], retry := [] }) }).flagFall 0x07 1)
    | 2 => .next (((s.at (s.trim.surveyAt + 30 * sec)).onTrim fun t => { t with survey := none }).flagFall 0x07 2)
    | _ =>
      .next (((s.at (s.str.leak.stepAt + 30 * sec)).flagFall 0x07 3).abandonLeak)

end Sys2Proof.Machine
end

