-- ==== Sys2Proof/Machine/Castle.lean ====
section
/-! DEFINITION. Configuration: CFG_WRITE, CFG_READ, CFG_CHECK, CASTLE, and what the block does when a set or a direct write takes
effect (chapter 3, R56, R66 to R80, R107, R155, R157, R269, R283, R438, R464). -/

namespace Sys2Proof.Machine

/-! ### CFG_WRITE and CFG_READ (R68 to R70) -/


/-- A write of bytes to a set, in canonical form. -/
def putSet (set : List Host.Cell) (sec ofs : Nat) (b : Bytes) : List Host.Cell := writeCells cfgReset set (cfgKey sec ofs) b

/-- Direct writes waiting for a catch laid over a set. -/
def overlay (set : List Host.Cell) (direct : List Host.Cell) : List Host.Cell := direct.foldl (fun m c => writeCell cfgReset m c.1 c.2) set

/-- The set a target byte names: 1 is the active set, which holds every accepted direct write, whether or not a catch has applied it yet
(R13, R80). -/
def State.setNamed (s : State) (active : Bool) : List Host.Cell := if active then overlay s.cfg.active s.cfg.direct else s.cfg.shadow

/-- Progress of a castling, by whether one is in progress (R78). -/
def CastleSt.isIdle : CastleSt → Bool
  | .idle => true
  | _ => false

/-- The job is a CASTLE. -/
def CfgJob.isCastle : CfgJob → Bool
  | .castle _ => true
  | _ => false

/-- A CASTLE is accepted and not answered, or its shadow copy is not complete (R78, R79). -/
def State.castleBusy (s : State) : Bool := !s.cfg.castle.isIdle || s.cfg.waits.any fun w => w.2.2.isCastle

/-- No CASTLE in work waits for its reply: the commands behind it go on (R41, R79). -/
def State.setsFree (s : State) : Bool :=
  match s.cfg.castle with
  | .idle => true
  | .copying none _ _ _ => true
  | _ => false

/-- A command on the sets takes its place behind those received before it (R41). -/
def State.waitCfg (s : State) (h : Hdr) (op : Nat) (j : CfgJob) : State :=
  (s.hold h op false).onCfg fun c => { c with waits := c.waits ++ [(h.tag, s.dtime, j)] }

/-- The field checks of a write in the order of R68, over the set it is made to: none when it may be carried out. -/
def State.writeRefuse (s : State) (active : Bool) (sec ofs : Nat) (b : Bytes) : Option Status :=
  if sectionSize sec == 0 then some .notFound
  else if b.isEmpty || sectionSize sec < ofs + b.length then some .range
  else if !reservedClear sec ofs b then some .invalidArg
  else if !rangesOk (putSet (if active then overlay s.cfg.active s.cfg.direct else s.cfg.shadow) sec ofs b) sec ofs b.length then some .range
  else if active then (if changesGrouped s.cfg.active sec ofs b then some .locked else none)
  else if s.castleBusy then some .locked else none

/-- Checks of CFG_WRITE: form, then those of R68, which replace the order of R33. -/
def chkCfgWrite (h : Hdr) (section_ target : U8) (offset length reserved : U16) (data : Bytes) (s : State) : Check :=
  { op := 0x0010, form := h.len == 8 + data.length && length.toNat == data.length && reserved == 0, range := true
    state := if sectionSize section_.toNat == 0 then some .notFound else if 1 < target.toNat then some .range
      else s.writeRefuse (target == 1) section_.toNat offset.toNat data }

/-- Bytes with their keys. -/
def cellsOf : Nat → Bytes → List Host.Cell
  | _, [] => []
  | k, b :: bs => (k, b) :: cellsOf (k + 1) bs

/-- A checked write: to the shadow set at once, to the active set at the first catch after the reply (R70). -/
def State.applyWrite (s : State) (active : Bool) (sec ofs : Nat) (b : Bytes) : State :=
  if active then s.onCfg fun c => { c with direct := c.direct ++ cellsOf (cfgKey sec ofs) b }
  else s.onCfg fun c => { c with shadow := putSet c.shadow sec ofs b }

/-- What CFG_WRITE does once its checks have passed: it is carried out, behind the commands on the sets that were received before it. A CASTLE
holds no write back: R78 refuses one to the shadow set at once and leaves one to the active set to R70 (R41, R70, R78). -/
def actCfgWrite (h : Hdr) (section_ target : U8) (offset : U16) (data : Bytes) (s : State) : State :=
  if s.cfg.waits.isEmpty || s.castleBusy then
    (s.applyWrite (target == 1) section_.toNat offset.toNat data).answer h 0x0010 .ok []
  else s.waitCfg h 0x0010 (.write section_ target offset data)

/-- CFG_WRITE (R68 to R70). -/
def execCfgWrite (h : Hdr) (section_ target : U8) (offset length reserved : U16) (data : Bytes) (s : State) : Out :=
  .next (s.host h 0x0010 (chkCfgWrite h section_ target offset length reserved data) (actCfgWrite h section_ target offset data))

/-- Checks of CFG_READ (R68). -/
def chkCfgRead (h : Hdr) (section_ set : U8) (offset length : U16) (_ : State) : Check :=
  { op := 0x0011, form := h.len == 6, range := true
    state := if sectionSize section_.toNat == 0 then some .notFound
      else if 1 < set.toNat || length == 0 || sectionSize section_.toNat < offset.toNat + length.toNat
          || payloadLimit h.src < 8 + length.toNat then some .range
      else none }

/-- The reply of CFG_READ (R46). -/
def State.readReply (s : State) (section_ set : U8) (offset length : U16) : Bytes :=
  le 1 section_.toNat ++ le 1 set.toNat ++ le 2 offset.toNat ++ le 2 length.toNat ++ le 2 0
    ++ readCells cfgReset (s.setNamed (set == 1)) (cfgKey section_.toNat offset.toNat) length.toNat

/-- CFG_READ answers behind the commands on the sets received before it, a CASTLE among them (R41, R68). -/
def execCfgRead (h : Hdr) (section_ set : U8) (offset length : U16) (s : State) : Out :=
  .next (s.host h 0x0011 (chkCfgRead h section_ set offset length) fun s =>
    if s.setsFree && s.cfg.waits.isEmpty then s.answer h 0x0011 .ok (s.readReply section_ set offset length)
    else s.waitCfg h 0x0011 (.read section_ set offset length))

/-! ### CFG_CHECK and CASTLE (R73, R74, R78, R79) -/

/-- The payload of a group check: count, lowest failing group and its section (R46, R72, R73). -/
def checkPayload (l : List Nat) : Bytes :=
  match l with
  | [] => le 2 0 ++ le 2 0 ++ le 1 0 ++ le 1 0
  | g :: _ => le 2 l.length ++ le 2 g ++ le 1 (groupSection g) ++ le 1 0

/-- Status of a group check. -/
def checkStatus (l : List Nat) : Status := if l.isEmpty then .ok else .inconsistent

/-- The commands on the sets that wait go on as far as the first that takes time: a CFG_CHECK begins its group checks, a CASTLE begins its own
(R41, R73, R74). -/
def State.serveCfg (s : State) : (fuel : Nat) → State
  | 0 => s
  | f + 1 =>
    if !s.setsFree then s
    else match s.cfg.waits with
      | [] => s
      | (tag, t, j) :: rest =>
        let s1 := s.onCfg fun c => { c with waits := rest }
        match j with
        | .check _ => s
        | .castle target => if s.cfg.castle.isIdle then s1.onCfg fun c => { c with castle := .checking tag target t } else s
        | .read section_ set offset length => (s1.finish tag .ok (s1.readReply section_ set offset length)).serveCfg f
        | .write section_ target offset data =>
          match s1.writeRefuse (target == 1) section_.toNat offset.toNat data with
          | some st => (s1.finish tag st []).serveCfg f
          | none => ((s1.applyWrite (target == 1) section_.toNat offset.toNat data).finish tag .ok []).serveCfg f

/-- CFG_CHECK: its group checks run once the commands on the sets received before it are answered (R41, R73, R79). -/
def execCfgCheck (h : Hdr) (set : U8) (s : State) : Out :=
  .next (s.host h 0x0013 (fun _ => { op := 0x0013, form := h.len == 1, range := set.toNat ≤ 1, state := none }) fun s =>
    s.waitCfg h 0x0013 (.check (set == 1)))

/-- CASTLE is accepted; its group checks run once the commands on the sets received before it are answered (R41, R74, R78). -/
def execCastle (h : Hdr) (target : U64) (s : State) : Out :=
  .next (s.host h 0x0012
    (fun s => { op := 0x0012, form := h.len == 8, range := target == 0 || inR s.strokeNow (s.strokeNow + 4000) target.toNat
                state := if s.castleBusy then some .busy else none })
    fun s => (s.waitCfg h 0x0012 (.castle target.toNat)).serveCfg 64)

/-- CASTLE_CHECKS_DONE: the group checks in progress complete. Those of a CASTLE end it when one fails, else the castling catch is fixed, c
being the present stroke (R74); those of a CFG_CHECK answer it (R73; log 158). -/
def execCastleChecksDone (s : State) : Out :=
  match s.cfg.castle with
  | .checking tag target _ =>
    let l := s.failing s.cfg.shadow
    let next := s.strokeNow + 2
    .next (if l.isEmpty then s.onCfg fun c => { c with castle := .armed tag (max next target) (target != 0 && decide (target < next)) }
      else ((s.onCfg fun c => { c with castle := .idle }).finish tag .inconsistent (checkPayload l)).serveCfg 64)
  | _ =>
    match s.setsFree, s.cfg.waits with
    | true, (tag, _, .check active) :: rest =>
      let l := s.failing (s.setNamed active)
      .next (((s.onCfg fun c => { c with waits := rest }).finish tag (checkStatus l) (checkPayload l)).serveCfg 64)
    | _, _ => .next s

/-- The job runs group checks. -/
def CfgJob.checks : CfgJob → Bool
  | .check _ => true
  | .castle _ => true
  | _ => false

/-- CASTLE_CHECK_FLAG_FALL: group checks not complete 19,200 cycles after the receipt of their command end CASTLE or CFG_CHECK with TIMEOUT,
the command received first before all others; only that of a CASTLE is an EV_FLAG_FALL (R79). -/
def execCastleCheckFlagFall (s : State) : Out :=
  match s.cfg.castle with
  | .checking tag _ t =>
    .next (((((s.at (t + 19200)).flagFall 0x0A 0).onCfg fun c => { c with castle := .idle }).finish tag .timeout []).serveCfg 64)
  | _ =>
    match s.cfg.waits.find? fun w => w.2.2.checks with
    | none => .next s
    | some (tag, t, j) =>
      let s1 := (s.at (t + 19200)).onCfg fun c => { c with waits := c.waits.filter fun w => w.1 != tag }
      .next (((if j.isCastle then s1.flagFall 0x0A 0 else s1.fallLine "CFG_CHECK").finish tag .timeout []).serveCfg 64)

/-! ### A new active set takes effect (R75, R80, R82, R107, R155) -/

/-- The lanes of which a set holds a byte that is not at its reset value, rising. -/
def listedLanes (set : List Host.Cell) : List Nat := ((set.filter fun c => c.1 / 65536 == 2).map fun c => c.1 % 65536 / 16).eraseDups

/-- The lanes whose entries differ between two sets. -/
def changedLanes (old new : List Host.Cell) : List Nat :=
  ((listedLanes old ++ listedLanes new).eraseDups).filter fun i => spanChanged old new 2 (16 * i) 16

/-- A unit's GEN advances (R82). -/
def State.bumpUnit (s : State) (kind idx : Nat) : State :=
  match s.wordOf kind idx with
  | some w => s.setWord kind idx (w.bump s.dtime)
  | none => s

/-- GEN of every unit of which a field changes advances (R82). -/
def State.bumpUnits (s : State) (old new : List Host.Cell) : State :=
  let s1 := s.each ((List.range 5).filter fun i => spanChanged old new 1 (32 * i) 32) fun s i => s.bumpUnit 1 i
  let s2 := s1.each (changedLanes old new) fun s i => s.bumpUnit 2 i
  let s3 := s2.each ((List.range 4).filter fun g => spanChanged old new 6 (16 * g) 16 || spanChanged old new 6 (64 + 128 * g) 128) fun s g => s.bumpUnit 4 g
  let s4 := if spanChanged old new 7 0 32 then s3.bumpUnit 4 4 else s3
  s4.each ([6, 7].filter fun c => [0, 1].any fun o => bitOf (setNat old 13 o 1) c != bitOf (setNat new 13 o 1) c) fun s c => s.bumpUnit 3 c

/-- A pair whose LO changes: its synthesiser hops if it is locked, its contexts are aborted and its lanes BLANKED (R80, R107). The rule keeps
the lanes BLANKED until both branches are "back in RECEIVE" and names no state for the time between: the chain words stay in RECEIVE and
their GEN does not advance, which is the model's choice (log 148). -/
def State.changeLo (s : State) (old new : List Host.Cell) (pair : Nat) : State :=
  let b : Band := if pair == 0 then .h else .l
  if rxLo old b == rxLo new b && loDiv old b == loDiv new b then s
  else
    let y := pairSyn pair
    let s1 := s.abortWhere fun c => lanePair old c.lane == pair
    let s2 := if s.synIs y .locked || (s.synth y).planned then s1.hopSyn y (loN (rxLo new b)) (loDiv new b)
      else s1.onSynth y fun x => { x with n := loN (rxLo new b), d := loDiv new b, cached := !x.fromLost && (s1.cachedBand y (loN (rxLo new b)) (loDiv new b)).isSome }
    ((s2.trimEndChain (2 * pair)).trimEndChain (2 * pair + 1)).followLanes pair

/-- The change retunes the lane: chain pair, bin index, NCO offset or stage count (R80). -/
def laneRetuned (old new : List Host.Cell) (i : Nat) : Bool :=
  lanePair old i != lanePair new i || laneBin old i != laneBin new i || laneNco old i != laneNco new i || laneK old i != laneK new i

/-- One lane whose entry changes, by the rows of R155. A change of BANK_SEL, COEF or SHIFTS sets SCALE on a lane with K 0 as well, where the
fields have no effect (R152): R155 does not except it, and the model takes it as it stands (log 146). -/
def State.changeLane (s : State) (old new : List Host.Cell) (i : Nat) : State :=
  let was := laneEn old i
  let is := laneEn new i
  if was && !is then ((s.abortWhere fun c => c.lane == i).moveLane i .off).onLane i fun l =>
    { l with settle := 0, watchOnly := false, wa := {}, wb := {}, delay := [], turns := [], on := false, armFrom := 0 }
  else if !is then s
  else
    let retuned := laneRetuned old new i
    let s1 := if was && retuned then s.abortWhere fun c => c.lane == i else s
    let s2 :=
      if !was then (s1.followLane i).restartLane i
      else if retuned then (s1.restartLane i).followLane i
      else if laneProf old i != laneProf new i then
        let arm := settledFrom s.dtime (laneP new i) (laneN new i)
        let prior := (s.lane i).settle
        (s1.turnLane i (s1.laneIs i .running) false (if prior == 0 then arm else max arm (s.lane i).armFrom)).onLane i fun l =>
          { l with settle := max l.settle (settleEnd s.dtime (laneP new i) (laneN new i)), watchOnly := l.settle == 0 || l.watchOnly }
      else s1
    let scale := laneBankB old i != laneBankB new i || spanChanged old new 2 (16 * i + 3) 1 || laneShifts old i != laneShifts new i
    if scale then s2.onLane i fun l => { l with flags := l.flags ||| 0x40, cut := true } else s2

/-- START_STATE changes move chains, but not while policy 1 is in force (R107). -/
def State.changeChains (s : State) (old new : List Host.Cell) : State :=
  let st (set : List Host.Cell) (i : Nat) : Nat := bitsOf (setNat set 1 (32 * i) 1) 0 2
  if s.pwr.policy == 1 then s
  else s.each ((List.range 5).filter fun i => st old i != st new i) fun s i => s.sendChain i (ChainSt.ofCode (st new i))

/-- A transport that stops carries nothing more: its messages are dropped and counted, its batches go back, a partial inbound message is
discarded, its endpoint is cleared (R56, R59, R61). -/
def State.closeTransport (s : State) (udp : Bool) : State :=
  let mine (m : OutMsg) : Bool := onTransport udp m.dst
  let l := s.links
  let lost := (l.waiting.filter fun m => mine m && m.kind == .reply).length + (if udp then 0 else (l.outFifo.filter (·.ctl)).length)
  let s1 := (s.onCnt fun c => { c with msgsDiscarded := c.msgsDiscarded + BitVec.ofNat 32 lost }).onLinks fun l =>
    { l with waiting := l.waiting.filter fun m => !mine m, outFifo := if udp then l.outFifo else []
             inFifo := if udp then l.inFifo else (splitFifo 512 l.inFifo).1, partialAt := if udp then l.partialAt else none }
  match s1.links.endpoint with
  | some e =>
    if onTransport udp e then (s1.onLinks fun l => { l with endpoint := none }).resendAll fun _ => true else s1
  | none => s1

/-- Section DELIVERY changes (R52, R56). A change of PHY_ADDR moves the polls and with them ETH_UP; the writes of R57 come at boot and at the
return of ETH_REFCLK only, as the rule names no other occasion. -/
def State.changeDelivery (s : State) (old new : List Host.Cell) : State :=
  let off (set : List Host.Cell) : Bool := bitOf (setNat set 10 0 1) 7
  let on (set : List Host.Cell) : Bool := bitOf (setNat set 10 0 1) 6
  let s1 := if !off old && off new then s.closeTransport false else s
  let s2 := if on old && !on new then s1.closeTransport true else s1
  let s3 := if setNat old 10 13 1 != setNat new 10 13 1 then s2.refreshEth else s2
  s3.refreshIrq

/-- VFLOOR and FLOOR_ADD move the ledger floor and the core voltage (R419, R423, R446). -/
def State.changeFloor (s : State) (old new : List Host.Cell) : State :=
  if spanChanged old new 9 4 2 || spanChanged old new 11 7 1 then
    (s.onTrim fun t => { t with ledger := { t.ledger with vfloor := ledgerFloor t.ledger.vbase (setNat new 11 7 1) } }).changeVolt
  else s

/-- What only a castling brings: the policy (R438), the running order (R283), the broadcast frequencies (R269). -/
def State.castleOnly (s : State) (old new : List Host.Cell) : State :=
  let s1 := if spanChanged old new 9 1 2 then s.setPolicy (setNat new 9 1 1) (setNat new 9 2 1) else s
  let s2 := if spanChanged old new 12 0 4 then s1.onTime fun t => { t with order := (List.range 4).map fun k => setNat new 12 k 1 } else s1
  let vhf := setNat new 5 4 4
  let lf := setNat new 5 8 4
  let s3 := if setNat old 5 4 4 == vhf then s2
    else if vhf == 0 then s2.onBc fun b => { b with vhf := { b.vhf with freq := 0 }, rds := {} }
    else s2.tuneVhf vhf 0
  if setNat old 5 8 4 == lf then s3
  else if lf == 0 then s3.onBc fun b => { b with lfmf := { b.lfmf with freq := 0 } }
  else s3.tuneLfmf lf (setNat new 5 12 1) 0

/-- OWNER of a customer crew changes (R464). -/
def State.changeCrew (s : State) (old new : List Host.Cell) (c : Nat) : State :=
  let was := crewOwned old c
  let is := crewOwned new c
  if was == is then s
  else if is then
    if !s.crewIs c .molrel then s
    else
      let s1 := ((s.abortWhere fun x => x.scull / 8 == c).clearCrew c)
      if s1.holdsPkg c then
        let s2 := s1.moveCrew c .customerLoaded
        if bitOf (setNat new 13 1 1) c then (s2.loadCrew c ((s2.package c).getD [])).onCrew c fun x => { x with starting := some 0 } else s2
      else s1.moveCrew c .off
  else if s.crewIs c .customerRunning then s
  else
    let l := (s.crew c).waits.map (·.1) ++ (s.crew c).starting.toList
    ((((s.clearCrew c).moveCrew c .molrel).onCrew c fun x => { x with waits := [], starting := none }).each l fun s t => s.finish t .locked [])

/-- A new active set takes effect in every unit at a catch: by castling, or by direct writes (R70, R75). -/
def State.adopt (s : State) (new : List Host.Cell) (castled : Bool) : State :=
  let old := s.cfg.active
  let s0 := (s.onCfg fun c => { c with active := new }).bumpUnits old new
  let s1 := (s0.changeLo old new 0).changeLo old new 1
  let s2 := s1.each (changedLanes old new) fun s i => s.changeLane old new i
  let s3 := (if spanChanged old new 1 0 160 then ((s2.followAll).fixGains).fixTuners else s2).changeChains old new
  let s4 := s3.each [0, 1, 2, 3] fun s g => s.changeGroup old new castled g
  let s5 := if spanChanged old new 7 0 32 then s4.changeTdm old new else s4
  let s6 := if spanChanged old new 8 0 512 then (s5.each (List.range 28) fun s c => s.changePulses old c).changeLeak old else s5
  let s7 := (s6.changeFloor old new).changeDelivery old new
  let s8 := if castled then ((s7.castleOnly old new).changeCrew old new 6).changeCrew old new 7 else s7
  let s9 := if castled then s8.each (enabledLanes new) fun s i => s.onLane i fun l => { l with flags := l.flags ||| 0x80, cut := true } else s8
  s9.chooseSource

/-! ### Castling and direct writes (R70, R75 to R80) -/

/-- The mask of sections whose content differs between two sets (R80). -/
def sectionMask (a b : List Host.Cell) : Nat :=
  ((List.range 14).map fun k => if a.filter (fun c => c.1 / 65536 == k) == b.filter (fun c => c.1 / 65536 == k) then 0 else 2 ^ k).sum

/-- The shadow set becomes active in every unit, the generation advances and EV_CASTLED is raised (R67, R75, R80). Until the copy of R76 is
complete the shadow set goes on holding the content that castled, not the former active set: R76 does not say what it holds between, and
the model lets it stand (log 150). -/
def State.castleNow (s : State) (stroke : Nat) : State :=
  let before := overlay s.cfg.active s.cfg.direct
  let new := s.cfg.shadow
  let s1 := ((s.onCfg fun c => { c with genAct := c.genAct + 1, direct := [] }).adopt new true)
  s1.pushEvent 0x800C 0 0 0 (le 8 stroke ++ le 2 (sectionMask new before) ++ le 1 s1.cfg.genAct.toNat ++ le 1 0)

/-- The configuration at a catch: a castling that is due, else the direct writes that wait (R70, R75); a command on the sets goes on when
the one before it was ended by R34. -/
def State.catchConfig (s0 : State) : State :=
  let s := s0.serveCfg 64
  let direct (s : State) : State :=
    if s.cfg.direct.isEmpty then s
    else (s.onCfg fun c => { c with direct := [] }).adopt (overlay s.cfg.active s.cfg.direct) false
  match s.cfg.castle with
  | .armed tag k late =>
    if k ≤ s.stroke then (s.castleNow s.stroke).onCfg fun c => { c with castle := .copying (some tag) s.stroke late s.dtime }
    else direct s
  | _ => direct s

/-- The set that the configuration at a catch makes active. -/
def State.nextSet (s : State) : List Host.Cell :=
  match s.cfg.castle with
  | .armed _ k _ => if k ≤ s.stroke then s.cfg.shadow else s.cfg.active
  | _ => s.cfg.active

/-- The OK payload of CASTLE (R46). -/
def castlePayload (stroke : Nat) (gen : U8) : Bytes := le 8 stroke ++ le 1 gen.toNat

/-- SHADOW_COPY_DONE: both sets are equal again and CASTLE is answered; the commands that waited behind it go on (R41, R74, R76). The copy takes
the active set as it stands when it completes, with a direct write that a catch applied since the castling (log 150). -/
def execShadowCopyDone (s : State) : Out :=
  match s.cfg.castle with
  | .copying tag k late _ =>
    let s1 := s.onCfg fun c => { c with shadow := c.active, genShad := c.genAct, castle := .idle }
    .next ((match tag with
      | some t => s1.finish t (if late then .late else .ok) (castlePayload k s.cfg.genAct)
      | none => s1).serveCfg 64)
  | _ => .next s

/-- SHADOW_COPY_FLAG_FALL: 38,400 cycles after the catch CASTLE ends with HW_FAULT and its OK payload; the copy is repeated (R79). -/
def execShadowCopyFlagFall (s : State) : Out :=
  match s.cfg.castle with
  | .copying (some tag) k late t =>
    let s1 := ((s.at (t + 38400)).flagFall 0x0A 1).onCfg fun c => { c with castle := .copying none k late t }
    .next ((s1.finish tag .hwFault (castlePayload k s.cfg.genAct)).serveCfg 64)
  | _ => .next s

end Sys2Proof.Machine
end

