-- ==== Sys2Proof/Machine/Boot.lean ====
section
/-! DEFINITION. Resets, boot, firmware update, crew package loads, field access and the test port (R35, R36, R124, R137,
R450 to R472, R478, R481, R484). -/

namespace Sys2Proof.Machine

/-! ### Resets (R121, R411, R462, R484) -/

/-- The time a band has radiated up to the present counts in the duty counters (R263). -/
def State.countRadiating (s : State) (b : Band) : State :=
  match (s.txb b).phase, (s.txb b).item with
  | .ramping at_, some x => s.addDuty x.rule at_ s.dtime
  | .radiating f, some x => s.addDuty x.rule (f - 768) s.dtime
  | .rampingDown _ f, some x => s.addDuty x.rule (f - 768) s.dtime
  | _, _ => s

/-- What a reset leaves of a chain: the applied tuner codes and the mark of R418, which sit in PD_AON. -/
def Chain.afterReset (c : Chain) : Chain := { series := c.series, shunt := c.shunt, seenRx := c.seenRx }

/-- What a reset leaves of boot, flash and fuses. A trial that is not confirmed and has no trials left loses its pending mark (R462). -/
def Boot.afterReset (b : Boot) (cause : ResetCause) : Boot :=
  { cause := cause, fails := b.fails, slotA := b.slotA, slotB := b.slotB, confirmed := b.confirmed
    pendingS := if b.pendingS.isSome && b.trials == 0 then none else b.pendingS, trials := b.trials, rollback := b.rollback
    devId := b.devId, stepping := b.stepping, serial := b.serial, rootKey := b.rootKey, wrapKey := b.wrapKey, makerId := b.makerId
    makerCert := b.makerCert, cfgImage := b.cfgImage, ledger0 := b.ledger0, ledger1 := b.ledger1, pkg6 := b.pkg6, pkg7 := b.pkg7
    cur6 := b.cur6, cur7 := b.cur7, ir := b.ir, mac := b.mac, dr := b.dr }

/-- A reset: PD_AON, the flash, the fuses, the levels at the pins and what the console has sent stay; all else returns to its reset value, radiation ends,
and the boot sequence starts at once (R7, R411, R456, R484). -/
def State.resetTo (s : State) (cause : ResetCause) : State :=
  let s1 := (s.countRadiating .h).countRadiating .l
  { pending := s1.pending, fresh := s1.fresh
    links := { refclk := s1.links.refclk, uartTx := s1.links.uartTx }
    chains := s1.chains.map fun c => (c.1, c.2.afterReset)
    clk := { tcxo := s1.clk.tcxo, aon := s1.clk.aon, ashore := s1.clk.ashore, coarse := s1.clk.coarse }
    dir := { dramMib := s1.dir.dramMib }
    tx := { card := s1.tx.card, cardBad := s1.tx.cardBad, duty := s1.tx.duty, dutyBase := s1.tx.dutyBase + s1.dtime / sec + 1 }
    trim := { values := s1.trim.values, firstSurvey := s1.trim.firstSurvey, dieTemp := s1.trim.dieTemp }
    pwr := { voutLinear := s1.pwr.voutLinear, voutExp := s1.pwr.voutExp, rfBad := s1.pwr.rfBad, mainsLow := s1.pwr.mainsLow }
    boot := s1.boot.afterReset cause
    pins := { testEn := s1.pins.testEn, gpioFilter := s1.pins.gpioFilter } }

/-- The device is held in reset until its release. -/
def State.holdReset (s : State) : State := s.onBoot fun b => { b with held := true, step := 0 }

/-- RESET: the release of reset starts the boot sequence; TEST_EN is sampled (R7, R456, R478). -/
def execReset (s : State) : Out :=
  if s.boot.held then
    .next ({ s with dtime := 0, stroke := 0, pins := { s.pins with resetLow := false }
                    boot := { s.boot with held := false, step := 1, testMode := s.pins.testEn } })
  else .next s

/-- A low pulse of so many ns on RESET_N is taken: under 500 ns it is ignored, from 2 µs on it is accepted, between the two the spec leaves it
open (R35; log 152). -/
def resetTaken (ns : Nat) : Bool := decide (2000 ≤ ns) || (decide (500 ≤ ns) && Config.resetPulse ns)

/-- RESET_N_LOW: a low pulse on RESET_N, once its filter takes it (R35). -/
def execResetNLow (ns : Nat) (s : State) : Out :=
  if resetTaken ns then .next ((s.resetTo .resetN).holdReset.onPins fun p => { p with resetLow := true }) else .next s

/-- REF_LOSS_RESET: no reference edge for 1 µs, the reference not being stopped for ASHORE (R35, R121). -/
def execRefLossReset (s : State) : Out := if s.clk.stopped || s.boot.held then .next s else .next (s.resetTo .refLoss)

/-- POWER_ON_RESET: VDD_AON was below 2.8 V; PD_AON is lost and the reference mode is chosen again (R119, R411, R484). -/
def execPowerOnReset (tcxo : Bool) (s : State) : Out :=
  let s1 := (s.resetTo .powerOn).holdReset
  .next { s1 with chains := [], clk := { tcxo := tcxo }, tx := { card := s1.tx.card, cardBad := s1.tx.cardBad }
                  trim := { dieTemp := s1.trim.dieTemp }, boot := { s1.boot with fails := 0 } }

/-- CORE_SUPPLY_RESET, outside FEATHER and ASHORE (R484). -/
def execCoreSupplyReset (s : State) : Out :=
  if s.pwr.st == .feather || s.pwr.st == .ashore || s.boot.held then .next s else .next (s.resetTo .coreSupply)

/-- OVER_TEMP_RESET: held until the die reaches 115 °C (R484). -/
def execOverTempReset (s : State) : Out := .next (s.resetTo .overTemp).holdReset

/-- SYN_D_LOST_RESET: 10 ms after EV_LOCK_LOST for SYN_D (R137). -/
def execSynDLostReset (s : State) : Out :=
  match (s.synth 2).lostAt with
  | none => .next s
  | some t => .next ((s.at (t + 10 * ms)).resetTo .watchdog)

/-- The instructions whose leaving resets the device: EXTEST, CLAMP, HIGHZ (R481). -/
def scanDrives (ir : BitVec 5) : Bool := ir == 0x00 || ir == 0x04 || ir == 0x05

/-- The data register that an instruction selects (R481). -/
inductive TestReg where
  | idcode | boundary | bypass | debug
  deriving DecidableEq, Repr

/-- The instruction register as Capture-IR loads it (R481). -/
def irCapture : BitVec 5 := 0b00001

/-- The data register of an instruction: EXTEST and SAMPLE/PRELOAD select the boundary register, IDCODE the identification register, DEBUG
the debug access while scope 3 is open; CLAMP, HIGHZ, BYPASS, a closed DEBUG and every other code select the one-bit bypass (R471, R481). -/
def State.testReg (s : State) (ir : BitVec 5) : TestReg :=
  if ir == 0x00 || ir == 0x02 then .boundary
  else if ir == 0x01 then .idcode
  else if ir == 0x10 && s.scopeOpen 3 then .debug
  else .bypass

/-- Signal balls of the boundary register: those of R476 in the order of its table, without the balls of the VDD_RF and VDD_AON banks and of
the LPDDR4: 4 of PAX, 20 of SD and SCK, 3 of TDM, 15 of Ethernet, 6 of SPI, 2 of the UART, 5 of the test port, 16 GPIO, 6 from PPS_IN to
TEST_EN, 6 of QSPI (R481; log 154). -/
def boundaryLen : Nat := 83

/-- A GPIO is a pulse output: a circuit with PULSE_EN names it, and no higher function has it (R479). -/
def State.pulseBall (s : State) (g : Nat) : Bool :=
  let set := s.cfg.active
  (if g == 0 then !s.spiOn else !(s.cfgNat 9 10 1 == g || bitOf (s.cfgNat 9 12 2) g))
    && (List.range 28).any fun c => cirPulseEn set c && cirGpio set c == g

/-- Level at GPIO `g` where the device drives it: HOST_IRQ_N on GPIO0, and pulse outputs, which are low between pulses (R52, R326, R479). -/
def State.gpioLevel (s : State) (g : Nat) : Option Bool :=
  if g == 0 && s.spiOn then some s.pins.irqN else if s.pulseBall g then some (s.pins.pulses.contains g) else none

/-- Level at a ball of the boundary register where State determines it; a ball that is an input, or whose signal no rule puts into State, is
not determined (R52, R57, R260, R286, R291, R312, R478, R479). -/
def State.ballLevel (s : State) (i : Nat) : Option Bool :=
  let low := s.pins.resetLow
  if i < 4 then some (match i with | 0 => s.paxEnLevel .h | 1 => (s.txb .h).paxTr | 2 => s.paxEnLevel .l | _ => (s.txb .l).paxTr)
  else if i < 24 then if i % 5 == 3 then s.sckLevel ((i - 4) / 5) else none
  else if i < 26 then if !tdmSlave s.cfg.active && s.tdmIs .stopped then some false else none
  else if i == 40 then if low || s.cfgNat 10 13 1 == 0xFF then some false else none
  else if 28 ≤ i && i < 34 then if low then some false else none
  else if i == 48 then if low then some true else none
  else if 55 ≤ i && i < 71 then s.gpioLevel (i - 55)
  else match i with
    | 72 => some s.pins.ppsOut
    | 75 => some (!low)
    | 76 => some s.pins.testEn
    | 77 => some true
    | 78 => some false
    | _ => none

/-- The selected data register as it captures, the bit shifted out first in front: the identification register from its bit 0 on, the bypass
register at 0, the levels at the balls (R481; log 154). What DEBUG captures the spec does not say. -/
def State.testCapture (s : State) : TestReg → List Bool
  | .idcode => (List.range 32).map fun i => s.boot.idReg.getLsbD i
  | .bypass => [false]
  | .boundary => (List.range boundaryLen).map fun i => (s.ballLevel i).getD (Config.ballLevel s.fresh i)
  | .debug => []

/-- TEST_PORT_INSTRUCTION: the instruction register is updated and selects its data register; leaving EXTEST, CLAMP or HIGHZ resets the
device (R481). -/
def execTestPortInstruction (code : BitVec 5) (s : State) : Out :=
  let s1 := (s.draw).onBoot fun b => { b with ir := code, dr := s.testCapture (s.testReg code) }
  if scanDrives s.boot.ir && code != s.boot.ir && !s.boot.held then .next (s1.resetTo .testPort) else .next s1

/-- ASHORE_EXIT: at the first always-on edge after the reference starts DTIME is restored; without its copy of the SRAM the device
boots with reset_cause 3 (R124, R284, R470; log 174). `aon` is AONCNT at that edge. -/
def execAshoreExit (aon : Nat) (s : State) : Out :=
  if !s.clk.stopped || !s.pwr.waking then .next s
  else
    let r := s.clk.ashore
    let d := r.dtimeEntry + (aon + 2 ^ 48 - r.aonEntry % 2 ^ 48) % 2 ^ 48 * r.ratio / 2 ^ 20
    let s1 := s.onClk fun c =>
      { c with aon := BitVec.ofNat 48 aon, stopped := false
               ashore := { r with aonExit := aon % 2 ^ 48, dtimeExit := d, flags := if c.aonLost then r.flags ||| 2 else r.flags } }
    let s2 := { s1 with dtime := d, stroke := d / strokeLen }
    let s3 := s2.onTime fun t => { t with e := t.uncAt r.dtimeEntry + nsOf (d - r.dtimeEntry) * 50 / 1000000 + 61036, eAt := d }
    .next (if s.boot.sramCopy == some s.dramCopy then s3.loadSram else s3.resetTo .watchdog)

/-! ### Firmware images (R454, R455, R461) -/

/-- The checks of a firmware image: layout with device and stepping, security version, then hash and signature (R454, R455, R461). -/
def State.fwCheck (s : State) (b : Bytes) : Status :=
  let n := fieldAt 4 4 b
  if b.length < 256 || !inR 1 6291200 n || b.length != 256 + n || fieldAt 0 2 b != 0x4657 || fieldAt 2 1 b != 1 || fieldAt 3 1 b != 0
      || 64 < fieldAt 12 4 b || fieldAt 16 2 b != 0x7216 || fieldAt 18 1 b != 0xB1 || !zeros (slice 19 13 b) || !zeros (slice 64 128 b) then .invalidArg
  else if fieldAt 12 4 b < s.boot.rollback then .locked
  else if sha256 (b.drop 256) == slice 32 32 b && ecdsaVerify s.boot.rootKey (slice 192 64 b) (b.take 192) then .ok
  else .authFail

/-- A slot by its letter: false is A. -/
def Boot.slot (b : Boot) (x : Bool) : FwSlot := if x then b.slotB else b.slotA
def Boot.setSlot (b : Boot) (x : Bool) (v : FwSlot) : Boot := if x then { b with slotB := v } else { b with slotA := v }

/-- The image that a slot holds, its length being that of its header. -/
def FwSlot.image (f : FwSlot) : Bytes := f.bytes.take (256 + fieldAt 4 4 f.bytes)

/-- A slot may boot: not marked failed, and its image passes (R456; log 32). -/
def State.slotOk (s : State) (x : Bool) : Bool :=
  let f := s.boot.slot x
  !f.failed && (if f.factory then s.boot.rollback == 0 else s.fwCheck f.image == .ok)

/-- A slot is marked failed (R456). -/
def State.failSlot (s : State) (x : Bool) : State := s.onBoot fun b => b.setSlot x { b.slot x with failed := true }

/-- The slot picked first: the pending one with trials left, else the confirmed one (R456). -/
def Boot.pick (b : Boot) : Bool :=
  match b.pendingS with
  | some p => if b.trials == 0 then b.confirmed else p
  | none => b.confirmed

/-- The slot that boots; a slot that fails its check is marked, and both failing means recovery mode (R456). -/
def State.chooseSlot (s : State) : State × Option Bool :=
  let p := s.boot.pick
  if s.slotOk p then (s, some p)
  else
    let s1 := s.failSlot p
    if s1.slotOk (!p) then (s1, some (!p)) else (s1.failSlot (!p), none)

/-- The chosen slot boots; one of its trials is used when it is the pending one (R462). -/
def State.bootSlot (s : State) (x : Bool) : State :=
  let f := s.boot.slot x
  let trial := s.boot.pendingS == some x && x != s.boot.confirmed
  s.onBoot fun b =>
    { b with booted := x, trial := trial, trials := if trial then b.trials - 1 else b.trials
             fwVersion := BitVec.ofNat 32 (if f.factory then 0 else fieldAt 8 4 f.bytes)
             secVersion := BitVec.ofNat 32 (if f.factory then 0 else fieldAt 12 4 f.bytes) }

/-- Console lines of the boot ROM: the reset cause, and one for each of the steps that were run (R58). -/
def State.bootLines (s : State) (steps : Nat) : State :=
  (s.console ("reset " ++ toString s.boot.cause.code)).each (List.range steps) fun s n => s.console ("boot step " ++ toString (n + 1))

/-- Recovery mode: the boot ROM runs the SPI transport and sets READY (R459). -/
def State.recover (s : State) : State :=
  ((s.onBoot fun b => { b with recovery := true, step := 0, readyAt := s.dtime, fails := 0 }).onLinks fun l => { l with ready := true }).setIrq 1

/-! ### Boot steps 5 to 8 (R451 to R456, R458) -/

/-- The valid ledger copy with the higher sequence is restored (R422, R452). -/
def State.restoreLedger (s : State) : State :=
  let best := match s.boot.ledger0, s.boot.ledger1 with
    | some a, some b => if b.1.toNat < a.1.toNat then some a.2 else some b.2
    | some a, none => some a.2
    | none, some b => some b.2
    | none, none => none
  match best with
  | some l => s.onTrim fun t => { t with ledger := l }
  | none => s

/-- The maker certificate is verified; the first valid one fuses its maker_id (R451). -/
def State.readMaker (s : State) : State :=
  let c := s.boot.makerCert
  let who := BitVec.ofNat 32 (fieldAt 4 4 c)
  if 192 ≤ c.length && fieldAt 0 2 c == 0x4D43 && fieldAt 2 1 c == 1 && fieldAt 3 1 c == 0 && zeros (slice 72 56 c)
      && (s.boot.makerId == none || s.boot.makerId == some who) && ecdsaVerify s.boot.rootKey (slice 128 64 c) (c.take 128) then
    s.onBoot fun b => { b with makerId := some who, makerKey := some (slice 8 64 c) }
  else s

/-- Entries of a configuration image: section, offset and bytes, with what follows them (R453). -/
def splitImage : (n : Nat) → Bytes → Option (List (Nat × Nat × Bytes) × Bytes)
  | 0, b => some ([], b)
  | n + 1, b =>
    let k := fieldAt 4 2 b
    let m := ceilDiv k 4 * 4
    if b.length < 8 + m || fieldAt 1 1 b != 0 || fieldAt 6 2 b != 0 || !zeros ((b.take (8 + m)).drop (8 + k)) then none
    else (splitImage n (b.drop (8 + m))).map fun r => ((fieldAt 0 1 b, fieldAt 2 2 b, (b.drop 8).take k) :: r.1, r.2)

/-- The entries of an image whose layout and CRC are right (R453). -/
def imageEntries (b : Bytes) : Option (List (Nat × Nat × Bytes)) :=
  if b.length < 12 || fieldAt 0 2 b != 0x43C6 || fieldAt 2 1 b != 1 || fieldAt 3 1 b != 0 || fieldAt 6 2 b != 0 then none
  else match splitImage (fieldAt 4 2 b) (b.drop 8) with
    | none => none
    | some (l, rest) =>
      let n := b.length - rest.length
      if 4 ≤ rest.length && fieldAt 0 4 rest == (crc32 (b.take n)).toNat then some l else none

/-- The configuration image is checked, written to the shadow set, checked again and castled (R456). -/
def State.loadImage (s : State) : State :=
  match imageEntries s.boot.cfgImage with
  | none => s
  | some l =>
    if l.any fun e => (s.writeRefuse false e.1 e.2.1 e.2.2).isSome then s
    else
      let set := l.foldl (fun m e => putSet m e.1 e.2.1 e.2.2) s.cfg.shadow
      if (s.failing set).isEmpty then
        ((s.onCfg fun c => { c with shadow := set }).castleNow s.strokeNow).onCfg fun c => { c with genShad := c.genAct }
      else s

/-- A crew at the end of boot: Molrel firmware, or what the customer holds, started where AUTOSTART says so (R456, R463, R464). -/
def State.bootCrew (s : State) (c : Nat) : State :=
  if !s.crewMine c then (if s.boot.lateFalls.contains 7 then s else s.moveCrew c .molrel)
  else if s.holdsPkg c then
    let s1 := s.moveCrew c .customerLoaded
    if s1.cfgBit 13 1 c then (s1.loadCrew c ((s1.package c).getD [])).onCrew c fun x => { x with starting := some 0 } else s1
  else s


/-- READY is set: the late flag falls are reported, the PHY is set up and the full trim begins (R57, R404, R418, R456, R458). -/
def State.setReady (s : State) : State :=
  let late := s.boot.lateFalls
  let s1 := (s.onBoot fun b => { b with step := 0, readyAt := s.dtime, fails := 0, lateFalls := [] }).onLinks fun l => { l with ready := true }
  let s2 := (s1.setIrq 1).each late fun s n => s.flagFall 0x0B n
  let s3 := (s2.phyStart.refreshEth).onMem fun m => { m with nextSweep := some (s.dtime + 60 * sec) }
  s3.trimAuto fullTrim true

/-- Steps 5 to 8 of boot, the slot having booted (R456). -/
def State.finishBoot (s : State) : State :=
  let s1 := ((s.runSyn 0 21 6).runSyn 1 4 24).runSyn 2 40 2
  let s2 := s1.restoreLedger.readMaker
  let s3 := if s2.boot.lateFalls.contains 6 then s2 else s2.loadImage
  ((s3.each (List.range 8) State.bootCrew).changeVolt.bootLines 8).setReady

/-- BOOT_READY: the boot sequence completes, fails R4 and resets, or ends in recovery mode (R4, R456, R459). -/
def execBootReady (s : State) : Out :=
  if s.boot.step == 0 || s.boot.held || s.boot.testMode then .next s
  else match s.chooseSlot with
    | (s1, none) => .next (s1.bootLines 3).recover
    | (s1, some x) =>
      let s2 := s1.bootSlot x
      if s.boot.devId != 0x7216 || s.boot.stepping != 0xB1 then .next (((s2.failSlot x).bootLines 4).resetTo .watchdog)
      else .next s2.finishBoot

/-- Limit of a boot step in ms from the release of reset (R458). -/
def bootLimit (n : Nat) : Nat := if n ≤ 3 then 350 else if n == 4 then 400 else if n == 5 then 600 else if n == 6 then 650 else 690

/-- BOOT_STEP_FLAG_FALL, by the step of R456 that exceeded its limit, `step` + 1; the check of the second slot has its own 350 ms (R458). -/
def execBootStepFlagFall (step : Fin 8) (s : State) : Out :=
  if s.boot.step == 0 || s.boot.held || s.boot.testMode then .next s
  else
    let n := step.val + 1
    let p := s.boot.pick
    let first := if (s.boot.slot p).failed then !p else p
    let again := n ≤ 3 && first != p
    let s0 := ((s.at ((if again then s.dtime else 0) + bootLimit n * ms)).bootLines n).fallLine ("boot step " ++ toString n)
    if n ≤ 3 then
      let s1 := s0.failSlot first
      .next (if (s1.boot.slot (!first)).failed then s1.recover else s1)
    else if n == 4 then .next ((s0.failSlot first).resetTo .watchdog)
    else if n == 5 then
      let s1 := (s0.resetTo .watchdog).onBoot fun b => { b with fails := b.fails + 1 }
      .next (if 3 ≤ s1.boot.fails then s1.recover else s1)
    else if n ≤ 7 then .next ((s.at (bootLimit n * ms)).onBoot fun b => { b with lateFalls := (b.lateFalls.filter (· != n)) ++ [n] })
    else .next s

/-! ### Progress of long operations in flash (R65, R461, R466) -/

/-- Bytes written over a byte string at an offset, zeros filling a gap. -/
def overwrite (b : Bytes) (ofs : Nat) (x : Bytes) : Bytes := slice 0 ofs b ++ x ++ b.drop (ofs + x.length)

/-! ### FW_UPDATE (R460 to R462) -/

/-- The slot that FW_UPDATE writes: the one that did not boot, A in recovery mode (R459, R461). -/
def State.fwTarget (s : State) : Bool := !s.boot.recovery && !s.boot.booted

/-- What refuses FW_UPDATE: a trial not yet confirmed (R46, R461). -/
def State.fwRefuse (s : State) : Option Status := if s.boot.trial then some .locked else none

/-- Steps of a firmware commit: 64 KiB hashed, and one for the header (R461). -/
def State.fwSteps (s : State) : Nat := ceilDiv (fieldAt 4 4 (s.boot.slot s.fwTarget).bytes) 65536 + 1

/-- FW_UPDATE with a step byte other than 1, of which 0 is a chunk and any other is out of range (R46, R460, R461). A package longer than
a slot is out of range (log 35). A chunk that comes while a commit runs is taken: R46 gives the command no BUSY (log 159). -/
def execFwUpdateChunk (h : Hdr) (reserved step : U8) (chunk : U16) (pkgLen : U32) (data : Bytes) (s : State) : Out :=
  .next (s.host h 0x00D0
    (fun s => { op := 0x00D0
                form := h.len == 8 + data.length && reserved == 0 && (step != 0 || chunkForm s.boot.fwLoad chunk.toNat pkgLen.toNat data.length)
                range := step == 0 && chunkNext s.boot.fwLoad chunk.toNat && pkgLen.toNat ≤ 6291456 && data.length ≤ pkgLen.toNat
                state := s.fwRefuse })
    fun s =>
      let x := s.fwTarget
      let old := s.boot.slot x
      (s.onBoot fun b =>
        let ofs := chunkAt b.fwLoad chunk.toNat
        { b.setSlot x { old with bytes := overwrite old.bytes ofs data, factory := false } with
            fwLoad := some (chunkTaken b.fwLoad chunk.toNat pkgLen.toNat data.length) }).answer h 0x00D0 .ok [])

/-- FW_UPDATE step 1 starts the verification as a long operation; it uses up the load (R44, R461; log 159). -/
def execFwUpdateCommit (h : Hdr) (reserved : U8) (_chunk : U16) (pkgLen : U32) (s : State) : Out :=
  .next (s.host h 0x00D0
    (fun s => { op := 0x00D0, form := h.len == 8 && reserved == 0 && loadWhole s.boot.fwLoad pkgLen.toNat, range := true
                state := s.fwRefuse })
    fun s => ((s.queued h 0x00D0 true).progress h.tag 0 s.fwSteps).onBoot fun b => { b with fwCommit := some (h.tag, pkgLen.toNat), fwLoad := none })

/-- FW_COMMIT_DONE: the steps still open are made, and the slot becomes pending with three trials, or the commit fails (R65, R461). -/
def execFwCommitDone (s : State) : Out :=
  match s.boot.fwCommit with
  | none => .next s
  | some (tag, n) =>
    let x := s.fwTarget
    let img := slice 0 n (s.boot.slot x).bytes
    let s1 := (s.lastSteps tag).onBoot fun b => { b with fwCommit := none }
    match s.fwCheck img with
    | .ok =>
      let s2 := s1.onBoot fun b =>
        { b.setSlot x { b.slot x with failed := false } with pendingS := some x, trials := 3, resetDue := some s.dtime }
      .next (s2.finish tag .ok (le 4 (fieldAt 8 4 img)))
    | st => .next (s1.finish tag st [])

/-- FW_UPDATE_RESET: at the first catch at least 1 s after the reply (R461). -/
def execFwUpdateReset (s : State) : Out :=
  match s.boot.resetDue with
  | none => .next s
  | some t => .next ((s.at (ceilDiv (t + sec) strokeLen * strokeLen)).resetTo .fwUpdate)

/-- FW_TRIAL_CONFIRM: 60 s after READY the pending slot is confirmed and the anti-rollback counter rises (R455, R462). -/
def execFwTrialConfirm (s : State) : Out :=
  if s.boot.trial && s.links.ready then
    .next ((s.at (s.boot.readyAt + 60 * sec)).onBoot fun b =>
      { b with trial := false, confirmed := b.booted, pendingS := none, trials := 0, rollback := max b.rollback b.secVersion.toNat })
  else .next s

/-! ### CREW_LOAD (R460, R464 to R466) -/

/-- CREW_LOAD with a step byte other than 1, of which 0 stages a chunk in the crew's DRAM window and any other is out of range; it waits behind
the commands on the crew received before it (R41, R46, R460, R466). -/
def execCrewLoadChunk (h : Hdr) (crew step : U8) (chunk : U16) (pkgLen : U32) (data : Bytes) (s : State) : Out :=
  let c := crew.toNat
  .next (s.host h 0x00A0
    (fun s =>
      let waits := s.crewBusy c || !(s.crew c).waits.isEmpty
      let st := if waits then none else s.chunkRefuse c chunk.toNat pkgLen.toNat data.length
      { op := 0x00A0, form := h.len == 8 + data.length && (step != 0 || !inR 6 7 c || st != some .invalidArg)
        range := inR 6 7 c && step == 0 && st != some .range, state := st })
    fun s =>
      if s.crewBusy c || !(s.crew c).waits.isEmpty then s.waitCrew h 0x00A0 c (.chunk chunk.toNat pkgLen.toNat data)
      else (s.stageChunk c chunk.toNat pkgLen.toNat data).answer h 0x00A0 .ok [])

/-- CREW_LOAD step 1 starts the commit as a long operation, behind the commands on the crew received before it (R41, R44, R466). -/
def execCrewLoadCommit (h : Hdr) (crew : U8) (_chunk : U16) (pkgLen : U32) (s : State) : Out :=
  let c := crew.toNat
  .next (s.host h 0x00A0
    (fun s =>
      let waits := s.crewBusy c || !(s.crew c).waits.isEmpty
      let st := if waits then none else s.commitRefuse c pkgLen.toNat
      { op := 0x00A0, form := h.len == 8 && (!inR 6 7 c || st != some .invalidArg), range := inR 6 7 c, state := st })
    fun s =>
      if s.crewBusy c || !(s.crew c).waits.isEmpty then s.waitCrew h 0x00A0 c (.commit pkgLen.toNat)
      else (s.queued h 0x00A0 true).beginCommit c h.tag pkgLen.toNat)

/-- CREW_COMMIT_DONE: the steps still open are made; the package is verified, written to the half that is not current, and made current;
the crew enters CUSTOMER_LOADED (R65, R464, R466). -/
def execCrewCommitDone (crew : Fin 8) (s : State) : Out :=
  let c := crew.val
  match findT s.boot.crewCommit c with
  | none => .next s
  | some (tag, n) =>
    let b := s.memRead (crewWindow c) n
    let s1 := (s.lastSteps tag).onBoot fun x => { x with crewCommit := delT x.crewCommit c }
    match s.pkgCheck c b with
    | .ok =>
      let s2 := s1.onBoot fun x =>
        if c == 6 then
          let half := !(x.cur6.getD true)
          { x with pkg6 := setAt b x.pkg6 (b2n half), cur6 := some half }
        else
          let half := !(x.cur7.getD true)
          { x with pkg7 := setAt b x.pkg7 (b2n half), cur7 := some half }
      let s3 := if s2.crewIs c .off || s2.crewIs c .faulted then s2.moveCrew c .customerLoaded else s2
      .next (((s3.audit 3 c).finish tag .ok (le 4 (fieldAt 8 4 b))).serveCrew c 64)
    | st => .next ((s1.finish tag st []).serveCrew c 64)

/-! ### Field access (R471, R472) -/

/-- The open challenge; one is open for 300 s (R472). -/
def State.openChallenge (s : State) : Option (Nat × Bytes × Nat) :=
  match s.boot.challenge with
  | some (scope, nonce, mins, t) => if s.dtime < t + 300 * sec then some (scope, nonce, mins) else none
  | none => none

/-- FIELD_CHALLENGE draws a nonce (R471, R472; log 1). -/
def execFieldChallenge (h : Hdr) (scope reserved : U8) (duration : U16) (s : State) : Out :=
  .next (s.host h 0x00E0
    (fun s => { op := 0x00E0, form := h.len == 4 && reserved == 0, range := inR 1 3 scope.toNat && inR 1 1440 duration.toNat
                state := if s.openChallenge.isSome then some .busy else none })
    fun s =>
      let nonce := (List.range 16).map (Config.nonceByte s.fresh)
      (s.draw.onBoot fun b => { b with challenge := some (scope.toNat, nonce, duration.toNat, s.dtime) }).answer h 0x00E0 .ok
        (nonce ++ le 8 s.boot.serial.toNat))

/-- The message that a response signs (R472). -/
def fieldMessage (nonce : Bytes) (serial : U64) (scope mins : Nat) : Bytes :=
  nonce ++ le 8 serial.toNat ++ le 1 scope ++ le 1 0 ++ le 2 mins ++ le 4 0x46414331

/-- The signature opens the scope (R471). -/
def State.signedFor (s : State) (scope : Nat) (sig msg : Bytes) : Bool :=
  let maker := s.boot.makerKey.any fun k => ecdsaVerify k sig msg
  let root := ecdsaVerify s.boot.rootKey sig msg
  match scope with
  | 1 => maker || root
  | 2 => maker
  | 3 => root
  | _ => false

/-- FIELD_RESPONSE consumes the challenge, and opens its scope when the signature verifies (R472). -/
def execFieldResponse (h : Hdr) (sig : Bytes) (s : State) : Out :=
  .next (s.host h 0x00E1
    (fun s => { op := 0x00E1, form := h.len == 64 && sig.length == 64, range := true
                state := if s.openChallenge.isNone then some .notFound else none })
    fun s =>
      let s1 := s.onBoot fun b => { b with challenge := none }
      match s.openChallenge with
      | none => s1.answer h 0x00E1 .notFound []
      | some (scope, nonce, mins) =>
        if s.signedFor scope sig (fieldMessage nonce s.boot.serial scope mins) then
          let till := s.dtime + mins * 2304000000
          (s1.onBoot fun b => { b with scopes := putT b.scopes scope till }).answer h 0x00E1 .ok (le 8 till)
        else s1.answer h 0x00E1 .authFail [])

/-- FIELD_CHALLENGE_EXPIRY (R472). -/
def execFieldChallengeExpiry (s : State) : Out :=
  match s.boot.challenge with
  | none => .next s
  | some (_, _, _, t) => .next ((s.at (t + 300 * sec)).onBoot fun b => { b with challenge := none })

/-- FIELD_SCOPE_CLOSE: an open scope closes at its closing DTIME (R472). -/
def execFieldScopeClose (scope : Fin 4) (s : State) : Out :=
  match findT s.boot.scopes scope.val with
  | none => .next s
  | some t => .next ((s.at t).onBoot fun b => { b with scopes := delT b.scopes scope.val })

end Sys2Proof.Machine
end

