-- ==== Sys2Proof/Machine/Chains.lean ====
section
/-! DEFINITION. Meanings: chain states and transitions, gain control, synthesiser locks, the always-on oscillator and VDD_RF
(chapters 4 and 5). -/

namespace Sys2Proof.Machine

/-- A TX_SUBMIT on the band of a branch A chain is queued or radiating (R105). -/
def State.txPending (s : State) (chain : Nat) : Bool :=
  let busy (b : Band) : Bool :=
    (s.txb b).queue.any (fun x => x.kind != .auto) || (s.txb b).item.any (fun x => x.kind != .auto)
  if chain == 0 then busy .h else if chain == 2 then busy .l else false

/-- Checks of CHAIN_STATE (R46, R105, R444). -/
def chkChainState (h : Hdr) (chain state : U8) (s : State) : Check :=
  let c := chain.toNat
  let q := state == 0xFF
  { op := 0x0020, form := h.len == 2, range := c < 5 && (q || state.toNat < 4)
    state := if q then none
      else if s.pwr.policy == 1 then some .locked
      else if s.chainIs c .fault && state != 0 then some .locked
      else if s.txPending c && state.toNat < 2 then some .busy
      else none }

/-- What CHAIN_STATE does once its checks have passed: a query answers once no earlier command on the chain is outstanding, a request waits for
the state (R41, R105). -/
def actChainState (h : Hdr) (chain state : U8) (s : State) : State :=
  let c := chain.toNat
  if state == 0xFF then
    if (s.chain c).waits.isEmpty then
      let s1 := s.audit 1 c
      s1.answer h 0x0020 .ok (s1.chainReport c)
    else (s.hold h 0x0020 false).onChain c fun x => { x with waits := x.waits ++ [(h.tag, none)] }
  else
    let s1 := (s.trimEndChain c).hold h 0x0020 false
    (s1.onChain c fun x => { x with waits := x.waits ++ [(h.tag, some (ChainSt.ofCode state.toNat))] }).serveChain c 16

/-- CHAIN_STATE (R105). -/
def execChainState (h : Hdr) (chain state : U8) (s : State) : Out :=
  .next (s.host h 0x0020 (chkChainState h chain state) (actChainState h chain state))

/-- CHAIN_TRANSITION_DONE: the step in progress completes (R103, R106). -/
def execChainTransitionDone (chain : Fin 5) (ok : Bool) (s : State) : Out := .next (s.chainStep chain.val ok)

/-- A synthesiser's present lock can be lost: LOCKED, or on its way in a planned reprogramming or a hop (R127, R138). -/
def State.canLose (s : State) (y : Nat) : Bool := s.synIs y .locked || (s.synth y).planned

/-- LOSS_OF_LOCK: core synthesisers fall back, LO synthesisers search, and attempt 1 starts; it aims at the receive LO of the pair (R135 to
R138). -/
def execLossOfLock (syn : Fin 6) (s : State) : Out :=
  let y := syn.val
  if !s.canLose y then .next s
  else
    let b : Band := if y == 3 then .h else .l
    let x := s.synth y
    let n := if y == 3 || y == 4 then loN (rxLo s.cfg.active b) else x.n
    let d := if y == 3 || y == 4 then loDiv s.cfg.active b else x.d
    let s1 := (s.aimSyn y n d).onSynth y fun x => { x with attempt := 1, planned := false, fromLost := false }
    .next ((s1.moveSyn y (if y < 3 then .fallback else .search)).lossEffects y)

/-- A lock that is no relock of R136 is confirmed: what waited for it goes on (R127, R133, R139). -/
def State.lockAt (s : State) (y : Nat) (band : BitVec 6) (margin : Nat) : State :=
  ((((s.rememberBand y band margin).lockSyn y).onMem fun m => if y == 2 then { m with refresh := 2 ≤ s.pwr.st.code } else m).followAll).serveChains

/-- A lock that is no relock of R136 does not come: a cached band that fails is invalidated and a band search follows (R129); a failed
search of a planned reprogramming or a hop is its first attempt of R136 (R138); any other ends what needed the lock (R139). -/
def State.lockMissed (s : State) (y : Nat) : State :=
  let x := s.synth y
  if x.cached then (s.forgetBand y).onSynth y fun x => { x with cached := false }
  else if x.planned then
    let b : Band := if y == 3 then .h else .l
    let n := if y == 3 || y == 4 then loN (rxLo s.cfg.active b) else x.n
    let d := if y == 3 || y == 4 then loDiv s.cfg.active b else x.d
    (s.onSynth y fun x => { x with n := n, d := d, attempt := 2, planned := false, fromLost := false }).lossEffects y
  else s.newLockFailed y

/-- RELOCK_ATTEMPT_END: success resumes the device; a failure starts the next attempt, and the third ends in LOST with
EV_LOCK_LOST (R136, R137). A lock that is no relock has its own course. -/
def execRelockAttemptEnd (syn : Fin 6) (locked : Bool) (band : BitVec 6) (margin : Nat) (s : State) : Out :=
  let y := syn.val
  let x := s.synth y
  if x.attempt == 0 then
    if !(x.planned || s.synIs y .search) then .next s
    else if locked then .next (s.lockAt y band margin)
    else .next (s.lockMissed y)
  else if locked then
    let s1 := ((s.rememberBand y band margin).lockSyn y).onTrim fun t => { t with ledger := { t.ledger with relocks := t.ledger.relocks + 1 } }
    .next (((s1.onSynth y fun x => { x with relocks := x.relocks + 1 }).relockEffects y).serveChains)
  else
    let s1 := if x.cached then s.forgetBand y else s
    if x.attempt < 3 then .next (s1.onSynth y fun x => { x with attempt := x.attempt + 1, cached := false })
    else
      let s2 := (s1.moveSyn y .lost).onSynth y fun x => { x with attempt := 0, lostAt := some s.dtime }
      .next (((s2.fallLine "lock").raise 0x8001 5 y (le 1 (lostMask y) ++ le 1 3 ++ le 2 0)).lostEffects y)

/-- SYNTH_LOCK_CONFIRMED: a planned reprogramming, a hop or a first lock is confirmed (R127, R128, R133). -/
def execSynthLockConfirmed (syn : Fin 6) (band : BitVec 6) (margin : Nat) (s : State) : Out :=
  let y := syn.val
  if (s.synth y).attempt == 0 && ((s.synth y).planned || s.synIs y .search || s.synIs y .fallback) then .next (s.lockAt y band margin)
  else .next s

/-- AGC_FAST_ATTACK: g increases by 2, at most once per 1,200 cycles, never above 15 (R94). -/
def execAgcFastAttack (path : Fin 6) (s : State) : Out :=
  let p := path.val
  let c := pathChain p
  let recent := match (s.gain p).fastAt with | some t => decide (s.dtime < t + 1200) | none => false
  if s.cfgBit 1 (32 * c + 8) 0 || recent || !s.chainIs c .receive then .next s
  else .next ((s.setStep p (min 15 ((s.gain p).g + 2))).onGain p fun x => { x with fastAt := some s.dtime })

/-- Gain control of one path at a catch, from the highest peak of the stroke in 1/16 dBFS (R94). -/
def State.agcCatch (s : State) (p : Nat) (peak : Int) : State :=
  let c := pathChain p
  let e := 32 * c
  let x := s.gain p
  if !s.chainIs c .receive || s.cfgBit 1 (e + 8) 0 then s
  else
    let tgt := s.cfgNat 1 (e + 11) 1
    let t : Int := -(16 * ((if tgt == 0 then 12 else tgt : Nat) : Int))
    let hold := let u := s.cfgNat 1 (e + 12) 1; if u == 0 then 16 else u
    if t + 96 < peak then
      (s.setStep p (min 15 (x.g + min 4 (ceilDiv (peak - t).toNat 48)))).onGain p fun x => { x with quiet := 0 }
    else if peak < t - 96 then
      if hold ≤ x.quiet + 1 then
        if s.cfgNat 1 (e + 10) 1 < x.g then (s.setStep p (x.g - 1)).onGain p fun x => { x with quiet := 0 }
        else s.onGain p fun x => { x with quiet := x.quiet + 1 }
      else s.onGain p fun x => { x with quiet := x.quiet + 1 }
    else s.onGain p fun x => { x with quiet := 0 }

/-- The settling of a lane ends: the watch of both branches is armed, and the block holds settling samples (R156, R162). -/
def Lane.settled (l : Lane) : Lane :=
  { l with settle := 0, watchOnly := false, wa := { l.wa with armed := true, below := 0 }, wb := { l.wb with armed := true, below := 0 }
           flags := l.flags ||| 0x100 }

/-- LANE_SETTLING_END (R156). -/
def execLaneSettlingEnd (lane : Fin 512) (s : State) : Out :=
  let l := s.lane lane.val
  if l.settle == 0 then .next s else .next ((s.at l.settle).setLane lane.val l.settled)

/-- PREAMBLE_HIT: the samples of a lane's bin up to the one that decides a peak reach the device; the watch of every lane on the bin
decides its peaks and writes its hits (R150, R162, R163; log 136). -/
def execPreambleHit (lane : Fin 512) (samples : List BinSample) (s : State) : Out :=
  if s.boot.held || s.clk.stopped then .next s else .next (s.preamble lane.val samples)

/-- AON_OSC_FLAG_FALL: FEATHER and ASHORE are barred until edges return (R36, R122, R124). -/
def execAonOscFlagFall (s : State) : Out :=
  if s.clk.aonLost then .next s
  else .next ((s.onClk fun c =>
    { c with aonLost := true
             ashore := if s.pwr.st == .ashore then { c.ashore with flags := c.ashore.flags ||| 2 } else c.ashore }).flagFall 0x08 0)

/-- AON_OSC_RETURN (R36). -/
def execAonOscReturn (s : State) : Out := .next (s.onClk fun c => { c with aonLost := false })

/-- VDD_RF leaves its range on one chain (R106): a powered chain faults; a radiating branch A ramps down first. -/
def State.rfFault (s : State) (i : Nat) : State :=
  if (s.chainSt i).level == 0 || s.chainIs i .fault then s
  else
    let b : Band := if i == 0 then .h else .l
    if s.chainIs i .transmit && s.radiating b && (s.txb b).phase != .idleTx then
      let l := (s.txb b).queue
      let s1 := ((s.rampDown b).onTxb b fun t => { t with queue := [] }).onChain i fun c => { c with former := some .fault }
      s1.each l fun s x => s.endItem x .expired 0
    else ((if s.chainIs i .transmit then s.requeue b else s)).faultMoving i

/-- VDD_RF_FAULT (R106). -/
def execVddRfFault (s : State) : Out :=
  let s1 := s.onPwr fun p => { p with rfBad := true }
  .next (s1.each [0, 1, 2, 3, 4] State.rfFault)

/-- VDD_RF_RETURN (R106). -/
def execVddRfReturn (s : State) : Out := .next (s.onPwr fun p => { p with rfBad := false })

end Sys2Proof.Machine
end

