-- ==== Sys2Proof/Machine/Diag.lean ====
section
/-! DEFINITION. The diagnostic block and the DRAM tables as DIAG_PEEK and DMA read them, and DIAG_PEEK and DIAG_POKE
(R84, R124, R148, R213, R222, R225, R257, R316, R389, R394, R395, R408). -/

namespace Sys2Proof.Machine

/-! ### Directory entries in memory (R225) -/

/-- A directory entry as its 128 bytes. -/
def DirEntry.bytes (e : DirEntry) : Bytes :=
  le 4 e.ident.toNat ++ le 2 e.mfr.toNat ++ [e.version, e.type_] ++ le 2 e.flags.toNat ++ le 2 e.expInterval.toNat
    ++ le 4 e.learned.toNat ++ le 8 e.lastArrival ++ le 8 e.window ++ (e.history.map fun h => le 4 h.toNat).flatten
    ++ le 1 e.histCount ++ le 1 e.histHead ++ le 1 e.missed ++ [e.lastAcc] ++ le 4 e.lastCrc.toNat ++ le 8 e.lastDupT
    ++ e.wkey ++ le 4 e.delivered.toNat ++ le 4 e.dups.toNat ++ le 4 e.decFail.toNat ++ [e.lastLqi, e.lastSec]
    ++ le 2 e.lastSrc.toNat ++ le 4 e.m7.toNat ++ le 4 0

/-- The entry that 128 bytes hold; reserved flags and bytes are ignored (R14). -/
def DirEntry.ofBytes (b : Bytes) : DirEntry :=
  { ident := BitVec.ofNat 32 (fieldAt 0 4 b), mfr := BitVec.ofNat 16 (fieldAt 4 2 b), version := BitVec.ofNat 8 (fieldAt 6 1 b)
    type_ := BitVec.ofNat 8 (fieldAt 7 1 b), flags := BitVec.ofNat 16 (fieldAt 8 2 b) &&& 0x7F#16
    expInterval := BitVec.ofNat 16 (fieldAt 10 2 b), learned := BitVec.ofNat 32 (fieldAt 12 4 b), lastArrival := fieldAt 16 8 b
    window := fieldAt 24 8 b, history := (List.range 8).map fun i => BitVec.ofNat 32 (fieldAt (32 + 4 * i) 4 b)
    histCount := fieldAt 64 1 b, histHead := fieldAt 65 1 b, missed := fieldAt 66 1 b, lastAcc := BitVec.ofNat 8 (fieldAt 67 1 b)
    lastCrc := BitVec.ofNat 32 (fieldAt 68 4 b), lastDupT := fieldAt 72 8 b, wkey := slice 80 24 b
    delivered := BitVec.ofNat 32 (fieldAt 104 4 b), dups := BitVec.ofNat 32 (fieldAt 108 4 b), decFail := BitVec.ofNat 32 (fieldAt 112 4 b)
    lastLqi := BitVec.ofNat 8 (fieldAt 116 1 b), lastSec := BitVec.ofNat 8 (fieldAt 117 1 b), lastSrc := BitVec.ofNat 16 (fieldAt 118 2 b)
    m7 := BitVec.ofNat 32 (fieldAt 120 4 b) }

/-! ### The diagnostic block -/

/-- Words as consecutive u32 values. -/
def words32 (l : List U32) : Bytes := (l.map fun x => le 4 x.toNat).flatten

/-- State words of consecutive units as u16 values (R84). -/
def State.wordBytes (s : State) (kind n : Nat) : Bytes :=
  ((List.range n).map fun i => match s.wordOf kind i with | some w => le 2 w.bits | none => le 2 0).flatten

/-- The copy of the last ASHORE record (R124). -/
def AshoreRec.bytes (a : AshoreRec) : Bytes :=
  le 8 a.dtimeEntry ++ le 8 a.aonEntry ++ le 8 a.aonExit ++ le 8 a.dtimeExit ++ le 4 a.ratio ++ [a.flags, 0, 0, 0]

/-- The capture counters (R213). -/
def State.captureBytes (s : State) : Bytes :=
  let c := s.rx.cap
  words32 [c.pairs, c.entangled, c.cancellations, c.rerunsStarted, c.rerunsPassed, c.rerunsFailed, c.sweepsRun, c.sweepHits
          , c.sweepPassed, c.waitingExpired, c.unretained, BitVec.ofNat 32 (s.rx.spill / 1024), c.spillPeak, 0, 0, 0]

/-- The counters of the engines (R222). -/
def EngCounters.bytes (c : EngCounters) : Bytes :=
  words32 [c.taken, c.passed, c.lineErrors, c.crcErrors, c.malformed, c.rawStreams, c.unknownMeters, c.dupDiscarded, c.dupInHold
          , c.holdBypass, c.decryptOk, c.decryptFail, c.noKey, c.replay, c.keyUnwraps, c.missingReports]

/-- The time model (R287). -/
def State.modelBytes (s : State) : Bytes :=
  let m := s.time
  leI 8 m.u0 ++ le 8 m.d0 ++ leI 8 m.r ++ le 8 (m.uncAt s.dtime) ++ le 1 m.inUse

/-- The stream and TDM counters (R316). -/
def State.streamBytes (s : State) : Bytes :=
  let t := s.str.tdm
  ((List.range 4).map fun i => let g := s.group i; words32 [g.dropSamples, g.stalls, g.stallSamples, g.rateFaults]).flatten
    ++ words32 [t.underrun, t.overflow, t.slips, t.restarts, t.invalidWords, t.fsErrors] ++ leI 4 t.tune ++ le 2 s.tdmLevel ++ le 2 0

/-- Coefficients h[0] to h[23] of a recipe as DIAG_PEEK reads them (R148). -/
def recipeBytes (r : Nat) : Bytes := ((List.range 24).map fun i => leI 2 (tap r i)).flatten

/-- State bytes of the 384 instances (R395). -/
def State.instByte (s : State) (n : Nat) : U8 :=
  let i := s.inst n
  BitVec.ofNat 8 (8 * b2n i.borrowed + 4 * b2n i.failed + i.power)

/-- A byte of the diagnostic block; what no chapter assigns is open (R389; log 28). -/
def State.diagByte (s : State) (o : Nat) : U8 :=
  let part (base : Nat) (b : Bytes) : Option U8 := if base ≤ o && o < base + b.length then some (b.getD (o - base) 0) else none
  let r : List (Option U8) :=
    if o < 0x400 then [part 0 (s.wordBytes 1 5), part 0x10 (s.wordBytes 5 6), part 0x20 (s.wordBytes 3 8), part 0x30 (s.wordBytes 4 5)]
    else if o < 0x800 then [some ((le 2 (s.lane ((o - 0x400) / 2)).w.bits).getD (o % 2) 0)]
    else if o < 0xC00 then [part 0x800 s.clk.ashore.bytes]
    else if o < 0x1000 then
      [part 0xC00 s.captureBytes, part 0xC40 s.rx.eng.bytes, part 0xC80 (words32 (s.tx.replies ++ [0])), part 0xD00 s.modelBytes
      , part 0xE00 s.streamBytes, part 0xF00 (words32 (s.mem.counters ++ [s.mem.lastFail, 0]))]
    else if o < 0x1800 then
      ((List.range 6).map fun k => part (0x1000 + 64 * k) (recipeBytes k)) ++ [part 0x1400 (recipeBytes 6)]
    else if o < 0x1980 then [some (s.instByte (o - 0x1800))]
    else []
  (r.findSome? id).getD (Config.diagByte o)

/-! ### The DRAM tables (R394) -/

/-- What an offset in DRAM belongs to: a slot of the delivery queue, of its length table, of the hold, of the index table, or an entry,
each with the offset in it. -/
inductive DramPart where
  | queue (slot ofs : Nat)
  | length (slot ofs : Nat)
  | hold (slot ofs : Nat)
  | index (slot ofs : Nat)
  | entry (i ofs : Nat)
  | plain
  deriving DecidableEq, Repr

/-- Offset of the index table and of the entry table (R394). -/
def tableBase (mib : Nat) : Nat × Nat :=
  if mib == 512 then (0x1DE00000, 0x1E000000) else if mib == 1024 then (0x2F000000, 0x30000000) else (0x3C000000, 0x40000000)

/-- The part of DRAM at an offset (R394). -/
def dramPart (mib capacity o : Nat) : DramPart :=
  let t := tableBase mib
  if o < 304 * 1048576 then .queue (o / 304) (o % 304)
  else if 0x13000000 ≤ o && o < 0x13200000 then .length ((o - 0x13000000) / 2) (o % 2)
  else if 0x13200000 ≤ o && o < 0x13200000 + 304 * 4096 then .hold ((o - 0x13200000) / 304) ((o - 0x13200000) % 304)
  else if t.1 ≤ o && o < t.1 + 8 * capacity then .index ((o - t.1) / 4) (o % 4)
  else if t.2 ≤ o && o < t.2 + 128 * capacity then .entry ((o - t.2) / 128) (o % 128)
  else .plain

/-- The record in a slot of the delivery queue (R394). -/
def State.recAt (s : State) (slot : Nat) : Option Rec := s.dlv.queue.find? fun r => r.seq.toNat % 1048576 == slot

/-- The record in a slot of the hold, as it would be delivered now and without a sequence number: the places stand in order of their
entry from slot 0 on, and a write to the slot does not change them (R394; log 171). -/
def State.heldBytes (s : State) (slot : Nat) : Bytes :=
  match s.dir.hold[slot]? with
  | some p => p.best.bytes (s.utcField p.best.tEnd) 0
  | none => []

/-- A byte at a system address, tables and diagnostic block included (R389, R394). -/
def State.sysByte (s : State) (a : Nat) : U8 :=
  match s.place a with
  | .diag => s.diagByte (a - 0x2F000000)
  | .dram =>
    match dramPart s.dir.dramMib s.capacity (a - 0x80000000) with
    | .queue q o => match s.recAt q with
      | some r => if o < r.bytes.length then r.bytes.getD o 0 else s.memByte a
      | none => s.memByte a
    | .length q o => match s.recAt q with
      | some r => (le 2 r.bytes.length).getD o 0
      | none => s.memByte a
    | .hold q o => let b := s.heldBytes q; if o < b.length then b.getD o 0 else s.memByte a
    | .index k o => (le 4 (getT 0 s.dir.slots k).toNat).getD o 0
    | .entry i o => (s.entry i).bytes.getD o 0
    | .plain => s.memByte a
  | _ => s.memByte a

/-- A byte written at a system address: the diagnostic block ignores it, tables take it, an OFF instance keeps nothing
(R84, R389, R394, R396). -/
def State.sysWrite (s : State) (a : Nat) (b : U8) : State :=
  match s.place a with
  | .unmapped => s
  | .diag => s
  | .coxSram => s.memWrite a [b]
  | .inst n => if (s.inst n).power == 0 then s else s.memWrite a [b]
  | .dram =>
    match dramPart s.dir.dramMib s.capacity (a - 0x80000000) with
    | .queue q o => match s.recAt q with
      | some r =>
        if o < r.bytes.length then
          s.onDlv fun d => { d with queue := d.queue.map fun x => if x.seq == r.seq then { x with bytes := setAt b x.bytes o } else x }
        else s.memWrite a [b]
      | none => s.memWrite a [b]
    | .length q o => match s.recAt q with
      | some r =>
        let n := ofLe (setAt b (le 2 r.bytes.length) o)
        let fit (l : Bytes) : Bytes := l.take n ++ List.replicate (n - l.length) 0
        s.onDlv fun d => { d with queue := d.queue.map fun x => if x.seq == r.seq then { x with bytes := fit x.bytes } else x }
      | none => s.memWrite a [b]
    | .hold _ _ => s.memWrite a [b]
    | .index k o => s.onDir fun d => { d with slots := putT d.slots k (BitVec.ofNat 32 (ofLe (setAt b (le 4 (getT 0 d.slots k).toNat) o))) }
    | .entry i o => s.onEntry i fun e => DirEntry.ofBytes (setAt b e.bytes o)
    | .plain => s.memWrite a [b]

/-- Reserved bits of byte `o` of a record in the delivery queue, whose kind stands in bits [15:13] of its source field (R236, R280, R323,
R332). -/
def recReserved (b : Bytes) (o : Nat) : U8 :=
  let at_ (l : List (Nat × U8)) : U8 := ((l.find? fun p => p.1 == o).map (·.2)).getD 0
  match bitsOf (fieldAt 34 2 b) 13 3 with
  | 0 => at_ [(35, 0x1C), (39, 0xE0), (43, 0xFF)]
  | 1 => at_ ([30, 31, 36, 42, 43, 44, 45, 46, 47].map (·, 0xFF) ++ [(38, 0xFC), (39, 0xFF)])
  | 2 => at_ ([23, 30, 31, 36, 39, 40, 41, 42, 43, 44, 45, 46, 47].map (·, 0xFF) ++ [(38, 0xFE)])
  | 3 => at_ ([22, 23, 26, 27, 28, 29, 30, 31, 32, 33, 36, 38, 39, 40, 41, 42, 43, 44, 45, 46, 47].map (·, 0xFF))
  | 4 => at_ ([32, 33, 36].map (·, 0xFF) ++ [(34, 0xE0), (35, 0x1F), (38, 0x80), (39, 0xFF)])
  | 5 => at_ ([32, 33, 39, 44, 45, 46, 47, 64, 65, 66, 67].map (·, 0xFF) ++ [(34, 0xF8), (35, 0x1F), (38, 0xFE)])
  | _ => 0

/-- Reserved bits of byte `o` of a stream block descriptor (R300). -/
def streamDescReserved (o : Nat) : U8 :=
  if o == 32 then 0xE0 else if o == 33 || o == 38 || o == 39 || 56 ≤ o then 0xFF else 0

/-- Reserved bits of a byte of the block and hit descriptors in the shared store (R159, R163, R300). -/
def descReserved (a : Nat) : U8 :=
  let o := a - 0x20000000
  if o < 0x48000 then
    let k := o % 288
    if k < 32 then (match k with | 23 => 0xF0 | 25 => 0xFE | 30 => 0xFF | 31 => 0xFF | _ => 0)
    else (match k % 16 with | 4 => 0xFC | 5 => 0xFC | 15 => 0xFF | _ => 0)
  else if o < 0x48200 then streamDescReserved ((o - 0x48000) % 64)
  else 0

/-- Reserved bits at a system address, to which DIAG_POKE writes nothing (R14). -/
def State.reservedAt (s : State) (a : Nat) : U8 :=
  match s.place a with
  | .inst n => if 320 ≤ n then descReserved a else 0
  | .dram =>
    match dramPart s.dir.dramMib s.capacity (a - 0x80000000) with
    | .queue q o => match s.recAt q with
      | some r => recReserved r.bytes o
      | none => 0
    | _ => 0
  | _ => 0

/-- Consecutive bytes written by DIAG_POKE; their reserved bits stay 0 (R14). -/
def State.sysWrites (s : State) : Nat → Bytes → State
  | _, [] => s
  | a, b :: bs => (s.sysWrite a (b &&& ~~~(s.reservedAt a))).sysWrites (a + 1) bs

/-- Every address of a range is mapped (R389). -/
def State.mapped (s : State) (a n : Nat) : Bool := (List.range n).all fun i => s.place (a + i) != .unmapped

/-- Instances in RETENTION that a Cox access reaches wake (R396). -/
def State.wakeRange (s : State) (a n : Nat) : State :=
  s.each [s.place a, s.place (a + n - 1)] fun s p => match p with | .inst i => s.wakeInst i | _ => s

/-- DIAG_PEEK (R46, R389, R472). -/
def execDiagPeek (h : Hdr) (addr : U32) (length : U16) (s : State) : Out :=
  let n := length.toNat
  .next (s.host h 0x00F0
    (fun s => { op := 0x00F0, form := h.len == 6
                range := 1 ≤ n && n ≤ 4088 && 8 + n ≤ payloadLimit h.src && s.mapped addr.toNat n
                state := if s.scopeOpen 1 then none else some .locked })
    (fun s =>
      let s1 := s.wakeRange addr.toNat n
      s1.answer h 0x00F0 .ok (le 4 addr.toNat ++ le 2 n ++ le 2 0 ++ (List.range n).map fun i => s1.sysByte (addr.toNat + i))))

/-- DIAG_POKE (R46, R84, R389, R472). -/
def execDiagPoke (h : Hdr) (addr : U32) (length reserved : U16) (data : Bytes) (s : State) : Out :=
  let n := length.toNat
  .next (s.host h 0x00F1
    (fun s => { op := 0x00F1, form := h.len == 8 + n && data.length == n && reserved == 0
                range := n ≤ 4088 && s.mapped addr.toNat n
                state := if s.scopeOpen 1 then none else some .locked })
    (fun s => ((s.wakeRange addr.toNat n).sysWrites addr.toNat data).answer h 0x00F1 .ok []))

end Sys2Proof.Machine
end

