-- ==== Sys2Proof/Machine/ScullOps.lean ====
section
/-! DEFINITION. Issue of one scull instruction: the checks of decode, the latencies of the pipeline, delay slots, repeats and
loops, and interrupt and fault entry (R342 to R352, R363 to R365, R371). -/

namespace Sys2Proof.Machine

/-! ### What an instruction does -/

/-- Where issue goes after an instruction. -/
inductive Seq where
  | next
  /-- a branch with two delay slots; `none` where it is not taken (R344) -/
  | branch (target : Option U32) (reti : Bool)
  | rpt (n : Nat)
  | loop (n k : Nat)
  | halt
  | idle
  deriving DecidableEq, Repr

/-- Where R365 allows an instruction to stand. -/
inductive Stand where
  | flow | loop | rpt | stop | plain
  deriving DecidableEq, Repr

/-- A data access: scull-view address, bytes, write. -/
structure Access where
  addr  : Nat
  n     : Nat
  write : Bool
  deriving DecidableEq, Repr

/-- What an instruction does, computed from the registers as they stand when it is issued. -/
structure Eff where
  /-- X slot, then Y slot (R339) -/
  data   : List Access := []
  /-- a read of the coefficient operand (R341) -/
  cRead  : Bool := false
  /-- post-modifies made in D -/
  post   : List (BitVec 3 × Int) := []
  /-- DMA register read -/
  dma    : Option Nat := none
  /-- results written in E -/
  put    : Scull → Scull := id
  /-- register transfers written in E: code and value -/
  moves  : List (Nat × U32) := []
  load   : Option Flight := none
  store  : Option StoreFl := none
  seq    : Seq := .next

/-! ### Completion of loads and stores (R343, R345) -/

/-- A load reaches its register (R343, R381). -/
def State.landFlight (s : State) (c : Nat) (f : Flight) : State :=
  if !f.wide then s.writeReg c f.code.toNat (f.value.extractLsb' 0 32)
  else
    let v : BitVec 40 := f.value.extractLsb' 0 40
    match f.code.toNat with
    | 0x34 => s.onScull c fun x => { x with q2 := v }
    | 0x37 => s.onScull c fun x => { x with q3 := v }
    | k => s.onScull c fun x => { x with a := setAt v x.a (k - 0x28) }

/-- A store reaches memory or a DMA register (R343, R400). -/
def State.landStore (s : State) (c : Nat) (w : StoreFl) : State :=
  if w.addr < 0x100000 then s.dmaPut c (w.addr - 0x30000) (BitVec.ofNat 32 (ofLe w.bytes))
  else s.memWrite w.addr w.bytes

/-- Every instruction past decode completes (R351, R371). -/
def State.drain (s : State) (c : Nat) : State :=
  let x := s.scull c
  let s1 := s.onScull c fun y => { y with flights := [], stores := [], agOld := [] }
  let s2 := (s1.each x.flights fun s f => s.landFlight c f).each x.stores fun s w => s.landStore c w
  s2.onScull c fun y => { y with srPrev := y.sr, ieSeen := y.sr.getLsbD srIE }

/-! ### Entry (R350 to R352) -/

/-- Cycles counted in CYC, which stops at its maximum (R336). -/
def Scull.tick (x : Scull) (n : Nat) : Scull := { x with cyc := BitVec.ofNat 32 (satTo 0xFFFFFFFF (x.cyc.toNat + n)) }

/-- The interrupt causes that are pending and enabled (R349). -/
def Scull.causes (x : Scull) : U8 := x.ipr &&& x.imr &&& imrMask

/-- A maskable interrupt is accepted at this boundary (R350). -/
def Scull.accepts (x : Scull) : Bool := x.ieSeen && x.causes != 0 && x.branch.isNone && x.rpt.isNone

/-- The cause taken first: the highest-numbered (R350). -/
def topCause (w : U8) : Nat := if w.getLsbD 5 then 5 else if w.getLsbD 4 then 4 else if w.getLsbD 3 then 3 else if w.getLsbD 2 then 2 else 1

/-- The address that an entry with a cause goes to (R351, R343). -/
def Scull.vector (x : Scull) (cause : Nat) : U32 := (x.early 0x47 &&& ~~~0x1FF#32) + BitVec.ofNat 32 (64 * cause)

/-- Entry with a cause: what is past decode completes, SR goes to ISS, IE is cleared, and the address of the first instruction
not completed goes to IPC (R351). -/
def State.enter (s : State) (c cause : Nat) : State :=
  let v := (s.scull c).vector cause
  (s.drain c).onScull c fun x =>
    let y := x.tick 5
    { y with iss := x.sr, sr := putBit x.sr srIE false, ieSeen := false, ipc := x.pc, pc := v, branch := none, rpt := none, idle := false
             ipr := if cause == 0 then x.ipr else x.ipr &&& ~~~(1#8 <<< cause) }

/-- A pending maskable interrupt is taken (R350, R351). -/
def State.interrupt (s : State) (c : Nat) : State := s.enter c (topCause (s.scull c).causes)

/-- CAUSE and FADDR of a trap (R352, R363). -/
def Scull.record (x : Scull) : Trap → Scull
  | .illegal => { x with fsr := 0x8001#16, faddr := x.pc }
  | .memOff a => { x with fsr := 0x8002#16, faddr := BitVec.ofNat 32 a }
  | .memMap a => { x with fsr := 0x8003#16, faddr := BitVec.ofNat 32 a }

/-- A fault is taken, or halts the scull where ACTIVE is set (R352, R408). -/
def State.trap (s : State) (c : Nat) (t : Trap) : State :=
  let s0 := match t with | .memOff _ => s.countMem 3 | _ => s
  if (s.scull c).fsr.getLsbD 15 then
    (s0.drain c).onScull c fun x => { x with halted := true, dead := true, run := false, branch := none, rpt := none }
  else (s0.onScull c fun x => x.record t).enter c 0

/-! ### Position (R344, R346, R347, R365) -/

/-- The address lies in the body of the running loop. -/
def Scull.inLoop (x : Scull) (a : U32) : Bool := x.lk != 0 && x.loopAt.toNat ≤ a.toNat && a.toNat < x.loopAt.toNat + 4 * x.loopK

/-- The instruction may not stand where it is reached (R365). -/
def Scull.misplaced (x : Scull) (k : Stand) (usesC : Bool) : Bool :=
  let slot := x.branch.isSome
  let rep := x.rpt.isSome
  match k with
  | .flow => rep || slot || x.inLoop x.pc
  | .loop => rep || slot || x.lk != 0
  | .rpt => rep || slot || (x.inLoop x.pc && !x.inLoop (x.pc + 4))
  | .stop => rep || slot
  | .plain => slot && usesC

/-! ### Sequencing (R344, R346, R347, R351) -/

/-- The address after the instruction at `a`, with the return of a loop (R347). -/
def Scull.past (x : Scull) (a : U32) : Scull :=
  if x.lk != 0 && a + 4 == x.loopAt + BitVec.ofNat 32 (4 * x.loopK) then
    { x with lk := x.lk - 1, pc := if x.lk == 1 then a + 4 else x.loopAt }
  else { x with pc := a + 4 }

/-- SR restored at the end of the second delay slot of RETI (R351). -/
def Scull.restoreSr (x : Scull) : Scull :=
  let v := x.iss &&& srMask
  { x with sr := v, srPrev := v, ieSeen := v.getLsbD srIE }

/-- Issue moves on from the present instruction. -/
def Scull.advance (x : Scull) : Scull :=
  match x.rpt with
  | some _ =>
    if x.lc.toNat ≤ 1 then
      let y : Scull := { x with lc := 0, rpt := none }
      y.past x.pc
    else { x with lc := x.lc - 1 }
  | none =>
    match x.branch with
    | none => x.past x.pc
    | some b =>
      if 2 ≤ b.slots then { x with pc := x.pc + 4, branch := some { b with slots := b.slots - 1 } }
      else
        let y : Scull := { x with pc := b.target.getD (x.pc + 4), branch := none }
        if b.reti then y.restoreSr else y

/-- PC as an instruction reads it in E: the address of the instruction then in decode (R336, R342). -/
def Scull.pcRead (x : Scull) : U32 := x.advance.advance.pc

/-- Issue after an instruction. -/
def Scull.sequence (x : Scull) : Seq → Scull
  | .next => x.advance
  | .branch t reti => { x with pc := x.pc + 4, branch := some { slots := 2, target := t, reti := reti } }
  | .rpt n =>
    let y : Scull := { x with lc := BitVec.ofNat 16 n }
    if n == 0 then y.past (x.pc + 4) else { y with pc := x.pc + 4, rpt := some (x.pc + 4) }
  | .loop n k =>
    if n == 0 then { x with pc := x.pc + BitVec.ofNat 32 (4 + 4 * k) }
    else { x with lk := BitVec.ofNat 16 n, loopAt := x.pc + 4, loopK := k, pc := x.pc + 4 }
  | .halt =>
    let y := x.advance
    { y with halted := true, run := false }
  | .idle =>
    let y := x.advance
    { y with idle := y.causes == 0 }

/-! ### One instruction -/

/-- The array is clocked and the scull issues; a scull that PADDLE has gated does not until work is placed on it (R371, R431 to R433). -/
def State.scullRuns (s : State) (c : Nat) : Bool :=
  let x := s.scull c
  let clocked := match s.pwr.st with | .row => true | .paddle => s.scullBusy c || getT 0 s.pwr.idleStk c < 8 | .easy => c < 8 | _ => false
  !s.boot.held && !s.clk.stopped && clocked && !x.halted && !x.idle

/-- The trap of an instruction fetch (R390, R396). -/
def State.fetchTrap (s : State) (c : Nat) (pc : U32) : Option Trap :=
  if 0x8000 ≤ pc.toNat then some (.memMap pc.toNat) else if (s.inst (3 * c)).power == 0 then some (.memOff pc.toNat) else none

/-- The trap of a data access (R390, R396, R400). -/
def State.dataTrap (s : State) (c : Nat) (a : Access) : Option Trap :=
  if isDma a.addr && a.n == 4 && a.addr % 4 == 0 then none else s.accessTrap c a.addr a.n a.write

/-- The trap of a coefficient read (R341). -/
def Scull.cTrap (x : Scull) : Option Trap := if 0x8000 < (x.ptr 7).toNat + 2 then some (.memMap (x.ptr 7).toNat) else none

/-- The first trap among an instruction's accesses: X slot, Y slot, coefficient (R363). -/
def State.effTrap (s : State) (c : Nat) (e : Eff) : Option Trap :=
  match e.data.findSome? fun a => s.dataTrap c a with
  | some t => some t
  | none => if e.cRead then (s.scull c).cTrap else none

/-- Cycles per reference cycle of the sculls (R134). -/
def State.coreRatio (s : State) : Nat := if s.synIs 0 .locked then (s.synth 0).n else 1

/-- The instances that an instruction's accesses reach. -/
def State.touched (s : State) (c : Nat) (e : Eff) : List Nat :=
  (e.data.flatMap fun a => [s.instAt c a.addr a.write, s.instAt c (a.addr + a.n - 1) a.write]).filterMap id

/-- Two slots reach one instance (R339). -/
def State.collide (s : State) (c : Nat) (e : Eff) : Nat :=
  match e.data with
  | [a, b] => b2n (s.instAt c a.addr a.write == s.instAt c b.addr b.write)
  | _ => 0

/-- An instance in RETENTION wakes for an access and holds the pipeline (R345, R396). -/
def State.wakeFor (s : State) (c n : Nat) : State :=
  if (s.inst n).power == 1 then
    ((s.wakeInst n).onScull c fun x => x.tick (Config.wakeStall s.fresh % (s.coreRatio * 576 / 10 + 1))).draw
  else s

/-- An instruction that passed its checks is carried out: decode, the results that become due, execute, and the move to the
next instruction (R342, R343, R364, R368). -/
def State.perform (s : State) (c : Nat) (e : Eff) : State :=
  let x0 := s.scull c
  let s0 := s.each ((3 * c) :: s.touched c e) fun s n => s.wakeFor c n
  let cycles := 1 + (e.data.foldl (fun n a => n + crosses a.addr a.n) 0) + s.collide c e
    + (if e.cRead then crosses (x0.ptr 7).toNat 2 + b2n x0.rpt.isNone else 0)
  let s1 := s0.onScull c fun x =>
    let y := (e.post.foldl (fun (z : Scull) p => z.postModify p.1 p.2) x).tick cycles
    { y with agOld := (y.agOld.map fun o => (o.1, o.2.1, o.2.2 - 1)).filter fun o => o.2.2 != 0
             flights := (x.flights.filter fun f => 2 ≤ f.left).map fun f => { f with left := f.left - 1 }
             stores := (x.stores.filter fun w => 2 ≤ w.left).map fun w => { w with left := w.left - 1 } }
  let landing := x0.flights.filter fun f => f.left ≤ 1
  let s2 := s1.each landing fun s f => s.landFlight c f
  let seen := if landing.any fun f => f.code == 0x40 then (s2.scull c).sr else x0.sr
  let s3 := s2.each (x0.stores.filter fun w => w.left ≤ 1) fun s w => s.landStore c w
  let s4 := s3.onScull c e.put
  let s5 := s4.each e.moves fun s m => (s.onScull c fun x => x.keepOld m.1).writeReg c m.1 m.2
  let s6 := s5.onScull c fun x =>
    let y := match e.dma with | some o => (x.dmaRead o).2 | none => x
    let z := match e.load with | some f => let k := y.keepOld f.code.toNat; { k with flights := k.flights ++ [f] } | none => y
    let w : Scull := match e.store with | some t => { z with stores := z.stores ++ [t] } | none => z
    let v : Scull := { w with srPrev := seen, ieSeen := seen.getLsbD srIE }
    v.sequence e.seq
  match e.seq with
  | .halt => s6.drain c
  | .idle => s6.drain c
  | _ => s6

/-- One instruction of scull `c`: nothing where the scull does not issue, the entry where an interrupt is accepted first, the
fault where a check fails, else its effect (R350, R352, R363). -/
def State.issue (s : State) (c : Nat) (k : Stand) (bad usesC : Bool) (f : Scull → Eff) : Out :=
  let x := s.scull c
  if !s.scullRuns c then .next s
  else if x.accepts then .next (s.interrupt c)
  else
    match s.fetchTrap c x.pc with
    | some t => .next (s.trap c t)
    | none =>
      if bad || x.misplaced k usesC then .next (s.trap c .illegal)
      else
        match s.effTrap c (f x) with
        | some t => .next (s.trap c t)
        | none => .next (s.perform c (f x))

end Sys2Proof.Machine
end

