-- ==== Sys2Proof/Machine/ScullPort.lean ====
section
/-! DEFINITION. Interface events of the sculls, their DMA channels, and writes of registers without a row of their own
(R13, R50, R81, R349 to R351, R357 to R360, R371, R400 to R402). -/

namespace Sys2Proof.Machine

/-! ### Stroke interface (R357 to R359) -/

/-- STK_DONE_WRITE (R359). -/
def execStkDoneWrite (c : Fin 64) (v : U32) (s : State) : Out := .next (s.doneWrite c v)

/-- STK_STAT_READ: the read clears MISSED_CNT (R357). -/
def execStkStatRead (c : Fin 64) (s : State) : Out := .next (s.onScull c fun x => { x.afterRead 0x53 with readBus := x.stkStat })

/-- STK_LO_READ: the read latches STROKE_HI (R357). -/
def execStkLoRead (c : Fin 64) (s : State) : Out := .next (s.onScull c fun x => { x.afterRead 0x50 with readBus := x.stkLo })

/-! ### Interrupts (R350, R351, R371) -/

/-- INTERRUPT_ENTRY: taken where an interrupt is accepted at the boundary (R350, R351). -/
def execInterruptEntry (c : Fin 64) (s : State) : Out :=
  .next (if s.scullRuns c && (s.scull c).accepts then s.interrupt c else s)

/-- IDLE_RESUME after a wait in core cycles: entry where IE is set, else issue goes on after IDLE (R371). -/
def execIdleResume (c : Fin 64) (waited : Nat) (s : State) : Out :=
  let x := s.scull c
  if !x.idle || x.causes == 0 then .next s
  else
    let s1 := s.onScull c fun y => { y.tick waited with idle := false }
    .next (if x.sr.getLsbD srIE then s1.interrupt c else s1)

/-! ### DMA (R391, R400 to R402) -/

/-- DMA_GO: a write of DMA_CTRL (R401). -/
def execDmaGo (c : Fin 64) (v : U32) (s : State) : Out := .next (s.dmaPut c 12 v)

/-- DMA_STAT_READ: the read clears DONE_CNT (R401). -/
def execDmaStatRead (c : Fin 64) (s : State) : Out := .next (s.onScull c fun x => { (x.dmaRead 16).2 with readBus := (x.dmaRead 16).1 })

/-- A system address is within the rights of a scull's DMA channel (R391). -/
def State.dmaMay (s : State) (c a : Nat) (write : Bool) : Bool :=
  let w := c / 8
  match s.place a with
  | .unmapped => false
  | .coxSram => false
  | .diag => false
  | .inst n =>
    if !s.customerCrew w then true
    else if n < 192 then n / 24 == w
    else if n < 320 then (n - 192) / 16 == w && !(write && n % 16 == 15)
    else customerWindow w a || (!write && readOnlyWindow a)
  | .dram =>
    let o := a - 0x80000000
    !s.customerCrew w || (if w == 6 then 0x1D400000 ≤ o && o < 0x1D800000 else 0x1D800000 ≤ o && o < 0x1DC00000)

/-- The address lies in an instance that is OFF (R396). -/
def State.isOff (s : State) (a : Nat) : Bool := match s.place a with | .inst n => (s.inst n).power == 0 | _ => false

/-- A forward copy in ascending address order; it stops at an OFF instance, and wakes one in RETENTION (R396, R402). -/
def State.copyBytes (s : State) (src dst : Nat) : (n : Nat) → State × Bool
  | 0 => (s, true)
  | n + 1 =>
    if s.isOff src || s.isOff dst then (s, false)
    else ((s.wakeRange src 1).wakeRange dst 1 |>.sysWrite dst (s.sysByte src)).copyBytes (src + 1) (dst + 1) n

/-- A descriptor leaves the queue with its completion event (R402). -/
def Scull.descDone (x : Scull) (err : Bool) : Scull :=
  let n := if x.doneCnt == 0xFFFF#16 then x.doneCnt else x.doneCnt + 1
  let y : Scull := { x with dmaQ := x.dmaQ.tail, doneCnt := n, ipr := x.ipr ||| 0x10#8, dmaErr := x.dmaErr || err, starved := false }
  y.runEmpty 5

/-- A descriptor reads or writes the DRAM (R389). -/
def Desc.inDram (d : Desc) : Bool := d.len != 0 && (0x80000000 ≤ d.src.toNat || 0x80000000 ≤ d.dst.toNat)

/-- DMA_DONE: the running descriptor is checked against the rights, copied, and completes or ends with ERR (R402). A copy from or to the
DRAM does not end while its accesses stall (R137). -/
def execDmaDone (c : Fin 64) (s : State) : Out :=
  match (s.scull c).dmaQ with
  | [] => .next s
  | d :: _ =>
    let may := (List.range d.len).all fun i => s.dmaMay c (d.src.toNat + i) false && s.dmaMay c (d.dst.toNat + i) true
    let r := if may then s.copyBytes d.src.toNat d.dst.toNat d.len else (s, false)
    let s1 := if r.2 then r.1 else r.1.countMem 1
    if s.mem.refresh && d.inDram then .next s else .next (s1.onScull c fun x => { x.descDone (!r.2) with dmaAt := s.dtime })

/-- A DMA request of the channel may be waiting: a scull channel with a descriptor, a stream group that runs, a spill copy, or
the Cox (R402). -/
def State.requests (s : State) (ch : Nat) : Bool :=
  if ch < 64 then !(s.scull ch).dmaQ.isEmpty && !(s.scull ch).starved
  else !s.mem.starved.contains ch
    && (if ch < 68 then !s.groupIs (ch - 64) .stopped else if ch == 68 then s.rx.awaiting != 0 else true)

/-- DTIME since which the request of a channel waits: since its descriptor came to the head, or since the last grant (R402). -/
def State.waitsSince (s : State) (ch : Nat) : Nat := if ch < 64 then (s.scull ch).dmaAt else getT 0 s.mem.granted ch

/-- DTIME at which 100,000 core cycles of waiting are over (R402). -/
def State.starvesAt (s : State) (ch : Nat) : Nat := s.waitsSince ch + ceilDiv 100000 s.coreRatio

/-- DMA_STARVED: 100,000 core cycles after the request began to wait, once per starvation, STARVED is set and the event raised (R36, R63, R402). -/
def execDmaStarved (channel : Fin 70) (s0 : State) : Out :=
  let ch := channel.toNat
  if !s0.requests ch then .next s0
  else
    let s := s0.at (s0.starvesAt ch)
    let s1 := if ch < 64 then s.onScull ch fun x => { x with starved := true } else s.onMem fun m => { m with starved := m.starved ++ [ch] }
    .next (((s1.countMem 0).fallLine "DMA").raise 0x800D 7 ch (le 4 100000))

/-- The requests of device channels are granted: their starvation ends (R402). -/
def State.grantChannels (s : State) (p : Nat → Bool) : State :=
  s.onMem fun m => { m with starved := m.starved.filter fun c => !p c
                            granted := ((List.range 6).map (64 + ·)).foldl (fun t c => if p c then putT t c s.dtime else t) m.granted }

/-! ### Registers without a row of their own (R13) -/

/-- A write of an SPI mailbox register (R50, R52). -/
def State.spiWrite (s : State) (addr : Nat) (v : U16) : State :=
  match addr with
  | 4 => (s.onLinks fun l => { l with irq := l.irq &&& ~~~v }).refreshIrq
  | 6 => (s.onLinks fun l => { l with irqEn := v &&& 0xF#16 }).refreshIrq
  | _ => s

/-- Units of a kind that have a state word (R83). -/
def unitCount : Nat → Nat
  | 1 => 5 | 2 => 512 | 3 => 8 | 4 => 5 | 5 => 6 | _ => 0

/-- REGISTER_WRITE: the value is stored under the register's access type (R13). -/
def execRegisterWrite (r : RegRef) (v : U32) (s : State) : Out :=
  match r with
  | .spi addr => .next (s.spiWrite addr.toNat (v.extractLsb' 0 16))
  | .dma c off => .next (s.dmaPut c off.toNat v)
  | .scull c code => .next ((s.onScull c fun x => x.keepOld code.toNat).writeReg c code.toNat v)
  | .bump kind idx =>
    if v.getLsbD 7 && idx < unitCount kind then
      match s.wordOf kind idx with
      | some w => .next (s.setWord kind idx (w.bump s.dtime))
      | none => .next s
    else .next s

end Sys2Proof.Machine
end

