-- ==== Sys2Proof/Machine/Catch.lean ====
section
/-! DEFINITION. The catch of a stroke: blocks are posted, contexts classified, changes applied, sculls signalled (R9, R20 to R29,
R75, R94, R123, R156 to R163, R208, R358, R418, R432, R436, R468). -/

namespace Sys2Proof.Machine

/-! ### Buffers of the sample pool (R160, R392) -/

/-- Shared-store instance of buffer `b`: that of its first byte (R392). -/
def bufferInst (b : Nat) : Nat := (bufferAt b - 0x20000000) / 0x40000

/-- The first buffer whose first byte lies in instance `k`, of 2 to 42. -/
def firstBuffer (k : Nat) : Nat := ceilDiv ((k - 2) * 0x40000) 2400

/-- The lowest free buffer of an instance (R392). -/
def State.freeBuffer (s : State) (k : Nat) : Option Nat :=
  ((List.range (firstBuffer (k + 1) - firstBuffer k)).map (firstBuffer k + ·)).find? fun b =>
    b < 4369 && !s.rx.buffers.any fun e => e.1 == b

/-- The next instance after one, and the buffer taken there; instances with no free buffer are skipped (R392). -/
def State.nextBuffer (s : State) : (fuel k : Nat) → Option (Nat × Nat)
  | 0, _ => none
  | f + 1, k =>
    let k1 := if k < 41 then k + 1 else 2
    match s.freeBuffer k1 with
    | some b => some (k1, b)
    | none => s.nextBuffer f k1

/-- A lane takes a buffer for the stroke that opens (R160). -/
def State.takeBuffer (s : State) (lane : Nat) : State :=
  match s.nextBuffer 40 s.rx.lastInst with
  | some (k, b) => s.onRx fun r => { r with lastInst := k, buffers := r.buffers ++ [(b, lane, s.stroke)] }
  | none => s

/-- A context refers to the lane buffer of the block of a stroke: it has not finished it, it keeps it as tail, or its copy is not done
(R160, R206, R208). -/
def Ctx.refers (c : Ctx) (lane stroke : Nat) : Bool :=
  c.lane == lane && (c.blocks ++ (c.kept.filter (·.await)) ++ c.tail.filter fun h => h.spill.isNone).any fun h => h.blk.stroke == stroke

/-- Lanes that a running crew's package subscribes to, and its stream groups (R465). -/
def State.crewLanes (s : State) (c : Nat) : List Nat :=
  if !s.crewIs c .customerRunning then []
  else let b := (s.package c).getD []; (List.range (fieldAt 49 1 b)).map fun k => fieldAt (52 + 2 * k) 2 b
def State.crewGroups (s : State) (c : Nat) : List Nat :=
  if !s.crewIs c .customerRunning then []
  else let b := (s.package c).getD []; (List.range 4).filter (bitOf (fieldAt 48 1 b))

/-- A block is listed to a customer crew that still owes its stroke (R468). -/
def State.crewHolds (s : State) (lane stroke : Nat) : Bool := [6, 7].any fun c => (s.crew c).owes ≤ stroke && (s.crewLanes c).contains lane

/-- Buffers whose ring slot is reused and to which nothing refers return to the pool (R160, R206, R468). -/
def State.returnBuffers (s : State) : State :=
  let ring (e : Nat × Nat × Nat) : Bool := s.stroke ≤ e.2.2 + 1
  let ctx (e : Nat × Nat × Nat) : Bool := s.rx.ctxs.any fun x => x.2.refers e.2.1 e.2.2
  let crew (e : Nat × Nat × Nat) : Bool := s.crewHolds e.2.1 e.2.2
  s.onRx fun r => { r with buffers := r.buffers.filter fun e => ring e || ctx e || crew e
                           listed := (r.buffers.filter fun e => !ring e && crew e).length }

/-! ### Lane blocks (R22, R158, R159, R163) -/

/-- A gain path changed its step within stroke `n` (R95, R159). -/
def State.gainMoved (s : State) (path n : Nat) : Bool := (s.gain path).log.any fun e => e.1 / strokeLen == n

/-- The flags of a block: BLANKED and PART_BLANK by the samples blanked, a saturation, SCALE, CFG and SETTLE as gathered, gain changes
from the log (R159). -/
def State.blockFlags (s : State) (i n : Nat) : U16 :=
  let l := s.lane i
  let pair := lanePair s.cfg.active i
  let bit (k : Nat) (c : Bool) : Nat := if c then 2 ^ k else 0
  l.flags ||| BitVec.ofNat 16 (bit 0 (l.blanks != 0 && l.blanks == l.made) + bit 1 (l.blanks != 0 && l.blanks != l.made)
    + bit 4 (s.gainMoved (2 * pair) n) + bit 5 (s.gainMoved (2 * pair + 1) n))

/-- Gain steps of a path over stroke `n`, each with the DTIME from which it held (R93, R95). -/
def State.gainSteps (s : State) (path n : Nat) : List (Nat × Nat) :=
  let l := ((s.gain path).log.filter fun e => e.1 / strokeLen == n).reverse
  (n * strokeLen, match l.head? with | some e => e.2.1 | none => (s.gain path).g) :: l.map fun e => (e.1, e.2.2)

/-- A lane posts the block of the stroke that has ended: its samples lie in its buffer, and its descriptor reaches the shared store
(R22, R158, R159). A segment of R201 begins at each gain change and where `cut` says so. -/
def State.postLane (s : State) (i : Nat) : State :=
  let n := s.stroke - 1
  match s.bufferOf i n with
  | none => s
  | some buf =>
    let set := s.cfg.active
    let l := s.lane i
    let p := laneP set i
    let pair := lanePair set i
    let ga := s.gainSteps (2 * pair) n
    let gb := s.gainSteps (2 * pair + 1) n
    let b : Block :=
      { stroke := n, jFirst := blockFirst p n, buffer := buf, count := blockCount p n, gen := l.w.gen, k := laneK set i, bankB := laneBankB set i
        flags := s.blockFlags i n, shifts := BitVec.ofNat 16 (laneShifts set i), hits := l.hits, lost := l.lost
        cuts := (if l.cut then [n * strokeLen] else []) ++ ((ga.drop 1) ++ gb.drop 1).map (·.1), gainA := ga, gainB := gb }
    (s.setLane i { l with last := some b, hits := [], lost := 0, flags := 0, cut := false, made := 0, blanks := 0 }).memWrite
      (0x20000000 + 576 * i + 288 * (n % 2)) b.bytes

/-- A context whose telegram can be swept keeps the blocks after it: until its stream is judged, and while it is swept (R197, R206). -/
def State.keepsTail (s : State) (c : Ctx) : Bool :=
  c.sweep.isSome || (c.st == .offering && !c.passed && !c.unretained && profMode s.cfg.active c.profile != 0 && !laneWatchOff s.cfg.active c.lane)

/-- A posted block reaches a context of its lane: as tail after its telegram; retained without credit while it re-runs, and at the first
catch with no retained block left within its credits again; else within its three credits (R22, R31, R202, R206). A re-run whose block
cannot be retained fails (log 142). -/
def State.feedCtx (s : State) (h : Held) (e : Nat × Ctx) : State :=
  let c := e.2
  if s.keepsTail c then (s.onCtx e.1 fun c => { c with tail := c.tail ++ [h] }).issueCtx e.1
  else if c.st != .gambit && c.st != .confirmed then s
  else if c.rerunDue then
    let s1 := s.retain e.1 h
    if (s1.ctx e.1).unretained then s1.afterFail e.1
    else (s1.onCtx e.1 fun c => { c with rerun := c.rerun.map fun p => { p with total := p.total + h.blk.count } }).issueCtx e.1
  else if c.blocks.length < 3 then (s.onCtx e.1 fun c => { c with rerun := none, blocks := c.blocks ++ [h] }).issueCtx e.1
  else s

/-- The block of a lane reaches its contexts. -/
def State.feedLane (s : State) (i : Nat) : State :=
  if (s.bufferOf i (s.stroke - 1)).isNone then s
  else s.each (s.lastHeld i) fun s h => s.each (s.laneCtxs i) fun s e => if (findT s.rx.ctxs e.1).isSome then s.feedCtx h (e.1, s.ctx e.1) else s

/-- A lane whose new entry keeps the hits of the old block from opening gambits (R157). -/
def hitsRefused (old new : List Host.Cell) (i : Nat) : Bool :=
  laneRetuned old new i || laneProf old i != laneProf new i || (laneEn old i && !laneEn new i)

/-- The block that a lane has just posted. -/
def State.justPosted (s : State) (i : Nat) : Option Block := (s.lane i).last.filter fun b => b.stroke + 1 == s.stroke

/-- A hit with its peak's DTIME and its lane takes its place: earlier peaks first, ties to the lower lane (R167). -/
def insertHit (x : Nat × Nat × Hit) : List (Nat × Nat × Hit) → List (Nat × Nat × Hit)
  | [] => [x]
  | y :: l => if x.1 < y.1 || (x.1 == y.1 && x.2.1 < y.2.1) then x :: y :: l else y :: insertHit x l

/-- The hits of the blocks just posted on some lanes, in the order of R167. -/
def State.sortedHits (s : State) (lanes : List Nat) : List (Nat × Nat × Hit) :=
  let all := (lanes.map fun i => match s.justPosted i with
    | some b => b.hits.map fun h => (s.peakTime i h, i, h)
    | none => []).flatten
  all.foldl (fun l x => insertHit x l) []

/-- The hits of the blocks just posted open contexts or are refused (R157, R163, R167). -/
def State.handleHits (s : State) (lanes : List Nat) : State :=
  let lost := (lanes.map fun i => match s.justPosted i with | some b => b.lost | none => 0).sum
  (s.each (s.sortedHits lanes) fun s x => s.takeHit x.2.1 (s.stroke - 1) x.2.2 (hitsRefused s.cfg.active s.nextSet x.2.1) none).onCnt
    fun c => { c with gambitRefused := c.gambitRefused + BitVec.ofNat 32 lost }

/-- Contexts are classified behind or not (R23). -/
def State.classify (s : State) : State :=
  s.each (s.rx.ctxs.map (·.1)) fun s i =>
    let late := (s.ctx i).oldest.any fun n => decide (n + 2 ≤ s.stroke) && decide (s.stroke ≤ n + 3)
    (s.onCtx i fun c => { c with behind := late }).onCnt fun c => { c with behind := if late then c.behind + 1 else c.behind }

/-- Retained blocks older than 4,096 strokes are released; what needs them is not started (R207). -/
def State.dropOld (s : State) : State :=
  s.each ((s.rx.ctxs.filter fun e => e.2.kept.any fun k => decide (k.blk.stroke + 4096 < s.stroke)).map (·.1)) fun s i =>
    (s.dropKept i).onCtx i fun c => { c with unretained := true }

/-- Work is shed by class (R27): sweeps are skipped, leak correlation pauses. -/
def State.shed (s : State) : State :=
  let k := s.shedClass
  let s1 := s.onRx fun r => { r with shedFrom := k }
  let s2 := if k ≤ 6 then s1.each ((s1.rx.ctxs.filter fun e => e.2.sweep.isSome).map (·.1)) fun s i =>
      if (findT s.rx.ctxs i).isSome then s.closeSweep i true else s
    else s1
  s2.onLeak fun l => { l with paused := decide (k ≤ 7) && l.run.isSome }

/-- Work orders of the stroke just posted are issued: those that waited for a credit, then the new ones (R22, R27, R31). -/
def State.issueWork (s : State) (l : List WorkIn) : State :=
  s.issueAll.each l fun s w => s.issueOrder { scull := w.scull.val, cls := w.cls, cycles := w.cycles, unit := w.unit, stroke := s.stroke - 1 }

/-- A settling that has ended by this catch (R156). -/
def State.settleLane (s : State) (i : Nat) : State :=
  let l := s.lane i
  if l.settle != 0 && l.settle ≤ s.dtime then (s.setLane i l.settled).onLane i fun x => { x with flags := l.flags } else s

/-- A lane opens its block: it takes a buffer (R160). -/
def State.openBlock (s : State) (i : Nat) : State := (s.takeBuffer i).onLane i fun l => { l with made := 0, blanks := 0 }

/-! ### Clocks, gains and temperature (R94, R95, R122, R123) -/

/-- RATIO over the captures held, nominal where it lies more than 500 ppm off (R123). The rule does not say what RATIO is before 1,024
captures have been made: the model takes the nominal value with fewer than two, and the mean over those held after that, which is its
own choice (log 149). -/
def ratioOf (l : List (Nat × Nat)) : Nat × Bool :=
  match l, l.getLast? with
  | (a1, d1) :: _ :: _, some (a0, d0) =>
    let da := (a1 + 2 ^ 48 - a0) % 2 ^ 48
    let r := if da == 0 then 0 else (d1 - d0) * 2 ^ 20 / da
    if distance r 1228800000 * 2000 ≤ 1228800000 then (r, false) else (1228800000, true)
  | _, _ => (1228800000, false)

/-- AONCNT at a catch, which holds its value while edges are missing, captured at each 4,000th (R122, R123). -/
def State.catchAon (s : State) (edges : Nat) : State :=
  s.onClk fun c =>
    let aon := if c.aonLost then c.aon else c.aon + BitVec.ofNat 48 edges
    if s.stroke % 4000 == 0 then
      let l := ((aon.toNat, s.dtime) :: c.captures).take 1024
      { c with aon := aon, captures := l, ratio := (ratioOf l).1, nominal := (ratioOf l).2 }
    else { c with aon := aon }

/-- The gain control of every path at a catch, and the gain logs of 64 strokes (R94, R95). -/
def State.catchGains (s : State) (peaks : List (Nat × Int)) : State :=
  let s1 := s.each (peaks.filter fun p => p.1 < 6) fun s p => s.agcCatch p.1 p.2
  s1.each (s1.gains.map (·.1)) fun s p => s.onGain p fun g => { g with log := g.log.filter fun e => decide (s.dtime < e.1 + 64 * strokeLen) }

/-- The die temperature (R47, R429). -/
def State.catchTemp (s : State) (t : Int) : State := s.onTrim fun r => { r with dieTemp := t, tempMax := max r.tempMax t }

/-! ### Sculls and crews (R357, R358, R468) -/

/-- Entries of a crew's input list: kind, index, descriptor address, buffer address, count (R468). -/
def State.listEntries (s : State) (c : Nat) : List Bytes :=
  let n := s.stroke - 1
  let lane (i : Nat) : List Bytes := match (s.lane i).last with
    | some b => if b.stroke == n && (s.lane i).w.st != 0 then
        [le 1 0 ++ le 1 0 ++ le 2 i ++ le 4 (0x20000000 + 576 * i + 288 * (n % 2)) ++ le 4 (bufferAt b.buffer) ++ le 2 b.count ++ le 2 0] else []
    | none => []
  let group (g : Nat) : List Bytes := match (s.group g).blocks with
    | b :: _ => if b.stroke == n then
        [le 1 1 ++ le 1 0 ++ le 2 g ++ le 4 (0x20048000 + 128 * g + 64 * (n % 2)) ++ le 4 (0x20A80000 + 25600 * (16 * g + b.buffer))
          ++ le 2 b.rows.length ++ le 2 0] else []
    | [] => []
  (((s.crewLanes c).map lane).flatten ++ ((s.crewGroups c).map group).flatten).take 20

/-- Crew-store instance 15 of a crew (R389, R468). -/
def inputList (c : Nat) : Nat := 0x10000000 + 0x100000 * c + 0xF0000

/-- The input list of a running customer crew is written, and STK_INQ set to its address (R358, R468). -/
def State.giveList (s : State) (c : Nat) : State :=
  if !s.crewIs c .customerRunning then s
  else
    let l := s.listEntries c
    (s.memWrite (inputList c) (le 8 (s.stroke - 1) ++ le 2 l.length ++ List.replicate 6 0 ++ l.flatten)).each (List.range 8) fun s i =>
      s.onScull (8 * c + i) fun x => { x with inq := BitVec.ofNat 32 (inputList c) }

/-- The stroke signal reaches a running scull (R357, R358). -/
def Scull.signal (x : Scull) (stroke : Nat) : Scull :=
  if x.halted then x else { x with stroke := stroke, stkLo := BitVec.ofNat 32 stroke, ipr := x.ipr ||| 2, cyc := 0 }

/-- Every running scull is signalled. -/
def State.signalAll (s : State) : State := s.each (s.arr.sculls.map (·.1)) fun s c => s.onScull c fun x => x.signal s.stroke

/-- Sculls and crews at a catch (R26, R352, R357 to R361, R464, R468). -/
def State.catchArray (s : State) : State :=
  let s1 := s.each (s.arr.sculls.map (·.1)) State.deadScull
  let s2 := s1.each [6, 7] State.catchCrew
  ((s2.each [6, 7] State.accountCrew).each [6, 7] State.giveList).signalAll

/-! ### State words (R86) -/

/-- The unit of a place among the 536 state words (R83, R86). -/
def wordPlace (k : Nat) : Nat × Nat :=
  if k < 5 then (1, k) else if k < 11 then (5, k - 5) else if k < 19 then (3, k - 11) else if k < 24 then (4, k - 19) else (2, k - 24)

/-- Units whose state the Cox changed in the last stroke. -/
def State.touchedWords (s : State) : List (Nat × Nat) :=
  let lanes : List (Nat × Nat) := s.rx.lanes.map fun e => (2, e.1)
  ((List.range 24).map wordPlace ++ lanes).filter fun u : Nat × Nat => (s.wordOf u.1 u.2).any fun w => w.touched

/-- The comparisons of a catch: changed units, and nine of the rolling sweep of 64 strokes (R86, R87). -/
def State.catchWords (s : State) : State :=
  let s1 := s.each s.touchedWords fun s u =>
    let t := s.audit u.1 u.2
    match t.wordOf u.1 u.2 with
    | some w => t.setWord u.1 u.2 { w with touched := false }
    | none => t
  s1.each (((List.range 9).map fun k => s.stroke % 64 * 9 + k).filter (· < 536)) fun s k => s.audit (wordPlace k).1 (wordPlace k).2

/-! ### The catch -/

/-- Time reaches the catch of the next stroke (R9, R20). -/
def State.nextStroke (s : State) : State := let n := s.stroke + 1; { s.at (strokeLen * n) with stroke := n }

/-- The samples of the stroke that has ended are complete on every bin, and the changes of RECEIVE within it are done with (R144, R158). -/
def State.endSamples (s : State) (l : List BinIn) : State :=
  let n := s.stroke - 1
  ((s.each l fun s x => s.feedBin n x.pair.val x.bin.val x.samples).fillBins n).each [0, 1, 2, 3] fun s c => s.onChain c fun x => { x with rxLog := [] }

/-- Reception at a catch: samples, blocks, hits, classes, orders, retention (R22, R23, R27, R31, R156 to R163, R167, R207). -/
def State.catchLanes (s : State) (i : CatchIn) : State :=
  let s0 := s.endSamples i.bins
  let l := s0.openLanes
  let s1 := (s0.each l State.postLane).each l State.feedLane
  let s2 := ((s1.issueWork i.extraLoad).shed).handleHits l
  s2.classify.dropOld

/-- What a change of configuration, of trim values and of policy brings at a catch (R70, R75, R416, R421, R445). -/
def State.catchChanges (s : State) : State :=
  let s1 := ((s.catchConfig.planEnergy).applyTrim).applyPlan
  match s1.pwr.change with
  | some (p, d) => (s1.setPolicy p d).onPwr fun w => { w with change := none }
  | none => s1

/-- Steps that a long operation in progress makes in a stroke. The spec gives the steps and bounds on the whole, not their times: their number
is a free value, and the last step is left to the command that completes the operation (R65, R240, R420, R461, R466; log 153). -/
def State.stepLong (s : State) (tag : U16) : State := (s.steps tag (Config.longSteps s.fresh)).draw

/-- The long operations in progress go on: a rebuild of the index table, commits, a survey (R65). -/
def State.catchLong (s : State) : State :=
  let tags := (s.dir.rebuild.map (·.1)).toList ++ (s.boot.fwCommit.map (·.1)).toList ++ s.boot.crewCommit.map (·.2.1)
  let s1 := s.each tags State.stepLong
  if s1.trim.survey.isSome then (s1.surveySteps (Config.longSteps s1.fresh)).draw else s1

/-- A catch with all that reaches the device at it. -/
def State.catch_ (s : State) (i : CatchIn) : State :=
  let s1 := ((s.nextStroke.catchAon i.aonEdges).catchTemp i.dieTemp).catchService.catchLanes i
  let s2 := ((s1.catchGains i.peaks).each [0, 1, 2, 3] fun s g => s.catchGroup i.streams g).catchAudio i.vhf i.lfmf
  let s3 := (((s2.catchTdm i).catchEnergy).catchLeak).catchChanges
  let s4 := ((s3.openLanes.foldl State.settleLane s3).returnBuffers)
  let s5 := (s4.each s4.openLanes State.openBlock).catchArray
  let s6 := ((s5.takeSamples.missedEvent).dropEvent).catchWords
  let s7 := s6.grantChannels fun c => c == 69 || (64 ≤ c && c < 68 && !s6.groupIs (c - 64) .stopped)
  ((((s7.catchTrim).catchLong).gateSculls).planner).scaleCore

/-- Catches occur while DTIME counts and the device is not held in reset (R7, R20). -/
def State.catches (s : State) : Bool := !s.boot.held && !s.clk.stopped

/-- CATCH (R9, R22). -/
def execStrokeCatch (i : CatchIn) (s : State) : Out := if s.catches then .next (s.catch_ i) else .next s

/-- Nominal edges of the 32.768 kHz oscillator within stroke `n`: 1,024 in 125 strokes (log 36). -/
def nominalEdges (n : Nat) : Nat := (n + 1) * 1024 / 125 - n * 1024 / 125

/-- A catch at which nothing new comes from outside (log 36). -/
def State.quietIn (s : State) : CatchIn :=
  { peaks := [], aonEdges := nominalEdges s.stroke, extraLoad := [], bins := [], streams := [], dieTemp := s.trim.dieTemp, oscCount := 49152
    fsEdges := [], vhf := [], lfmf := [] }

/-- One reference cycle with no command at hand: DTIME counts on, and at the end of the stroke the catch comes with nothing
new from outside. While DTIME does not count nothing happens (R7, R9; log 37). -/
def State.tick (s : State) : State :=
  if s.catches then
    if s.dtime + 1 < strokeLen * (s.stroke + 1) then { s with dtime := s.dtime + 1 } else s.catch_ s.quietIn
  else s

/-- CASTLING: the castling catch, when it is the next one, with nothing else from outside (R75; log 36). -/
def execCastling (s : State) : Out :=
  match s.cfg.castle with
  | .armed _ k _ => if s.catches && k == s.stroke + 1 then .next (s.catch_ s.quietIn) else .next s
  | _ => .next s

end Sys2Proof.Machine
end

