-- ==== Sys2Proof/Machine/Directory.lean ====
section
/-! DEFINITION. Meanings: directory processing, the hold, window judgements and the directory commands (chapter 9). -/

namespace Sys2Proof.Machine

/-- DIRECTORY_PROCESSING: the engine takes the frame that waits longest (R228 to R231). It works in the DRAM, whose accesses stall while it is in
self-refresh (R137, R224). -/
def execDirectoryProcessing (s : State) : Out :=
  if s.mem.refresh then .next s
  else match s.rx.frames with
  | [] => .next s
  | f :: rest => .next ((s.onRx fun r => { r with frames := rest }).processFrame f)

/-- HOLD_END: the oldest place of the hold ends; its record enters the delivery queue (R231, R232, R237). -/
def execHoldEnd (s : State) : Out :=
  match s.dir.hold with
  | [] => .next s
  | p :: rest => .next (((s.at p.ends).onDir fun d => { d with hold := rest }).deliverTel p.best)

/-- A missed window (R233). -/
def State.missWindow (s : State) (i : Nat) : State :=
  let e := s.entry i
  let missed := satTo 255 (e.missed + 1)
  let s1 := s.onEntry i fun e =>
    let e1 := { e with missed := missed, window := if e.interval == 0 then e.window else e.window + e.interval }
    if e.interval == 0 then { e1 with window := 0 }.mark fPredicting false else e1
  let s2 := if missed == 3 && e.has fWatch then
      ((s1.pushEvent 0x8009 6 0 i (le 4 i ++ le 8 e.window)).onEntry i fun e => e.mark fMissing true).onEng
        fun c => { c with missingReports := c.missingReports + 1 }
    else s1
  if missed == 8 then s2.onEntry i fun e => { e with window := 0 }.mark fPredicting false else s2

/-- DTIME at which the window of an entry closes (R233). -/
def DirEntry.closes (e : DirEntry) : Nat := e.window + e.halfWidth

/-- No other window closes before that of an entry: windows are judged in the order of their closing time (R233). -/
def State.judgedNext (s : State) (index : Nat) : Bool :=
  s.dir.entries.all fun x => !(x.2.has fInUse && x.2.has fPredicting) || x.1 == index || (s.entry index).closes ≤ x.2.closes

/-- WINDOW_JUDGEMENT: 806,400 cycles after a window closes without an arrival it is missed (R233). -/
def execWindowJudgement (index : Nat) (s : State) : Out :=
  let e := s.entry index
  if e.has fInUse && e.has fPredicting && s.judgedNext index then .next ((s.at (e.closes + 806400)).missWindow index) else .next s

/-- DIR_QUARANTINE_END: a freed index becomes assignable again (R238). -/
def execDirQuarantineEnd (index : Nat) (s : State) : Out :=
  match s.dir.quarantine.find? (fun q => q.1 == index) with
  | none => .next s
  | some q => .next ((s.at q.2).onDir fun d => { d with quarantine := d.quarantine.filter fun x => x.1 != index })

/-- DIR_REBUILD_DONE: the new index table replaces the old one and the final reply is sent (R240). -/
def execDirRebuildDone (s : State) : Out :=
  match s.dir.rebuild with
  | none => .next s
  | some (tag, _) => .next ((((s.lastSteps tag).rebuildSlots).onDir fun d => { d with rebuild := none }).finish tag .ok [])

/-! ### Directory commands (R238 to R241) -/

/-- State check of a command on an index: BUSY in a rebuild, NOT_FOUND for an entry not in use (R239, R240). -/
def State.indexState (s : State) (index : Nat) : Option Status :=
  if s.dir.rebuild.isSome then some .busy
  else if !(s.entry index).has fInUse then some .notFound
  else none

/-- The address that DIR_ADD names. -/
def addAddr (mfr : U16) (ident : U32) (version type : U8) : Addr := (ident, mfr, version, type)

/-- Checks of DIR_ADD (R46, R226, R238). -/
def chkDirAdd (h : Hdr) (a : Addr) (flags : U16) (wkey : Bytes) (s : State) : Check :=
  let key := flags.getLsbD 0
  { op := 0x0040, form := h.len == (if key then 36 else 12) && wkey.length == (if key then 24 else 0) && flags.toNat < 4, range := true
    state :=
      if s.dir.rebuild.isSome then some .busy
      else if (s.lookup a).isSome then some .locked
      else if s.freeIndex.isNone then some (if s.capacity ≤ s.entriesUsed then .noCredit else .busy)
      else if key && (unwrapKey s.boot.wrapKey wkey).isNone then some .authFail
      else none }

/-- DIR_ADD enters a meter at the lowest free index (R225, R238). -/
def actDirAdd (h : Hdr) (a : Addr) (interval flags : U16) (wkey : Bytes) (s : State) : State :=
  match s.freeIndex with
  | none => s
  | some i =>
    let key := flags.getLsbD 0
    let e : DirEntry := { ident := a.1, mfr := a.2.1, version := a.2.2.1, type_ := a.2.2.2, expInterval := interval
                          flags := 1 ||| (if key then 2 else 0) ||| (if flags.getLsbD 1 then 4 else 0)
                          wkey := if key then wkey else List.replicate 24 0 }
    ((s.setEntry i e).addSlot a i).answer h 0x0040 .ok (le 4 i)

/-- DIR_ADD (R238). -/
def execDirAdd (h : Hdr) (mfr : U16) (ident : U32) (version type : U8) (interval flags : U16) (wkey : Bytes) (s : State) : Out :=
  let a := addAddr mfr ident version type
  .next (s.host h 0x0040 (chkDirAdd h a flags wkey) (actDirAdd h a interval flags wkey))

/-- The fields a mask selects are changed (R239). -/
def DirEntry.update (e : DirEntry) (mask interval flags : U16) : DirEntry :=
  let e1 := if mask.getLsbD 0 then { e with expInterval := interval, histCount := 0, histHead := 0, learned := 0 }.mark fLearned false else e
  let e2 := if mask.getLsbD 1 then e1.mark fWatch (flags.getLsbD 1) else e1
  if mask.getLsbD 2 then { e2 with wkey := List.replicate 24 0 }.mark fKey false else e2

/-- The index lies below the capacity (R239). -/
def State.indexOk (s : State) (index : U32) : Bool := index.toNat < s.capacity

/-- DIR_UPDATE of one entry (R239). -/
def execDirUpdate (h : Hdr) (index : U32) (mask interval flags : U16) (s : State) : Out :=
  .next (s.host h 0x0041
    (fun s => { op := 0x0041, form := h.len == 10 && mask != 0 && mask.toNat < 8 && flags.toNat < 4 && !flags.getLsbD 0
                range := s.indexOk index, state := s.indexState index.toNat })
    (fun s =>
      let s1 := s.onEntry index.toNat fun e => e.update mask interval flags
      (if mask.getLsbD 2 then s1.dropKey index.toNat else s1).answer h 0x0041 .ok []))

/-- DIR_UPDATE of index 0xFFFFFFFF: a rebuild as a long operation (R240). -/
def execDirRebuild (h : Hdr) (mask interval flags : U16) (s : State) : Out :=
  .next (s.host h 0x0041
    (fun s => { op := 0x0041, form := h.len == 10 && mask == 0 && interval == 0 && flags == 0, range := true
                state := if s.dir.rebuild.isSome then some .busy else none })
    (fun s => ((s.queued h 0x0041 true).progress h.tag 0 (s.capacity / 16384)).onDir fun d => { d with rebuild := some (h.tag, 0) }))

/-- DIR_REMOVE: the entry is cleared, its slot marked removed, its index in quarantine (R227, R238, R239). -/
def execDirRemove (h : Hdr) (index : U32) (s : State) : Out :=
  .next (s.host h 0x0042
    (fun s => { op := 0x0042, form := h.len == 4, range := s.indexOk index, state := s.indexState index.toNat })
    (fun s =>
      let i := index.toNat
      let s1 := ((s.dropSlot i).dropKey i).onDir fun d =>
        { d with entries := delT d.entries i, mismatch := d.mismatch.filter fun m => m.1 != i, quarantine := d.quarantine ++ [(i, s.dtime + 4000 * strokeLen)] }
      s1.answer h 0x0042 .ok []))

/-- A summary of DIR_QUERY (R241). -/
def summaryOf (i : Nat) (e : DirEntry) : Bytes :=
  le 4 i ++ le 4 e.ident.toNat ++ le 2 e.mfr.toNat ++ le 1 e.version.toNat ++ le 1 e.type_.toNat ++ le 2 e.flags.toNat
    ++ le 2 e.expInterval.toNat ++ le 4 e.learned.toNat ++ le 8 e.lastArrival ++ le 1 e.missed ++ le 1 e.lastAcc.toNat
    ++ le 1 e.lastLqi.toNat ++ le 1 0

/-- The entries a query returns: in use, from `first` on, up to `count` (R241). -/
def State.queryEntries (s : State) (first count : Nat) : List (Nat × DirEntry) :=
  (s.dir.entries.filter fun e => e.2.has fInUse && decide (first ≤ e.1)).take count

/-- DIR_QUERY (R241). -/
def execDirQuery (h : Hdr) (first : U32) (count : U16) (s : State) : Out :=
  .next (s.host h 0x0043
    (fun _ => { op := 0x0043, form := h.len == 6, range := count.toNat ≤ (match h.src with | .spi => 127 | .udp _ _ => 45), state := none })
    (fun s =>
      let l := s.queryEntries first.toNat count.toNat
      s.answer h 0x0043 .ok (le 4 s.entriesUsed ++ le 4 s.capacity ++ le 2 l.length ++ le 2 0 ++ (l.map fun e => summaryOf e.1 e.2).flatten)))

/-- KEY_LOAD: a verified key replaces wkey, sets KEY, resets m7_counter (R226, R227, R239). -/
def execKeyLoad (h : Hdr) (index : U32) (wkey : Bytes) (s : State) : Out :=
  .next (s.host h 0x0044
    (fun s => { op := 0x0044, form := h.len == 28 && wkey.length == 24, range := s.indexOk index
                state := match s.indexState index.toNat with
                  | some st => some st
                  | none => if (unwrapKey s.boot.wrapKey wkey).isNone then some .authFail else none })
    (fun s =>
      ((s.onEntry index.toNat fun e => { e with wkey := wkey, m7 := 0 }.mark fKey true).dropKey index.toNat).answer h 0x0044 .ok []))

end Sys2Proof.Machine
end

