-- ==== Sys2Proof/Machine/Power.lean ====
section
/-! DEFINITION. Meanings: POWER_POLICY, WAKE_AT, wake sources, entries and returns, vigil, and the core voltage (chapter 18). -/

namespace Sys2Proof.Machine

/-! ### Host commands (R438, R440) -/

/-- Checks of POWER_POLICY; only caps over unit states forbid a hold state (R438, R439). -/
def chkPowerPolicy (h : Hdr) (policy deepest : U8) (s : State) : Check :=
  let p := policy.toNat
  let d := deepest.toNat
  { op := 0x0090, form := h.len == 2, range := p ≤ 2 && d ≤ 4 && !(p == 2 && 2 < d)
    state := if p == 2 && s.unitCap < d then some .locked else none }

/-- POWER_POLICY replaces policy and limit (R438, R445). -/
def execPowerPolicy (h : Hdr) (policy deepest : U8) (s : State) : Out :=
  .next (s.host h 0x0090 (chkPowerPolicy h policy deepest) fun s =>
    let s1 := (s.setPolicy policy.toNat deepest.toNat).onPwr fun p => { p with change := none }
    s1.answer h 0x0090 .ok (le 1 s1.pwr.st.code))

/-- Checks of WAKE_AT: a 17th distinct cookie is out of range (R440). -/
def chkWakeAt (h : Hdr) (cookie : U32) (s : State) : Check :=
  { op := 0x0091, form := h.len == 12
    range := (s.pwr.wakes.any fun w => w.1 == cookie) || (s.pwr.wakes.filter fun w => decide (s.dtime < w.2)).length < 16, state := none }

/-- WAKE_AT registers, replaces or, when its time has passed, cancels the wake of a cookie (R440). -/
def execWakeAt (h : Hdr) (dtime : U64) (cookie : U32) (s : State) : Out :=
  .next (s.host h 0x0091 (chkWakeAt h cookie) fun s =>
    let rest := s.pwr.wakes.filter fun w => w.1 != cookie && decide (s.dtime < w.2)
    if dtime.toNat < s.dtime then (s.onPwr fun p => { p with wakes := rest }).answer h 0x0091 .late []
    else (s.onPwr fun p => { p with wakes := rest ++ [(cookie, dtime.toNat)] }).answer h 0x0091 .ok [])

/-! ### Wake sources (R434, R437, R445) -/

/-- WAKE_TIMER: the wake timer expires (R436, R437). -/
def execWakeTimer (s : State) : Out :=
  match s.pwr.timer with
  | none => .next s
  | some t => .next (((s.at t).onPwr fun p => { p with timer := none }).wake false)

/-- An edge on a GPIO passes its digital filter once the new level has stood for its cycles (R35). -/
def State.gpioTaken (s : State) (pin held : Nat) : Bool := decide (s.pins.gpioFilter.getD pin 384 ≤ held)

/-- GPIO_WAKE: an edge on a GPIO enabled in WAKE_GPIO (R434, R449). -/
def execGpioWake (pin : Fin 16) (held : Nat) (s : State) : Out :=
  if s.gpioTaken pin.val held && pin.val != 0 && bitOf (s.cfgNat 9 12 2) pin.val then .next (s.wake false) else .next s

/-- MAINS_GPIO_EDGE: a falling edge calls for vigil at the next catch; a rising edge calls for the policy before, which comes at the next catch
as well (R434, R445; log 173). -/
def execMainsGpioEdge (rising : Bool) (held : Nat) (s : State) : Out :=
  if s.cfgNat 9 10 1 == 0xFF || !s.gpioTaken (s.cfgNat 9 10 1) held then .next s
  else if rising then
    if !s.pwr.mainsLow then .next s
    else .next ((s.onPwr fun p => { p with mainsLow := false, change := p.saved, saved := none }).wake false)
  else if s.pwr.mainsLow then .next s
  else .next ((s.onPwr fun p => { p with mainsLow := true, saved := some (p.policy, p.deepest), change := some (1, s.cfgNat 9 3 1) }).wake false)

/-- SPI_CS_FALL wakes the device from a state deeper than PADDLE; a low pulse under 10 ns is ignored (R35, R434). -/
def execSpiCsFall (ns : Nat) (s : State) : Out := if ns < 10 then .next s else .next (s.wake true)

/-! ### Entries and returns (R433, R435) -/

/-- POWER_STATE_ENTRY_DONE: the entry in progress completes, that into ASHORE at the last always-on edge before the reference stops
(R124, R431, R433). -/
def execPowerStateEntryDone (edges at_ : Nat) (s : State) : Out :=
  match s.pwr.entering with
  | none => .next s
  | some p => .next ((s.at at_).arrive p edges)

/-- WAKE_EXIT_DONE: the device arrives in ROW and the planner runs again (R435, R436). -/
def execWakeExitDone (s : State) : Out :=
  if s.pwr.waking && !s.clk.stopped then .next (s.toRow).planner else .next s

/-! ### Core voltage (R447) -/

/-- A change of voltage has failed for good: flag fall source 0x02 holds VDD_CORE (R36, R447). -/
def State.voltFails (s : State) (addr : Nat) : State :=
  (s.onPwr fun p => { p with vChange := none, i2cFail := true }).flagFall 0x02 addr

/-- The PMBus address of the power-management chip; 0 selects 0x40 (R449). -/
def State.pmicAddr (s : State) : Nat := s.powNat 8 1 0x40

/-- VDD_SETTLE_EXPIRY: READ_VOUT and STATUS_BYTE complete, repeat or fail the change (R447, R448). -/
def execVddSettleExpiry (readMv : Nat) (statusBits : U8) (s : State) : Out :=
  match s.pwr.vChange with
  | none => .next s
  | some (t, tries) =>
    if statusBits == 0 && decide (distance readMv t ≤ 15) then .next (s.onPwr fun p => { p with vChange := none, coreMv := t })
    else if tries == 0 then
      .next ((s.pmbusSend [(0x03, 0), (0x21, voutWord s.pwr.voutExp t)]).onPwr fun p => { p with vChange := some (t, 1) })
    else .next (s.voltFails s.pmicAddr)

/-- I2C_FLAG_FALL: a transaction did not complete in its three tries (R35, R36). -/
def execI2cFlagFall (addr : BitVec 7) (s : State) : Out := .next (s.voltFails addr.toNat)

/-! ### Vigil (R441 to R443) -/

/-- Vigil may act: policy 1 in ROW or PADDLE. -/
def State.vigilOn (s : State) : Bool := s.pwr.policy == 1 && (s.pwr.st == .row || s.pwr.st == .paddle) && s.pwr.entering.isNone

/-- The pair's listening mark. -/
def State.markListen (s : State) (l on : Bool) : State := s.onPwr fun p => if l then { p with listenL := on } else { p with listenH := on }

/-- VIGIL_LISTEN_START: at the listen start less the chain lead the pair goes to RECEIVE (R441). -/
def execVigilListenStart (l : Bool) (s : State) : Out :=
  let pair := b2n l
  if !s.vigilOn then .next s
  else match s.listenStart pair with
    | none => .next s
    | some t => .next (((s.at (t - s.chainLead pair)).markListen l true).openPair pair)

/-- The end of the union of intervals that cover an instant on a pair. -/
def State.coverEnd (s : State) (pair : Nat) : (fuel t : Nat) → Nat
  | 0, t => t
  | f + 1, t =>
    let e := ((s.vigilEntries pair).map fun e => if decide (s.listenFrom e ≤ t) && decide (t < listenTo e) then listenTo e else t).foldl max
      (match s.pwr.scanTill with | some x => max x t | none => t)
    if e == t then t else s.coverEnd pair f e

/-- VIGIL_LISTEN_END: after the last interval or the scan that covers it ends, the pair returns to SLEEP or STANDBY; chain B
goes back to SLEEP at the end of a scan (R441 to R443). -/
def execVigilListenEnd (l : Bool) (s : State) : Out :=
  let pair := b2n l
  if !s.vigilOn || !(if l then s.pwr.listenL else s.pwr.listenH) then .next s
  else
    let s1 := (s.at (s.coverEnd pair 64 s.dtime)).markListen l false
    let ended := s1.pwr.scanTill.any fun t => decide (t ≤ s1.dtime)
    let s2 := if ended then (s1.sendChain 4 .sleep).onPwr fun p => { p with scanTill := if p.listenH || p.listenL then p.scanTill else none } else s1
    .next (s2.closePair pair)

/-- VIGIL_SCAN: every VIGIL_SCAN_MIN minutes every pair and chain B listen for VIGIL_SCAN_S seconds (R443). -/
def execVigilScan (s : State) : Out :=
  let every := s.cfgNat 9 16 2
  if !s.vigilOn || every == 0 then .next s
  else
    let s1 := s.at (s.pwr.scanAt + every * 60 * sec)
    let s2 := s1.onPwr fun p => { p with scanAt := s1.dtime, scanTill := some (s1.dtime + s1.powNat 18 2 60 * sec), listenH := true, listenL := true }
    .next (((s2.openPair 0).openPair 1).sendChain 4 .receive)

end Sys2Proof.Machine
end

