-- ==== Sys2Proof/Machine/Reception.lean ====
section
/-! DEFINITION. Meanings: work orders of contexts, gambits, streams and verdicts, capture, retention (chapters 7 and 8, R24, R31, R36). -/

namespace Sys2Proof.Machine

/-! ### Progress of a context (R169 to R190) -/

/-- Full scale of a gain step in 0.01 dBm, with the amplitude that gain-step trim holds for it (R93, R187, R409; log 145). -/
def State.fullScale (s : State) (chain g : Nat) : Int :=
  (if chain / 2 == 0 then -3300 else -3900) + 300 * (g : Int) + (getT [] s.trim.values (0x0200 + chain)).getD g 0

/-- What a squared sample magnitude of a block weighs at the port, by first sample index: 10^(FS/10) / Γ in 2^-60 (R187). -/
def State.blockWeights (s : State) (lane : Nat) (b : Block) (isB : Bool) : List (Nat × Nat) :=
  let set := s.cfg.active
  let sh := ((List.range b.k).map fun n => bitsOf b.shifts.toNat (3 * n) 3).sum
  (if isB then b.gainB else b.gainA).map fun e =>
    (ceilDiv e.1 (laneP set lane), (powerRatio (s.fullScale (2 * lanePair set lane + b2n isB) e.2)).toNat * 2 ^ (2 * sh) / 2 ^ (2 * b.k))

/-- Mean level of a branch over a block (R167). -/
def blockLevel (b : Block) (x : List Quad) (isB : Bool) : Int := levelOf b.jFirst b.count ((x.map fun q => normSq (q.branch isB)).sum)

/-- A context demodulates one block: its demodulator, and the reference levels of R167. -/
def State.demodBlock (s : State) (i : Nat) (h : Held) : State :=
  let set := s.cfg.active
  let c := s.ctx i
  let pair := lanePair set c.lane
  let x := s.heldQuads h
  let limit : Int := roundI ((s.windowEnd c : Int) * one32) (laneP set c.lane : Nat)
  let from_ := match c.hit with | some d => d.j + 1 | none => 0
  let dm := Demod.run set c.lane c.profile (s.offered pair false) (s.offered pair true) limit c.hit from_
    (s.blockWeights c.lane h.blk false) (s.blockWeights c.lane h.blk true) h.blk.jFirst c.dm x
  s.onCtx i fun c => { c with dm := dm, refA := blockLevel h.blk x false, refB := blockLevel h.blk x true }

/-- Blankings of a pair, beginning and end: those that have ended, the one of a transmission in progress, a trim item in progress and one
that awaits its application catch (R109, R110, R415). -/
def State.blankings (s : State) (pair : Nat) : List (Nat × Nat) :=
  let t := s.txb (pairBand pair)
  let mine (code : Nat) : Bool := (trimChain code).any fun c => c / 2 == pair
  t.blanks ++ (match t.blankAt with | some x => [(x, s.dtime)] | none => [])
    ++ (match s.trim.now with | some n => if mine n.code then [(n.started, s.dtime)] else [] | none => [])

/-- A span meets blanking of its pair: between the aerial port's instants `a` and `b`, or within the lane-sample instants `c` to `d` (R110). -/
def State.metBlanking (s : State) (pair a b c d : Nat) : Bool :=
  (s.blankings pair).any fun e => (decide (a ≤ e.2) && decide (e.1 ≤ b)) || (decide (c < e.2) && decide (e.1 ≤ d))

/-- A context whose last symbol is decided builds its stream: figures, BLINDED, and the blocks after it as tail, which a stream that
cannot be swept does not keep (R110, R175, R187 to R190, R197, R204, R206). -/
def State.buildStream (s : State) (i : Nat) : State :=
  let set := s.cfg.active
  let c := s.ctx i
  let pair := lanePair set c.lane
  let g := laneG set c.lane
  let e := s.instant c.lane (match c.dm.syms.head? with | some x => x.tau | none => 0)
  let start := s.extentStart c
  let blind := s.metBlanking pair (start - g) (e - g) start e
  let q := match c.dm.hit with | some h => c.dm.quality set c.lane c.profile h e | none => { rssi := 0, snr := 0, freqOff := 0, devErr := 0 }
  let done := match c.rerun with | some p => p.pos | none => c.kept.length
  let rest := (c.kept.drop done ++ c.blocks).map fun h => { h with scull := none }
  let swept := !c.unretained && profMode set c.profile != 0 && !laneWatchOff set c.lane
  let s1 := if swept then s else s.giveUp rest
  s1.onCtx i fun c =>
    { c with st := .offering, endAt := some e, rssi := q.rssi, snr := q.snr, freqOff := q.freqOff, devErr := q.devErr, blinded := c.blinded || blind
             kept := c.kept.take done, blocks := [], rerun := none, tail := if swept then rest else [] }

/-- A context's length became known (R174, R195), or it is MALFORMED, or its last symbol is decided (R175, R197). -/
def State.followLength (s : State) (i : Nat) (had : Bool) : State :=
  let c := s.ctx i
  let s1 := s.onCtx i fun c => { c with bits := c.dm.bits }
  match c.dm.need with
  | none => s1
  | some none => (s1.onEng fun e => { e with malformed := e.malformed + 1 }).afterFail i
  | some (some n) =>
    let s2 := if had then s1 else (s1.onCtx i fun c => { c with need := some n }).unpair i
    if c.dm.done && (findT s2.rx.ctxs i).isSome then s2.buildStream i else s2

/-- A context processes a block: demodulation, then what it has found is registered (R170 to R175). -/
def State.processBlock (s : State) (i : Nat) (h : Held) : State :=
  let c := s.ctx i
  let s1 := s.demodBlock i h
  match (s1.ctx i).dm.hit with
  | none => s1
  | some x =>
    let s2 := if c.dm.hit.isNone then s1.confirm i x h.blk else s1
    if (findT s2.rx.ctxs i).isNone then s2 else s2.followLength i c.need.isSome

/-- A context still demodulates. -/
def Ctx.demodulates (c : Ctx) : Bool := c.st == .gambit || c.st == .confirmed

/-- One order of a re-run: whole retained blocks until 1,200 samples are reached (R202). -/
def State.rerunRun (s : State) (i : Nat) : (fuel left : Nat) → State
  | 0, _ => s
  | f + 1, left =>
    match findT s.rx.ctxs i with
    | none => s
    | some c =>
      match c.rerun with
      | none => s
      | some p =>
        if left == 0 || !c.demodulates then s
        else match c.kept[p.pos]? with
          | none => s
          | some h =>
            let s1 := s.onCtx i fun c => { c with rerun := some { p with pos := p.pos + 1, done := p.done + h.blk.count, scull := none } }
            (s1.processBlock i h).rerunRun i f (left - h.blk.count)

/-- The order of one block is complete: the block is finished, retained and processed (R31, R207, R208). -/
def State.blockOrder (s : State) (i k : Nat) : State :=
  match (s.ctx i).blocks[k]? with
  | none => s
  | some h => ((s.onCtx i fun c => { c with blocks := c.blocks.eraseIdx k }).retain i h).processBlock i h

/-- What a scull works on (R193). -/
inductive Job where
  | block (ctx k : Nat)
  | rerun (ctx : Nat)
  | sweep (ctx : Nat)
  | other (k : Nat)
  deriving DecidableEq, Repr

/-- The orders of a scull, each with its class, the stroke of its block, and its context's number; of a context's blocks only the oldest
can be worked on (R193). Work that is not a context's stands behind the contexts of its class and stroke (log 141). -/
def State.jobs (s : State) (scull : Nat) : List (Nat × Nat × Nat × Job) :=
  let of (e : Nat × Ctx) : List (Nat × Nat × Nat × Job) :=
    let c := e.2
    (match c.blocks.head? with
      | some h => if h.scull == some scull && !c.rerunDue then [(c.workClass, h.blk.stroke, e.1, Job.block e.1 0)] else []
      | none => [])
    ++ (match c.rerun with
      | some p => if c.rerunDue && p.scull == some scull then [(c.workClass, p.start + p.done / 1200, e.1, Job.rerun e.1)] else []
      | none => [])
    ++ (match c.sweep with
      | some p => if c.sweepDue && p.scull == some scull then [(6, p.start + p.done / 1200, e.1, Job.sweep e.1)] else []
      | none => [])
  (s.rx.ctxs.map of).flatten
    ++ (s.rx.orders.zip (List.range s.rx.orders.length)).filterMap fun x =>
        if x.1.scull == scull then some (x.1.cls, x.1.stroke, 1024 + x.2, Job.other x.2) else none

/-- Class before stroke before context number (R193). -/
def jobBefore (x y : Nat × Nat × Nat × Job) : Bool :=
  x.1 < y.1 || (x.1 == y.1 && (x.2.1 < y.2.1 || (x.2.1 == y.2.1 && x.2.2.1 < y.2.2.1)))

/-- The order that a scull runs next: class order, then oldest block, then lowest context number (R193). -/
def State.nextJob (s : State) (scull : Nat) : Option Job :=
  ((s.jobs scull).foldl (fun m x => match m with | none => some x | some y => if jobBefore x y then some x else some y) none).map (·.2.2.2)

/-- WORK_ORDER_COMPLETE: a scull completes the order it runs and returns the credit; the context advances (R31, R193, R202, R204, R207). -/
def execWorkOrderComplete (scull : Fin 64) (s : State) : Out :=
  match s.nextJob scull.val with
  | none => .next s
  | some (.block i k) => .next (s.blockOrder i k)
  | some (.rerun i) =>
    let s1 := s.rerunRun i 4096 1200
    .next (if (findT s1.rx.ctxs i).isSome then s1.issueCtx i else s1)
  | some (.sweep i) => .next (s.sweepOrder i)
  | some (.other k) => .next (s.onRx fun r => { r with orders := r.orders.eraseIdx k })

/-- CONTEXT_OVERRUN_ABORT: the oldest unfinished block is four strokes old (R23, R24). -/
def execContextOverrunAbort (ctx : Fin 1024) (s : State) : Out :=
  match findT s.rx.ctxs ctx.val with
  | none => .next s
  | some c =>
    match c.oldest with
    | some n => if n + 4 ≤ s.stroke then .next (s.abortCtx true ctx.val) else .next s
    | none => .next s

/-- The samples of a gambit's window have been processed (R172, R202). -/
def State.windowDone (s : State) (c : Ctx) : Bool :=
  match c.dm.next with
  | some n => decide (s.windowEnd c < n * laneP s.cfg.active c.lane)
  | none => false

/-- A context seeks its sync word: a gambit, or a confirmed context that is re-run and has not matched again (R170, R202). -/
def Ctx.searching (c : Ctx) : Bool := c.st == .gambit || (c.st == .confirmed && c.syncAt == 0)

/-- GAMBIT_RELEASE: the sync window ended without a match (R172, R210). -/
def execGambitRelease (ctx : Fin 1024) (s : State) : Out :=
  match findT s.rx.ctxs ctx.val with
  | none => .next s
  | some c => if c.searching && s.windowDone c then .next (s.releaseGambit ctx.val) else .next s

/-- STREAM_OFFER: the engine takes the stream when a credit is free; else the context holds it (R31, R175). -/
def execStreamOffer (ctx : Fin 1024) (s : State) : Out :=
  let i := ctx.val
  match findT s.rx.ctxs i with
  | none => .next s
  | some c =>
    if c.st != .offering || c.taken || c.passed then .next s
    else if s.rx.streamsOut < 256 then
      .next (((s.onCtx i fun c => { c with taken := true, heldAt := none }).onRx fun r =>
        { r with streamsOut := r.streamsOut + 1, atEngine := r.atEngine ++ [i] }).onEng fun e => { e with taken := e.taken + 1 })
    else .next (s.onCtx i fun c => { c with heldAt := some (c.heldAt.getD s.strokeNow) })

/-- STREAM_CREDIT_FLAG_FALL: a stream held for 8 strokes is discarded (R36, R175, R176). -/
def execStreamCreditFlagFall (ctx : Fin 1024) (s : State) : Out :=
  let i := ctx.val
  match findT s.rx.ctxs i with
  | none => .next s
  | some c =>
    match c.heldAt with
    | none => .next s
    | some k =>
      let s1 := s.at ((k + 8) * strokeLen)
      .next (((s1.onCnt fun c => { c with streamsDiscarded := c.streamsDiscarded + 1 }).flagFall 0x04 i).endCtx i)

/-! ### Automatic replies (R254, R255) -/

/-- Nominal channel frequency of a lane in Hz (R89, R90, R189). -/
def laneFreq (set : List Host.Cell) (lane : Nat) : Int :=
  if lanePair set lane == 1 then (rxLo set .l : Int) + 3200000 + 300000 * ((laneBin set lane : Int) - 8) + laneNco set lane
  else (rxLo set .h : Int) + 15200000 + 600000 * ((laneBin set lane : Int) - 32) + laneNco set lane

/-- The first enabled reply rule that a passed frame meets (R254). -/
def State.replyRule (s : State) (f : Frame) : Option Nat :=
  (List.range 3).find? fun k =>
    let o := 16 + 16 * k
    let ctl := s.cfgNat 4 o 1
    bitOf ctl 7 && s.cfgNat 4 (o + 1) 1 == f.profile
      && (fieldAt 1 1 f.bytes &&& s.cfgNat 4 (o + 5) 1) == s.cfgNat 4 (o + 6) 1
      && (!bitOf ctl 6 || (s.lookup (headerOf f.bytes).addr).isSome)

/-- The item of an automatic reply (R254). -/
def State.replyItem (s : State) (f : Frame) (k : Nat) : Band × TxItem :=
  let set := s.cfg.active
  let o := 16 + 16 * k
  let b := pairBand (lanePair set f.lane)
  let p := s.cfgNat 4 (o + 2) 1
  let frame : Bytes := [0x0A, BitVec.ofNat 8 (s.cfgNat 4 (o + 3) 1)] ++ slice 2 8 f.bytes ++ [BitVec.ofNat 8 (s.cfgNat 4 (o + 4) 1)]
  let freq := laneFreq set f.lane + s.cfgInt 4 (o + 12) 4 + if s.cfgBit 4 o 5 then f.freqOff else 0
  let planned := f.tEnd + s.cfgNat 4 (o + 8) 4
  (b, { kind := .auto, tag := 0, profile := p, planned := planned, latest := planned + 19200, freq := freq.toNat
        power := s.cfgInt 4 (match b with | .h => 8 | .l => 10) 2, frame := frame, fmtB := fmtBOf set p
        airtime := airtime set p 11 (fmtBOf set p) (addsCrc set p), rule := 0xFF, order := s.tx.nextOrder
        rate := profRate set p, air := airSymbols set p frame (fmtBOf set p) (addsCrc set p)
        answers := some ((headerOf f.bytes).addr, BitVec.ofNat 8 (headerOf f.bytes).access, dedupCrc f.bytes) })

/-- A passed frame is tested against the reply rules, and one reply may be queued (R254, R255, R262). -/
def State.autoReply (s : State) (f : Frame) : State :=
  match s.replyRule f with
  | none => s
  | some k =>
    let h := headerOf f.bytes
    let key := (h.addr, BitVec.ofNat 8 h.access, dedupCrc f.bytes)
    let (b, x) := s.replyItem f k
    if s.dir.replyKeys.any fun r =>
        r.1 == key.1 && r.2.1 == key.2.1 && r.2.2.1 == key.2.2 && decide (s.dtime < r.2.2.2 + 76800000) then s.countReply 5
    else if 4 ≤ (s.txb b).places true then s.countReply 6
    else match s.umpire b x.freq (halfSpan s.cfg.active x.profile) x.power (x.airtime + 1536) with
      | .error (rule, why) => (s.umpireDeny 0 rule why).countReply 4
      | .ok (rule, _) =>
        ((s.noteReply x).enqueueTx b { x with rule := rule }).countReply 0

/-! ### Verdicts (R197, R216, R221, R235) -/

/-- Bytes of a MODE 0 stream; a final partial byte is padded with zero bits (R235). -/
def toBytesPad (l : List Bool) : Bytes :=
  toBytes (l ++ List.replicate ((8 - l.length % 8) % 8) false)

/-- Capture and reception flags of a context's record; CAPTURED and CANCELLED belong to a telegram that passed (R175, R197, R212). -/
def ctxFlags (passed : Bool) (c : Ctx) : U16 :=
  (if !passed then 0 else if c.cancelled then rCancelled else if c.partners.isEmpty then 0 else rCaptured)
    ||| (if c.entangled then rEntangled else 0) ||| (if c.blinded then rBlinded else 0) ||| (if c.fmtB then rFormatB else 0)

/-- The frame that a passing context hands on (R175, R191). -/
def State.frameOf (s : State) (c : Ctx) (passed : Bool) (bytes : Bytes) : Frame :=
  let g := laneG s.cfg.active c.lane
  { lane := c.lane, profile := c.profile, branchB := c.pick == some true, fmtB := c.fmtB, tSync := c.syncAt - g
    tEnd := c.endAt.getD 0 - g, bytes := bytes, flags := ctxFlags passed c, lqi := lqiOf c.snr c.devErr c.syncErrs, rssi := c.rssi, snr := c.snr
    freqOff := c.freqOff, devErr := c.devErr, gen := c.gen }

/-- The record of a MODE 0 stream (R235). -/
def rawRecord (f : Frame) : TelRec :=
  let payload := f.bytes.take 255
  { key := (0, 0, 0, 0), dirIndex := none, tEnd := f.tEnd, lane := f.lane, branchB := f.branchB, profile := f.profile, lqi := f.lqi
    rssi := f.rssi, snr := f.snr, freqOff := f.freqOff, devErr := f.devErr, gen := f.gen
    flags := f.flags ||| rRaw ||| (if 255 < f.bytes.length then rTruncated else 0), access := 0, security := 0
    dedup := crc32 payload, payload := payload }

/-- The engine has parsed a stream: its credit returns (R31). -/
def State.parsed (s : State) (i : Nat) : State :=
  s.onRx fun r => { r with streamsOut := r.streamsOut - 1, atEngine := r.atEngine.filter (· != i) }

/-- A pass: frame to the directory engine, automatic reply, cancellation and sweep (R197, R213, R254). -/
def State.passed (s : State) (i : Nat) (c : Ctx) (f : Frame) : State :=
  let s1 := (s.onRx fun r => { r with frames := r.frames ++ [f] }).onEng fun e => { e with passed := e.passed + 1 }
  let s2 := s1.onCap fun k =>
    { k with rerunsPassed := if c.residual != 0 then k.rerunsPassed + 1 else k.rerunsPassed
             sweepPassed := if c.sweepCtx then k.sweepPassed + 1 else k.sweepPassed }
  (s2.autoReply f).afterPass i

/-- VERDICT: the telegram engine decodes and checks a stream it took (R197, R215 to R221, R235). It stalls while 512 frames wait (R31). -/
def execVerdict (ctx : Fin 1024) (s : State) : Out :=
  let i := ctx.val
  let set := s.cfg.active
  match findT s.rx.ctxs i with
  | none => .next s
  | some c =>
    if !s.rx.atEngine.contains i || 512 ≤ s.rx.frames.length then .next s
    else
      let s1 := s.parsed i
      let need := (c.need.getD 0) * profBps set c.profile
      match lineDecode (profLine set c.profile) (c.bits.take need) with
      | none => .next ((s1.onEng fun e => { e with lineErrors := e.lineErrors + 1 }).afterFail i)
      | some bits =>
        if profMode set c.profile == 0 then
          let r := rawRecord (s.frameOf c false (toBytesPad bits))
          .next (((s1.onEng fun e => { e with rawStreams := e.rawStreams + 1 }).deliver (r.bytes (s.utcField r.tEnd))).endCtx i)
        else match openFrame c.fmtB (toBytes bits) with
          | none => .next ((s1.onEng fun e => { e with crcErrors := e.crcErrors + 1 }).afterFail i)
          | some frame => .next (s1.passed i c (s.frameOf c true frame))

/-- WAITING_EXPIRY: 4,096 strokes since its first block (R197). -/
def execWaitingExpiry (ctx : Fin 1024) (s : State) : Out :=
  match findT s.rx.ctxs ctx.val with
  | none => .next s
  | some c =>
    if c.st == .waiting && decide (c.first + 4096 ≤ s.stroke) then
      .next ((s.endCtx ctx.val).onCap fun k => { k with waitingExpired := k.waitingExpired + 1 })
    else .next s

/-- SWEEP_TAIL_LIMIT: the tail would exceed 64 strokes; the rest of the sweep is skipped (R206). -/
def execSweepTailLimit (ctx : Fin 1024) (s : State) : Out :=
  match findT s.rx.ctxs ctx.val with
  | none => .next s
  | some c => if c.sweep.isSome && decide (64 < c.tail.length) then .next (s.closeSweep ctx.val true) else .next s

/-- A block is written into the spill region at an offset: its descriptor, then the samples used (R208). -/
def State.spillBlock (s : State) (h : Held) (o : Nat) : State :=
  (s.memWrite (spillBase + o) (slice 0 32 h.blk.bytes)).memWrite (spillBase + o + 32) (s.memRead (bufferAt h.blk.buffer) (8 * h.blk.count))

/-- SPILL_COPY_DONE: the first block that awaits its copy lies in the spill region and its buffer is free (R208, R213). Where no gap of the
region is large enough the context becomes UNRETAINED. No copy ends while accesses of the DRAM stall (R137). -/
def execSpillCopyDone (ctx : Fin 1024) (s : State) : Out :=
  let i := ctx.val
  if s.mem.refresh then .next s
  else match findT s.rx.ctxs i with
  | none => .next s
  | some c =>
    match c.sweepBlocks.find? (·.await) with
    | none => .next s
    | some h =>
      match s.spillPlace h.size with
      | none => .next (((s.dropKept i).onCtx i fun c => { c with unretained := true }).onCap fun c => { c with unretained := c.unretained + 1 })
      | some o =>
        let use := s.rx.spill + h.size
        let mark (x : Held) : Held := if x.await && x.blk.stroke == h.blk.stroke then { x with spill := some o, await := false } else x
        let s1 := ((s.spillBlock h o).onCtx i fun c => { c with kept := c.kept.map mark, tail := c.tail.map mark }).onRx
          fun r => { r with spill := use, awaiting := r.awaiting - 1 }
        .next (s1.onCap fun k => { k with spillPeak := if k.spillPeak.toNat < use / 1024 then BitVec.ofNat 32 (use / 1024) else k.spillPeak })

/-- SCULL_FLAG_FALL: a work order that its scull has not completed within 16 strokes resets the scull (R36, R176). -/
def execScullFlagFall (c : Fin 64) (s : State) : Out := if s.orderLate c.val then .next (s.resetScull c.val) else .next s

end Sys2Proof.Machine
end

