-- ==== Sys2Proof/Machine/ScullFlow.lean ====
section
/-! DEFINITION. Control and branch classes of the sculls (R370 to R373). -/

namespace Sys2Proof.Machine

/-- A count operand, read in D (R370). -/
def Scull.count (x : Scull) : Count → Nat
  | .imm n => n.toNat
  | .reg d => (x.dReg d).toNat

/-- NOP (R370). -/
def execNop (c : Fin 64) (rsv : Bool) (s : State) : Out := s.issue c .plain rsv false fun _ => {}

/-- HALT: issue stops and RUN is cleared (R371). -/
def execHalt (c : Fin 64) (rsv : Bool) (s : State) : Out := s.issue c .stop rsv false fun _ => { seq := .halt }

/-- IDLE: issue stops until a cause is pending and enabled (R371). -/
def execIdle (c : Fin 64) (rsv : Bool) (s : State) : Out := s.issue c .stop rsv false fun _ => { seq := .idle }

/-- RETI: a branch to IPC, with SR restored from ISS at the end of the second slot (R351). -/
def execReti (c : Fin 64) (rsv : Bool) (s : State) : Out :=
  s.issue c .flow rsv false fun x => { seq := .branch (some (x.early 0x45)) true }

/-- RPT: the next instruction is executed n times (R346). -/
def execRpt (c : Fin 64) (n : Count) (rsv : Bool) (s : State) : Out := s.issue c .rpt rsv false fun x => { seq := .rpt (x.count n) }

/-- LOOP: the next k instructions are executed n times (R347). -/
def execLoop (c : Fin 64) (n : Count) (km1 : BitVec 3) (rsv : Bool) (s : State) : Out :=
  s.issue c .loop rsv false fun x => { seq := .loop (x.count n) (km1.toNat + 1) }

/-- EI: IE := 1 (R370). -/
def execEi (c : Fin 64) (rsv : Bool) (s : State) : Out :=
  s.issue c .plain rsv false fun _ => { put := fun x => { x with sr := putBit x.sr srIE true } }

/-- DI: IE := 0 (R370). -/
def execDi (c : Fin 64) (rsv : Bool) (s : State) : Out :=
  s.issue c .plain rsv false fun _ => { put := fun x => { x with sr := putBit x.sr srIE false } }

/-- The register codes that a branch may name: P0 to P7, LR and IPC (R372). -/
def branchCode (code : Nat) : Bool := (8 ≤ code && code < 16) || code == 0x44 || code == 0x45

/-- The target of a branch: relative to the branch, or a register read in D with bits 1 and 0 ignored (R372, R373). -/
def Scull.target (x : Scull) : Target → U32
  | .rel ofs => x.pc + (ofs.signExtend 32 <<< 2)
  | .reg code => x.early code.toNat &&& ~~~3#32

/-- A register target names a code that is not allowed (R372). -/
def badTarget : Target → Bool
  | .rel _ => false
  | .reg code => !branchCode code.toNat

/-- A branch: the condition on the flags up to the instruction before the last, two delay slots, and LR when taken with LINK
(R344, R373). -/
def State.branchTo (s : State) (c : Nat) (cond : BitVec 4) (t : Target) (link rsv : Bool) : Out :=
  s.issue c .flow (rsv || badTarget t) false fun x =>
    let taken := condHolds cond x.srPrev
    { seq := .branch (if taken then some (x.target t) else none) false
      moves := if taken && link then [(0x44, x.pc + 12)] else [] }

/-- B (R373). -/
def execB (c : Fin 64) (cond : BitVec 4) (ofs : BitVec 22) (s : State) : Out := s.branchTo c cond (.rel ofs) false false

/-- CALL: a branch that writes LR when taken (R373). -/
def execCall (c : Fin 64) (cond : BitVec 4) (t : Target) (rsv : Bool) (s : State) : Out := s.branchTo c cond t true rsv

/-- BR: a branch through a register (R373). -/
def execBr (c : Fin 64) (cond : BitVec 4) (code : BitVec 7) (rsv : Bool) (s : State) : Out := s.branchTo c cond (.reg code) false rsv

/-- RET: a branch to LR (R373). -/
def execRet (c : Fin 64) (s : State) : Out := s.branchTo c 0 (.reg 0x44) false false

end Sys2Proof.Machine
end

