-- ==== Sys2Proof/Machine/ScullMath.lean ====
section
/-! DEFINITION. MAC, ALU, accumulator, division and conditional classes of the sculls (R374 to R379, R385 to R388). -/

namespace Sys2Proof.Machine

/-! ### MAC class (R374, R375) -/

/-- The operation of a MAC unit by its code. -/
inductive MacOp where
  | mpy | mac | msu
  deriving DecidableEq, Repr

def macOp : BitVec 2 → MacOp
  | 0 => .mpy
  | 1 => .mac
  | _ => .msu

/-- One unit: the exact result, and the carry or borrow out of bit 39 (R353, R375). -/
def macUnit (op : MacOp) (a : BitVec 40) (u v : BitVec 16) : Int × Bool :=
  let p := u.toInt * v.toInt
  match op with
  | .mpy => (p, false)
  | .mac => (a.toInt + p, carry40 a (wrap40 p))
  | .msu => (a.toInt - p, borrow40 a (wrap40 p))

/-- A reserved code, a field that must be 0 or a combination that R374 forbids. -/
def macBad (f : MacF) : Bool :=
  f.rsv || f.s2 == 3 || (f.s2 == 2 && f.r2 != 0) || (f.pm1 && !f.s1) || (f.pm2 && f.s2 != 1)
    || (f.pm1 && f.pm2 && f.r1 == f.r2) || (f.s2 == 2 && f.s1 && f.r1 == 7)
    || (match f.dual with | some u => f.acc1 == u.acc2 || u.op2 == 3 || (!u.s4 && u.r4 != 0) | none => false)

/-- An int16 at a scull-view address. -/
def State.word16 (s : State) (c a : Nat) : BitVec 16 := BitVec.ofNat 16 (ofLe (s.scullBytes c a 2))

/-- What a MAC instruction does (R375). -/
def State.macEff (s : State) (c : Nat) (op : MacOp) (f : MacF) (x : Scull) : Eff :=
  let a1 := (x.ptr f.r1).toNat
  let a2 := (x.ptr f.r2).toNat
  let ac := (x.ptr 7).toNat
  let u := if f.s1 then s.word16 c a1 else x.dReg f.r1
  let v := if f.s2 == 0 then x.dReg f.r2 else if f.s2 == 1 then s.word16 c a2 else s.word16 c ac
  let r1 := macUnit op (x.acc f.acc1) u v
  let fl1 := flags40 r1.1 r1.2
  let second : Option (BitVec 2 × Int) := f.dual.map fun d =>
    (d.acc2, (macUnit (macOp d.op2) (x.acc d.acc2) (x.dReg d.r3) (if d.s4 then x.dReg d.r4 else v)).1)
  { data := (if f.s1 then [{ addr := a1, n := 2, write := false }] else []) ++ (if f.s2 == 1 then [{ addr := a2, n := 2, write := false }] else [])
    cRead := f.s2 == 2
    post := (if f.pm1 then [(f.r1, x.step f.r1)] else []) ++ (if f.pm2 then [(f.r2, x.step f.r2)] else [])
      ++ (if f.s2 == 2 then [(7, x.step 7)] else [])
    put := fun y =>
      let y1 := (y.setAcc f.acc1 (wrap40 r1.1)).flag fl1
      match second with
      | some (a, t) => (y1.setAcc a (wrap40 t)).flag { av := out40 t }
      | none => y1 }

/-- An instruction of the MAC class. -/
def State.macClass (s : State) (c : Nat) (op : MacOp) (f : MacF) : Out := s.issue c .plain (macBad f) (f.s2 == 2) (s.macEff c op f)

/-- MPY (R375). -/
def execMpy (c : Fin 64) (f : MacF) (s : State) : Out := s.macClass c .mpy f
/-- MAC (R375). -/
def execMac (c : Fin 64) (f : MacF) (s : State) : Out := s.macClass c .mac f
/-- MSU (R375). -/
def execMsu (c : Fin 64) (f : MacF) (s : State) : Out := s.macClass c .msu f

/-! ### ALU class (R376, R377) -/

/-- The second operand (R376). -/
def Scull.opnd (x : Scull) : Opnd → BitVec 16
  | .reg dt => x.dReg dt
  | .imm v => v

/-- A two-operand ALU instruction: DS, the operand and C to result and flags; `write` is false for CMP and TST. -/
def State.alu (s : State) (c : Nat) (bad write : Bool) (f : AluF) (g : BitVec 16 → BitVec 16 → Bool → BitVec 16 × Flags) : Out :=
  s.issue c .plain (f.rsv || bad) false fun x =>
    let r := g (x.dReg f.ds) (x.opnd f.op) (x.sr.getLsbD srC)
    { put := fun y => (if write then y.setD f.dd r.1 else y).flag r.2 }

/-- ADD (R376). -/
def execAdd (c : Fin 64) (f : AluF) (s : State) : Out := s.alu c false true f fun a b _ => add16 a b false
/-- SUB (R376). -/
def execSub (c : Fin 64) (f : AluF) (s : State) : Out := s.alu c false true f fun a b _ => sub16 a b false
/-- ADC (R376). -/
def execAdc (c : Fin 64) (f : AluF) (s : State) : Out := s.alu c false true f fun a b k => add16 a b k
/-- SBC (R376). -/
def execSbc (c : Fin 64) (f : AluF) (s : State) : Out := s.alu c false true f fun a b k => sub16 a b k
/-- AND (R376). -/
def execAnd (c : Fin 64) (f : AluF) (s : State) : Out := s.alu c false true f fun a b _ => logic16 (a &&& b)
/-- OR (R376). -/
def execOr (c : Fin 64) (f : AluF) (s : State) : Out := s.alu c false true f fun a b _ => logic16 (a ||| b)
/-- XOR (R376). -/
def execXor (c : Fin 64) (f : AluF) (s : State) : Out := s.alu c false true f fun a b _ => logic16 (a ^^^ b)
/-- NOT (R376). -/
def execNot (c : Fin 64) (f : AluF) (s : State) : Out := s.alu c (f.ds != 0) true f fun _ b _ => logic16 (~~~b)
/-- MOV (R376). -/
def execMov (c : Fin 64) (f : AluF) (s : State) : Out := s.alu c (f.ds != 0) true f fun _ b _ => logic16 b
/-- NEG (R376). -/
def execNeg (c : Fin 64) (f : AluF) (s : State) : Out := s.alu c (f.ds != 0) true f fun _ b _ => sub16 0 b false
/-- SHL (R377). -/
def execShl (c : Fin 64) (f : AluF) (s : State) : Out := s.alu c false true f fun a b _ => shl16 a (b.toNat % 32)
/-- SHR (R377). -/
def execShr (c : Fin 64) (f : AluF) (s : State) : Out := s.alu c false true f fun a b _ => shr16 a (b.toNat % 32)
/-- ASR (R377). -/
def execAsr (c : Fin 64) (f : AluF) (s : State) : Out := s.alu c false true f fun a b _ => asr16 a (b.toNat % 32)
/-- CMP (R376). -/
def execCmp (c : Fin 64) (f : AluF) (s : State) : Out := s.alu c (f.dd != 0) false f fun a b _ => sub16 a b false
/-- TST (R376). -/
def execTst (c : Fin 64) (f : AluF) (s : State) : Out := s.alu c (f.dd != 0) false f fun a b _ => logic16 (a &&& b)

/-! ### Accumulator class (R378) -/

/-- An accumulator instruction: An, Am and D[DX] to the exact result and the flags; `write` is false for CMPA. -/
def State.accClass (s : State) (c : Nat) (bad write : Bool) (f : AccF) (g : BitVec 40 → BitVec 40 → BitVec 16 → BitVec 40 × Flags) : Out :=
  s.issue c .plain (f.rsv || bad) false fun x =>
    let r := g (x.acc f.an) (x.acc f.am) (x.dReg f.dx)
    { put := fun y => (if write then y.setAcc f.an r.1 else y).flag r.2 }

/-- A sum with its flags (R353). -/
def sum40 (a b : BitVec 40) : BitVec 40 × Flags := (wrap40 (a.toInt + b.toInt), flags40 (a.toInt + b.toInt) (carry40 a b))
/-- A difference with its flags (R353). -/
def diff40 (a b : BitVec 40) : BitVec 40 × Flags := (wrap40 (a.toInt - b.toInt), flags40 (a.toInt - b.toInt) (borrow40 a b))
/-- A value copied: Z, N and V from it, and C cleared (R378). -/
def copy40 (a : BitVec 40) : BitVec 40 × Flags := (a, { z := some (a == 0), n := some (a.getLsbD 39), c := some false, v := some (usesGuard a) })

/-- ASLA: C is the last bit shifted out of bit 39 (R378). -/
def shiftLeft40 (a : BitVec 40) (k : Nat) : BitVec 40 × Flags :=
  let t := a.toInt * ((2 ^ k : Nat) : Int)
  (wrap40 t, flags40 t (decide (1 ≤ k) && a.getLsbD (40 - k)))

/-- ASRA: C is the last bit shifted out of bit 0, and AV is not written (R378). -/
def shiftRight40 (a : BitVec 40) (k : Nat) : BitVec 40 × Flags :=
  let r := wrap40 (floorDiv a.toInt ((2 ^ k : Nat) : Int))
  (r, { z := some (r == 0), n := some (r.getLsbD 39), c := some (decide (1 ≤ k) && a.getLsbD (k - 1)), v := some (usesGuard r) })

/-- ADDA (R378). -/
def execAdda (c : Fin 64) (f : AccF) (s : State) : Out := s.accClass c (f.dx != 0 || f.k != 0) true f fun a b _ => sum40 a b
/-- SUBA (R378). -/
def execSuba (c : Fin 64) (f : AccF) (s : State) : Out := s.accClass c (f.dx != 0 || f.k != 0) true f fun a b _ => diff40 a b
/-- NEGA (R378). -/
def execNega (c : Fin 64) (f : AccF) (s : State) : Out := s.accClass c (f.dx != 0 || f.k != 0) true f fun _ b _ => diff40 0 b
/-- CLRA (R378). -/
def execClra (c : Fin 64) (f : AccF) (s : State) : Out := s.accClass c (f.am != 0 || f.dx != 0 || f.k != 0) true f fun _ _ _ => copy40 0
/-- MOVA (R378). -/
def execMova (c : Fin 64) (f : AccF) (s : State) : Out := s.accClass c (f.dx != 0 || f.k != 0) true f fun _ b _ => copy40 b
/-- LDA (R378). -/
def execLda (c : Fin 64) (f : AccF) (s : State) : Out := s.accClass c (f.am != 0 || f.k != 0) true f fun _ _ d => copy40 (sx40 d)
/-- ADDD (R378). -/
def execAddd (c : Fin 64) (f : AccF) (s : State) : Out := s.accClass c (f.am != 0 || f.k != 0) true f fun a _ d => sum40 a (sx40 d)
/-- SUBD (R378). -/
def execSubd (c : Fin 64) (f : AccF) (s : State) : Out := s.accClass c (f.am != 0 || f.k != 0) true f fun a _ d => diff40 a (sx40 d)
/-- ASLA (R378). -/
def execAsla (c : Fin 64) (f : AccF) (s : State) : Out := s.accClass c (f.dx != 0 || 40 ≤ f.k.toNat) true f fun _ b _ => shiftLeft40 b f.k.toNat
/-- ASRA (R378). -/
def execAsra (c : Fin 64) (f : AccF) (s : State) : Out := s.accClass c (f.dx != 0 || 40 ≤ f.k.toNat) true f fun _ b _ => shiftRight40 b f.k.toNat

/-- QMRG: the residue register is added to its accumulator and cleared (R355, R378). -/
def execQmrg (c : Fin 64) (f : AccF) (s : State) : Out :=
  s.issue c .plain (f.rsv || f.an.toNat < 2 || f.am != 0 || f.dx != 0 || f.k != 0) false fun x =>
    let a := x.acc f.an
    let q := x.residue f.an
    let t := a.toInt + (q.toNat : Int)
    { put := fun y => ((y.setAcc f.an (wrap40 t)).setResidue f.an 0).flag (flags40 t (carry40 a q)) }

/-- CMPA (R378). -/
def execCmpa (c : Fin 64) (f : AccF) (s : State) : Out := s.accClass c (f.dx != 0 || f.k != 0) false f fun a b _ => diff40 a b

/-! ### Division (R385 to R388) -/

/-- DSTP (R386). -/
def execDstp (c : Fin 64) (first : Bool) (an : BitVec 2) (ds : BitVec 3) (rsv : Bool) (s : State) : Out :=
  s.issue c .plain rsv false fun x =>
    let r := divStep first (x.sr.getLsbD srDQ) (x.acc an) (x.dReg ds)
    { put := fun y => (y.setAcc an r.1).flag r.2 }

/-- DEND (R387). -/
def execDend (c : Fin 64) (an : BitVec 2) (ds dd : BitVec 3) (rsv : Bool) (s : State) : Out :=
  s.issue c .plain rsv false fun x =>
    let r := divEnd (x.sr.getLsbD srDQ) (x.acc an) (x.dReg ds)
    { put := fun y => ((y.setD dd r.1).setAcc an r.2.1).flag r.2.2 }

/-! ### Conditional class (R379) -/

/-- A conditional instruction: nothing is written where the condition is false. -/
def State.condClass (s : State) (c : Nat) (bad : Bool) (f : CondF) (g : Scull → Scull → Scull) : Out :=
  s.issue c .plain (f.rsv || bad) false fun x => { put := fun y => if condHolds f.cond x.sr then g x y else y }

/-- Accumulator operands are numbered 0 to 3. -/
def badAcc (f : CondF) : Bool := 4 ≤ f.dst.toNat || 4 ≤ f.src.toNat
def dstAcc (f : CondF) : BitVec 2 := f.dst.extractLsb' 0 2
def srcAcc (f : CondF) : BitVec 2 := f.src.extractLsb' 0 2

/-- CMOV (R379). -/
def execCmov (c : Fin 64) (f : CondF) (s : State) : Out := s.condClass c false f fun x y => y.setD f.dst (x.dReg f.src)
/-- CADD (R379). -/
def execCadd (c : Fin 64) (f : CondF) (s : State) : Out := s.condClass c false f fun x y => y.setD f.dst (x.dReg f.dst + x.dReg f.src)
/-- CSUB (R379). -/
def execCsub (c : Fin 64) (f : CondF) (s : State) : Out := s.condClass c false f fun x y => y.setD f.dst (x.dReg f.dst - x.dReg f.src)
/-- CMOVA (R379). -/
def execCmova (c : Fin 64) (f : CondF) (s : State) : Out := s.condClass c (badAcc f) f fun x y => y.setAcc (dstAcc f) (x.acc (srcAcc f))
/-- CADDA: AV is the one flag it may set (R379). -/
def execCadda (c : Fin 64) (f : CondF) (s : State) : Out :=
  s.condClass c (badAcc f) f fun x y =>
    let t := (x.acc (dstAcc f)).toInt + (x.acc (srcAcc f)).toInt
    (y.setAcc (dstAcc f) (wrap40 t)).flag { av := out40 t }
/-- CSUBA: AV is the one flag it may set (R379). -/
def execCsuba (c : Fin 64) (f : CondF) (s : State) : Out :=
  s.condClass c (badAcc f) f fun x y =>
    let t := (x.acc (dstAcc f)).toInt - (x.acc (srcAcc f)).toInt
    (y.setAcc (dstAcc f) (wrap40 t)).flag { av := out40 t }

end Sys2Proof.Machine
end

