-- ==== Sys2Proof/Machine/ScullMove.lean ====
section
/-! DEFINITION. Load, store, accumulator store, register move and pointer classes of the sculls (R366 to R369, R380 to R384). -/

namespace Sys2Proof.Machine

/-! ### Loads and stores (R380, R381) -/

/-- Bytes of an access. -/
def widthOf (w : BitVec 2) : Nat := 2 ^ w.toNat

/-- The codes that name a whole 40-bit register in a 64-bit access (R381). -/
def wideCode (code : Nat) : Bool := (0x28 ≤ code && code < 0x2C) || code == 0x34 || code == 0x37

/-- A field that breaks R363, R366, R369 or R381. -/
def memBad (f : MemF) : Bool :=
  f.rsv || !amOk f.am f.imm || !regCode f.reg.toNat || (f.sx && 2 ≤ f.w.toNat) || (f.w == 3 && !wideCode f.reg.toNat)

/-- A memory value of a load's width extended to what it writes (R381). -/
def loadValue (w : BitVec 2) (sx : Bool) (v : Nat) : U64 :=
  match w.toNat with
  | 0 => if sx then (((BitVec.ofNat 8 v).signExtend 32).zeroExtend 64) else BitVec.ofNat 64 v
  | 1 => if sx then (((BitVec.ofNat 16 v).signExtend 32).zeroExtend 64) else BitVec.ofNat 64 v
  | _ => BitVec.ofNat 64 v

/-- LD (R381). -/
def execLd (c : Fin 64) (f : MemF) (s : State) : Out :=
  s.issue c .plain (memBad f) false fun x =>
    let m := x.memAddr f.ptr f.am f.imm
    let a := m.1
    let n := widthOf f.w
    let v := if isDma a then (x.dmaRead (a - 0x30000)).1.toNat else ofLe (s.scullBytes c a n)
    { data := [{ addr := a, n := n, write := false }]
      post := m.2.toList
      dma := if isDma a then some (a - 0x30000) else none
      load := some { left := 1, code := f.reg, value := loadValue f.w f.sx v, wide := f.w == 3 } }

/-- A whole 40-bit register as a 64-bit store writes it (R381). -/
def Scull.whole (x : Scull) (code : Nat) : U64 :=
  if code == 0x34 then x.q2.zeroExtend 64 else if code == 0x37 then x.q3.zeroExtend 64 else (x.a.getD (code - 0x28) 0).signExtend 64

/-- The store that an instruction puts on its way (R343): to memory by its system address, or to a DMA register. -/
def State.storeAt (s : State) (c a : Nat) (b : Bytes) : StoreFl :=
  { left := 2, addr := if isDma a then a else (s.scullAddr c a true).getD 0, bytes := b }

/-- ST (R381). -/
def execSt (c : Fin 64) (f : MemF) (s : State) : Out :=
  s.issue c .plain (memBad f || f.sx) false fun x =>
    let m := x.memAddr f.ptr f.am f.imm
    let n := widthOf f.w
    let k := f.reg.toNat
    let b := if f.w == 3 then le 8 (x.whole k).toNat else le n (x.read x.pcRead k).toNat
    { data := [{ addr := m.1, n := n, write := true }]
      post := m.2.toList
      put := fun y => if f.w == 3 then y else y.afterRead k
      store := some (s.storeAt c m.1 b) }

/-! ### SACC (R354, R382) -/

/-- A field that breaks R363, R369 or R382. -/
def saccBad (f : SaccF) : Bool :=
  f.rsv || 24 < f.sh.toNat || (f.w32 && f.toD) || (f.toD && (f.am != 0 || f.imm != 0)) || (!f.toD && !amOk f.am f.imm)

/-- SACC: a rounding store from A0 and A1, a truncating store with residue from A2 and A3 (R354). -/
def execSacc (c : Fin 64) (f : SaccF) (s : State) : Out :=
  s.issue c .plain (saccBad f) false fun x =>
    let w := if f.w32 then 32 else 16
    let r := sacc f.acc.toNat f.sh.toNat w (x.acc f.acc) (x.residue f.acc)
    let keep (y : Scull) : Scull := (if 2 ≤ f.acc.toNat then y.setResidue f.acc r.2.1 else y).flag r.2.2
    if f.toD then { put := fun y => (keep y).setD f.ptr (BitVec.ofInt 16 r.1) }
    else
      let m := x.memAddr f.ptr f.am f.imm
      { data := [{ addr := m.1, n := w / 8, write := true }]
        post := m.2.toList
        put := keep
        store := some (s.storeAt c m.1 (leI (w / 8) r.1)) }

/-! ### MOVR and the pointer class (R383, R384) -/

/-- MOVR: a register transfer in E (R383). -/
def execMovr (c : Fin 64) (rd rs : BitVec 7) (rsv : Bool) (s : State) : Out :=
  s.issue c .plain (rsv || !regCode rd.toNat || !regCode rs.toNat) false fun x =>
    { put := fun y => y.afterRead rs.toNat, moves := [(rd.toNat, x.read x.pcRead rs.toNat)] }

/-- The register code of a pointer-class operand: Pn, WBn, WLn or WSn (R384). -/
def ptrCode (f : PtrF) : Nat := 8 + 8 * f.kind.toNat + f.n.toNat

/-- A pointer-class write in E. -/
def State.setPointer (s : State) (c : Nat) (f : PtrF) (g : U32 → U32) : Out :=
  s.issue c .plain f.rsv false fun x => { moves := [(ptrCode f, g (x.read 0 (ptrCode f)))] }

/-- SETL (R384). -/
def execSetl (c : Fin 64) (f : PtrF) (s : State) : Out := s.setPointer c f fun _ => f.imm.zeroExtend 32
/-- SETH (R384). -/
def execSeth (c : Fin 64) (f : PtrF) (s : State) : Out := s.setPointer c f fun r => (f.imm ++ r.extractLsb' 0 16 : BitVec 32)
/-- ADDI, without the circular rule (R384). -/
def execAddi (c : Fin 64) (f : PtrF) (s : State) : Out := s.setPointer c f fun r => r + f.imm.signExtend 32
/-- MODP: a post-modify by an immediate, in D (R356, R384). -/
def execModp (c : Fin 64) (f : PtrF) (s : State) : Out :=
  s.issue c .plain (f.rsv || f.kind != 0) false fun _ => { post := [(f.n, f.imm.toInt)] }

end Sys2Proof.Machine
end

