-- ==== Sys2Proof/Machine/Dispatch.lean ====
section
/-! DEFINITION. The dispatch of the commands: one arm per constructor of `Instr`, each one call of that command's meaning. -/

namespace Sys2Proof.Machine

def exec (i : Instr) (s : State) : Host.Outcome State Fault Refusal :=
  match i with
  | .ping h data => Sys2Proof.Machine.execPing h data s
  | .getInfo h => Sys2Proof.Machine.execGetInfo h s
  | .getStatus h flags => Sys2Proof.Machine.execGetStatus h flags s
  | .cfgWrite h section_ target offset length reserved data => Sys2Proof.Machine.execCfgWrite h section_ target offset length reserved data s
  | .cfgRead h section_ set offset length => Sys2Proof.Machine.execCfgRead h section_ set offset length s
  | .castle h target => Sys2Proof.Machine.execCastle h target s
  | .cfgCheck h set => Sys2Proof.Machine.execCfgCheck h set s
  | .chainState h chain state => Sys2Proof.Machine.execChainState h chain state s
  | .txSubmit h r => Sys2Proof.Machine.execTxSubmit h r s
  | .txCancel h tag => Sys2Proof.Machine.execTxCancel h tag s
  | .ruleCardBurn h image => Sys2Proof.Machine.execRuleCardBurn h image s
  | .dirAdd h mfr ident version type interval flags wkey => Sys2Proof.Machine.execDirAdd h mfr ident version type interval flags wkey s
  | .dirUpdate h index mask interval flags => Sys2Proof.Machine.execDirUpdate h index mask interval flags s
  | .dirRebuild h mask interval flags => Sys2Proof.Machine.execDirRebuild h mask interval flags s
  | .dirRemove h index => Sys2Proof.Machine.execDirRemove h index s
  | .dirQuery h first count => Sys2Proof.Machine.execDirQuery h first count s
  | .keyLoad h index wkey => Sys2Proof.Machine.execKeyLoad h index wkey s
  | .creditGrant h grant ack flags => Sys2Proof.Machine.execCreditGrant h grant ack flags s
  | .bcTune h path profile reserved freq => Sys2Proof.Machine.execBcTune h path profile reserved freq s
  | .bcAf h mode k pi codes => Sys2Proof.Machine.execBcAf h mode k pi codes s
  | .streamStart h group reserved => Sys2Proof.Machine.execStreamStart h group reserved s
  | .streamStop h group reserved => Sys2Proof.Machine.execStreamStop h group reserved s
  | .tdmStart h => Sys2Proof.Machine.execTdmStart h s
  | .tdmStop h => Sys2Proof.Machine.execTdmStop h s
  | .trimRun h scope mask reserved => Sys2Proof.Machine.execTrimRun h scope mask reserved s
  | .riggingReportRead h kind => Sys2Proof.Machine.execRiggingReportRead h kind s
  | .riggingReportSurvey h kind => Sys2Proof.Machine.execRiggingReportSurvey h kind s
  | .powerPolicy h policy deepest => Sys2Proof.Machine.execPowerPolicy h policy deepest s
  | .wakeAt h dtime cookie => Sys2Proof.Machine.execWakeAt h dtime cookie s
  | .crewLoadChunk h crew step chunk pkgLen data => Sys2Proof.Machine.execCrewLoadChunk h crew step chunk pkgLen data s
  | .crewLoadCommit h crew chunk pkgLen => Sys2Proof.Machine.execCrewLoadCommit h crew chunk pkgLen s
  | .crewStart h crew reserved => Sys2Proof.Machine.execCrewStart h crew reserved s
  | .crewStop h crew reserved => Sys2Proof.Machine.execCrewStop h crew reserved s
  | .timeSet h utc dtime uncertainty => Sys2Proof.Machine.execTimeSet h utc dtime uncertainty s
  | .timeSource h s0 s1 s2 s3 => Sys2Proof.Machine.execTimeSource h s0 s1 s2 s3 s
  | .opProgress h tag code => Sys2Proof.Machine.execOpProgress h tag code s
  | .fwUpdateChunk h reserved step chunk pkgLen data => Sys2Proof.Machine.execFwUpdateChunk h reserved step chunk pkgLen data s
  | .fwUpdateCommit h reserved chunk pkgLen => Sys2Proof.Machine.execFwUpdateCommit h reserved chunk pkgLen s
  | .fieldChallenge h scope reserved duration => Sys2Proof.Machine.execFieldChallenge h scope reserved duration s
  | .fieldResponse h sig => Sys2Proof.Machine.execFieldResponse h sig s
  | .diagPeek h addr length => Sys2Proof.Machine.execDiagPeek h addr length s
  | .diagPoke h addr length reserved data => Sys2Proof.Machine.execDiagPoke h addr length reserved data s
  | .messageDiscarded src why => Sys2Proof.Machine.execMessageDiscarded src why s
  | .commandTimeout tag => Sys2Proof.Machine.execCommandTimeout tag s
  | .longOpTimeout tag => Sys2Proof.Machine.execLongOpTimeout tag s
  | .internalOpFlagFall code => Sys2Proof.Machine.execInternalOpFlagFall code s
  | .mbxInWrite data partial_ endsTxn => Sys2Proof.Machine.execMbxInWrite data partial_ endsTxn s
  | .mbxOutRead n => Sys2Proof.Machine.execMbxOutRead n s
  | .spiIrqClear v => Sys2Proof.Machine.execSpiIrqClear v s
  | .spiUnknownCommand cmd data => Sys2Proof.Machine.execSpiUnknownCommand cmd data s
  | .registerWrite r v => Sys2Proof.Machine.execRegisterWrite r v s
  | .spiMessageFlagFall => Sys2Proof.Machine.execSpiMessageFlagFall s
  | .spiCsFall ns => Sys2Proof.Machine.execSpiCsFall ns s
  | .udpDatagram d => Sys2Proof.Machine.execUdpDatagram d s
  | .arpIcmpReply icmp ip request => Sys2Proof.Machine.execArpIcmpReply icmp ip request s
  | .ptpEventFrame f => Sys2Proof.Machine.execPtpEventFrame f s
  | .outboundPlace udp => Sys2Proof.Machine.execOutboundPlace udp s
  | .batchClose => Sys2Proof.Machine.execBatchClose s
  | .resendTimeout => Sys2Proof.Machine.execResendTimeout s
  | .uartRxByte samples => Sys2Proof.Machine.execUartRxByte samples s
  | .phyLinkPoll driven reg1 => Sys2Proof.Machine.execPhyLinkPoll driven reg1 s
  | .ethRefclkFlagFall => Sys2Proof.Machine.execEthRefclkFlagFall s
  | .ethRefclkReturn => Sys2Proof.Machine.execEthRefclkReturn s
  | .strokeCatch inp => Sys2Proof.Machine.execStrokeCatch inp s
  | .contextOverrunAbort ctx => Sys2Proof.Machine.execContextOverrunAbort ctx s
  | .crewMissedStroke crew => Sys2Proof.Machine.execCrewMissedStroke crew s
  | .workSkipped broadcast unit => Sys2Proof.Machine.execWorkSkipped broadcast unit s
  | .preambleHit lane samples => Sys2Proof.Machine.execPreambleHit lane samples s
  | .laneSettlingEnd lane => Sys2Proof.Machine.execLaneSettlingEnd lane s
  | .agcFastAttack path => Sys2Proof.Machine.execAgcFastAttack path s
  | .workOrderComplete scull => Sys2Proof.Machine.execWorkOrderComplete scull s
  | .gambitRelease ctx => Sys2Proof.Machine.execGambitRelease ctx s
  | .streamOffer ctx => Sys2Proof.Machine.execStreamOffer ctx s
  | .streamCreditFlagFall ctx => Sys2Proof.Machine.execStreamCreditFlagFall ctx s
  | .verdict ctx => Sys2Proof.Machine.execVerdict ctx s
  | .waitingExpiry ctx => Sys2Proof.Machine.execWaitingExpiry ctx s
  | .sweepTailLimit ctx => Sys2Proof.Machine.execSweepTailLimit ctx s
  | .spillCopyDone ctx => Sys2Proof.Machine.execSpillCopyDone ctx s
  | .directoryProcessing => Sys2Proof.Machine.execDirectoryProcessing s
  | .holdEnd => Sys2Proof.Machine.execHoldEnd s
  | .windowJudgement index => Sys2Proof.Machine.execWindowJudgement index s
  | .dirQuarantineEnd index => Sys2Proof.Machine.execDirQuarantineEnd index s
  | .dirRebuildDone => Sys2Proof.Machine.execDirRebuildDone s
  | .castleChecksDone => Sys2Proof.Machine.execCastleChecksDone s
  | .castleCheckFlagFall => Sys2Proof.Machine.execCastleCheckFlagFall s
  | .castling => Sys2Proof.Machine.execCastling s
  | .shadowCopyDone => Sys2Proof.Machine.execShadowCopyDone s
  | .shadowCopyFlagFall => Sys2Proof.Machine.execShadowCopyFlagFall s
  | .chainTransitionDone chain selfCheckOk => Sys2Proof.Machine.execChainTransitionDone chain selfCheckOk s
  | .lossOfLock syn => Sys2Proof.Machine.execLossOfLock syn s
  | .relockAttemptEnd syn locked band margin => Sys2Proof.Machine.execRelockAttemptEnd syn locked band margin s
  | .aonOscFlagFall => Sys2Proof.Machine.execAonOscFlagFall s
  | .txTransitionStart band => Sys2Proof.Machine.execTxTransitionStart band s
  | .txRampUp band => Sys2Proof.Machine.execTxRampUp band s
  | .txFirstSymbol band => Sys2Proof.Machine.execTxFirstSymbol band s
  | .txRampDownComplete band => Sys2Proof.Machine.execTxRampDownComplete band s
  | .txExpired band => Sys2Proof.Machine.execTxExpired band s
  | .blankingEnd band => Sys2Proof.Machine.execBlankingEnd band s
  | .returnLossReading band tenths => Sys2Proof.Machine.execReturnLossReading band tenths s
  | .bcTuneComplete lf rssi => Sys2Proof.Machine.execBcTuneComplete lf rssi s
  | .rdsGroup g => Sys2Proof.Machine.execRdsGroup g s
  | .afCheck rssi => Sys2Proof.Machine.execAfCheck rssi s
  | .afPiTimeout => Sys2Proof.Machine.execAfPiTimeout s
  | .lfFrame f => Sys2Proof.Machine.execLfFrame f s
  | .timeSourceExpiry source => Sys2Proof.Machine.execTimeSourceExpiry source s
  | .ppsPulse at_ ns => Sys2Proof.Machine.execPpsPulse at_ ns s
  | .ppsFlagFall => Sys2Proof.Machine.execPpsFlagFall s
  | .ppsOutEdge => Sys2Proof.Machine.execPpsOutEdge s
  | .streamStall g => Sys2Proof.Machine.execStreamStall g s
  | .streamStallEnd g => Sys2Proof.Machine.execStreamStallEnd g s
  | .streamRateFault g => Sys2Proof.Machine.execStreamRateFault g s
  | .streamSampleDrop g ofs => Sys2Proof.Machine.execStreamSampleDrop g ofs s
  | .dmaStarved channel => Sys2Proof.Machine.execDmaStarved channel s
  | .slotSlip => Sys2Proof.Machine.execSlotSlip s
  | .tdmUnderrun => Sys2Proof.Machine.execTdmUnderrun s
  | .tdmOverflow => Sys2Proof.Machine.execTdmOverflow s
  | .tdmRestartEnd => Sys2Proof.Machine.execTdmRestartEnd s
  | .tdmStopEnd => Sys2Proof.Machine.execTdmStopEnd s
  | .tdmSlaveStall => Sys2Proof.Machine.execTdmSlaveStall s
  | .tdmSlaveStallEnd => Sys2Proof.Machine.execTdmSlaveStallEnd s
  | .tdmFrameError missing displaced => Sys2Proof.Machine.execTdmFrameError missing displaced s
  | .tdmRateFault => Sys2Proof.Machine.execTdmRateFault s
  | .energyWindowRecord circuit => Sys2Proof.Machine.execEnergyWindowRecord circuit s
  | .pulseEnd circuit => Sys2Proof.Machine.execPulseEnd circuit s
  | .leakRunStart => Sys2Proof.Machine.execLeakRunStart s
  | .leakCaptureDone => Sys2Proof.Machine.execLeakCaptureDone s
  | .leakPairDone => Sys2Proof.Machine.execLeakPairDone s
  | .trimItemEnd value plausible codes => Sys2Proof.Machine.execTrimItemEnd value plausible codes s
  | .trimRunDone => Sys2Proof.Machine.execTrimRunDone s
  | .trimPauseFlagFall => Sys2Proof.Machine.execTrimPauseFlagFall s
  | .riggingSurveyStart => Sys2Proof.Machine.execRiggingSurveyStart s
  | .riggingSurveyEnd ring vbase headroom coreMv => Sys2Proof.Machine.execRiggingSurveyEnd ring vbase headroom coreMv s
  | .wakeTimer => Sys2Proof.Machine.execWakeTimer s
  | .gpioWake pin held => Sys2Proof.Machine.execGpioWake pin held s
  | .mainsGpioEdge rising held => Sys2Proof.Machine.execMainsGpioEdge rising held s
  | .ashoreExit aon => Sys2Proof.Machine.execAshoreExit aon s
  | .i2cFlagFall addr => Sys2Proof.Machine.execI2cFlagFall addr s
  | .vigilListenStart lBand => Sys2Proof.Machine.execVigilListenStart lBand s
  | .vigilListenEnd lBand => Sys2Proof.Machine.execVigilListenEnd lBand s
  | .vigilScan => Sys2Proof.Machine.execVigilScan s
  | .reset => Sys2Proof.Machine.execReset s
  | .resetNLow ns => Sys2Proof.Machine.execResetNLow ns s
  | .refLossReset => Sys2Proof.Machine.execRefLossReset s
  | .powerOnReset tcxo => Sys2Proof.Machine.execPowerOnReset tcxo s
  | .coreSupplyReset => Sys2Proof.Machine.execCoreSupplyReset s
  | .vddRfFault => Sys2Proof.Machine.execVddRfFault s
  | .overTempReset => Sys2Proof.Machine.execOverTempReset s
  | .bootReady => Sys2Proof.Machine.execBootReady s
  | .bootStepFlagFall step => Sys2Proof.Machine.execBootStepFlagFall step s
  | .fwCommitDone => Sys2Proof.Machine.execFwCommitDone s
  | .fwUpdateReset => Sys2Proof.Machine.execFwUpdateReset s
  | .fwTrialConfirm => Sys2Proof.Machine.execFwTrialConfirm s
  | .crewCommitDone crew => Sys2Proof.Machine.execCrewCommitDone crew s
  | .crewFlagFall crew => Sys2Proof.Machine.execCrewFlagFall crew s
  | .scullFlagFall c => Sys2Proof.Machine.execScullFlagFall c s
  | .fieldChallengeExpiry => Sys2Proof.Machine.execFieldChallengeExpiry s
  | .fieldScopeClose scope => Sys2Proof.Machine.execFieldScopeClose scope s
  | .testPortInstruction code => Sys2Proof.Machine.execTestPortInstruction code s
  | .stkDoneWrite c v => Sys2Proof.Machine.execStkDoneWrite c v s
  | .stkStatRead c => Sys2Proof.Machine.execStkStatRead c s
  | .stkLoRead c => Sys2Proof.Machine.execStkLoRead c s
  | .dmaGo c v => Sys2Proof.Machine.execDmaGo c v s
  | .dmaStatRead c => Sys2Proof.Machine.execDmaStatRead c s
  | .dmaDone c => Sys2Proof.Machine.execDmaDone c s
  | .interruptEntry c => Sys2Proof.Machine.execInterruptEntry c s
  | .idleResume c waited => Sys2Proof.Machine.execIdleResume c waited s
  | .nop c rsv => Sys2Proof.Machine.execNop c rsv s
  | .halt c rsv => Sys2Proof.Machine.execHalt c rsv s
  | .idle c rsv => Sys2Proof.Machine.execIdle c rsv s
  | .reti c rsv => Sys2Proof.Machine.execReti c rsv s
  | .rpt c n rsv => Sys2Proof.Machine.execRpt c n rsv s
  | .loop c n km1 rsv => Sys2Proof.Machine.execLoop c n km1 rsv s
  | .ei c rsv => Sys2Proof.Machine.execEi c rsv s
  | .di c rsv => Sys2Proof.Machine.execDi c rsv s
  | .b c cond ofs => Sys2Proof.Machine.execB c cond ofs s
  | .call c cond t rsv => Sys2Proof.Machine.execCall c cond t rsv s
  | .br c cond code rsv => Sys2Proof.Machine.execBr c cond code rsv s
  | .ret c => Sys2Proof.Machine.execRet c s
  | .mpy c f => Sys2Proof.Machine.execMpy c f s
  | .mac c f => Sys2Proof.Machine.execMac c f s
  | .msu c f => Sys2Proof.Machine.execMsu c f s
  | .add c f => Sys2Proof.Machine.execAdd c f s
  | .sub c f => Sys2Proof.Machine.execSub c f s
  | .adc c f => Sys2Proof.Machine.execAdc c f s
  | .sbc c f => Sys2Proof.Machine.execSbc c f s
  | .and c f => Sys2Proof.Machine.execAnd c f s
  | .or c f => Sys2Proof.Machine.execOr c f s
  | .xor c f => Sys2Proof.Machine.execXor c f s
  | .not c f => Sys2Proof.Machine.execNot c f s
  | .mov c f => Sys2Proof.Machine.execMov c f s
  | .neg c f => Sys2Proof.Machine.execNeg c f s
  | .shl c f => Sys2Proof.Machine.execShl c f s
  | .shr c f => Sys2Proof.Machine.execShr c f s
  | .asr c f => Sys2Proof.Machine.execAsr c f s
  | .cmp c f => Sys2Proof.Machine.execCmp c f s
  | .tst c f => Sys2Proof.Machine.execTst c f s
  | .adda c f => Sys2Proof.Machine.execAdda c f s
  | .suba c f => Sys2Proof.Machine.execSuba c f s
  | .nega c f => Sys2Proof.Machine.execNega c f s
  | .clra c f => Sys2Proof.Machine.execClra c f s
  | .mova c f => Sys2Proof.Machine.execMova c f s
  | .lda c f => Sys2Proof.Machine.execLda c f s
  | .addd c f => Sys2Proof.Machine.execAddd c f s
  | .subd c f => Sys2Proof.Machine.execSubd c f s
  | .asla c f => Sys2Proof.Machine.execAsla c f s
  | .asra c f => Sys2Proof.Machine.execAsra c f s
  | .qmrg c f => Sys2Proof.Machine.execQmrg c f s
  | .cmpa c f => Sys2Proof.Machine.execCmpa c f s
  | .ld c f => Sys2Proof.Machine.execLd c f s
  | .st c f => Sys2Proof.Machine.execSt c f s
  | .sacc c f => Sys2Proof.Machine.execSacc c f s
  | .movr c rd rs rsv => Sys2Proof.Machine.execMovr c rd rs rsv s
  | .setl c f => Sys2Proof.Machine.execSetl c f s
  | .seth c f => Sys2Proof.Machine.execSeth c f s
  | .addi c f => Sys2Proof.Machine.execAddi c f s
  | .modp c f => Sys2Proof.Machine.execModp c f s
  | .dstp c first an ds rsv => Sys2Proof.Machine.execDstp c first an ds rsv s
  | .dend c an ds dd rsv => Sys2Proof.Machine.execDend c an ds dd rsv s
  | .cmov c f => Sys2Proof.Machine.execCmov c f s
  | .cadd c f => Sys2Proof.Machine.execCadd c f s
  | .csub c f => Sys2Proof.Machine.execCsub c f s
  | .cmova c f => Sys2Proof.Machine.execCmova c f s
  | .cadda c f => Sys2Proof.Machine.execCadda c f s
  | .csuba c f => Sys2Proof.Machine.execCsuba c f s
  | .patrolSweepStart => Sys2Proof.Machine.execPatrolSweepStart s
  | .patrolWindowDone engine badWord readBackBad => Sys2Proof.Machine.execPatrolWindowDone engine badWord readBackBad s
  | .patrolWriteBackDone engine => Sys2Proof.Machine.execPatrolWriteBackDone engine s
  | .aonOscReturn => Sys2Proof.Machine.execAonOscReturn s
  | .vddRfReturn => Sys2Proof.Machine.execVddRfReturn s
  | .synDLostReset => Sys2Proof.Machine.execSynDLostReset s
  | .synthLockConfirmed syn band margin => Sys2Proof.Machine.execSynthLockConfirmed syn band margin s
  | .powerStateEntryDone edges at_ => Sys2Proof.Machine.execPowerStateEntryDone edges at_ s
  | .wakeExitDone => Sys2Proof.Machine.execWakeExitDone s
  | .vddSettleExpiry readMv statusBits => Sys2Proof.Machine.execVddSettleExpiry readMv statusBits s
  | .streamStartTimeout g => Sys2Proof.Machine.execStreamStartTimeout g s
  | .tdmStartTimeout => Sys2Proof.Machine.execTdmStartTimeout s
  | .tdmStartFrameSync lens span => Sys2Proof.Machine.execTdmStartFrameSync lens span s
  | .rdsSyncFound keyed => Sys2Proof.Machine.execRdsSyncFound keyed s
  | .rdsSyncLost => Sys2Proof.Machine.execRdsSyncLost s
  | .lfSecondMarker at_ => Sys2Proof.Machine.execLfSecondMarker at_ s
  | .pulseLowEnd circuit => Sys2Proof.Machine.execPulseLowEnd circuit s

end Sys2Proof.Machine
end

