-- ==== Sys2Proof/Machine/ScullWord.lean ====
section
/-! DEFINITION. Instruction words of the sculls: decode of a word in P memory and the words of the instructions (R362 to R388). -/

namespace Sys2Proof.Machine

/-- Bits `lo` to `lo + n - 1` of an instruction word. -/
abbrev bitsAt (w : U32) (lo n : Nat) : BitVec n := w.extractLsb' lo n

/-! ### Fields to instructions -/

/-- Control class (R370). KM1 is a field of LOOP only; a word of another operation that sets it is taken as one with a non-zero
reserved field (DEDUCED, log 38). -/
def controlAt (c : Fin 64) (w : U32) : Option Instr :=
  let none24 := bitsAt w 0 24 != 0
  let rep := bitsAt w 16 8 != 0
  let loop := bitsAt w 19 5 != 0
  let reg := bitsAt w 3 13 != 0
  match bitsAt w 24 4 with
  | 0 => some (.nop c none24)
  | 1 => some (.halt c none24)
  | 2 => some (.idle c none24)
  | 3 => some (.reti c none24)
  | 4 => some (.rpt c (.imm (bitsAt w 0 16)) rep)
  | 5 => some (.rpt c (.reg (bitsAt w 0 3)) (rep || reg))
  | 6 => some (.loop c (.imm (bitsAt w 0 16)) (bitsAt w 16 3) loop)
  | 7 => some (.loop c (.reg (bitsAt w 0 3)) (bitsAt w 16 3) (loop || reg))
  | 8 => some (.ei c none24)
  | 9 => some (.di c none24)
  | _ => none

/-- Branch class (R372, R373). -/
def branchAt (c : Fin 64) (w : U32) : Option Instr :=
  let cond := bitsAt w 24 4
  let rsv := bitsAt w 7 15 != 0
  if bitsAt w 23 1 == 1 then
    if bitsAt w 22 1 == 1 then some (.call c cond (.reg (bitsAt w 0 7)) rsv) else some (.call c cond (.rel (bitsAt w 0 22)) false)
  else if bitsAt w 22 1 == 1 then
    if w == 0x10400044#32 then some (.ret c) else some (.br c cond (bitsAt w 0 7) rsv)
  else some (.b c cond (bitsAt w 0 22))

/-- MAC class (R374). -/
def macAt (c : Fin 64) (w : U32) : Option Instr :=
  let dual := bitsAt w 12 1 == 1
  let f : MacF :=
    { acc1 := bitsAt w 24 2, s1 := w.getLsbD 23, r1 := bitsAt w 20 3, s2 := bitsAt w 18 2, r2 := bitsAt w 15 3
      pm1 := w.getLsbD 14, pm2 := w.getLsbD 13
      dual := if dual then some { op2 := bitsAt w 10 2, acc2 := bitsAt w 8 2, r3 := bitsAt w 5 3, s4 := w.getLsbD 4, r4 := bitsAt w 1 3 }
        else none
      rsv := if dual then w.getLsbD 0 else bitsAt w 0 12 != 0 }
  match bitsAt w 26 2 with
  | 0 => some (.mpy c f)
  | 1 => some (.mac c f)
  | 2 => some (.msu c f)
  | _ => none

/-- ALU class (R376). -/
def aluAt (c : Fin 64) (w : U32) : Option Instr :=
  let im := w.getLsbD 17
  let f : AluF :=
    { dd := bitsAt w 21 3, ds := bitsAt w 18 3, op := if im then .imm (bitsAt w 0 16) else .reg (bitsAt w 14 3)
      rsv := if im then w.getLsbD 16 else bitsAt w 0 14 != 0 }
  match bitsAt w 24 4 with
  | 0 => some (.add c f)
  | 1 => some (.sub c f)
  | 2 => some (.adc c f)
  | 3 => some (.sbc c f)
  | 4 => some (.and c f)
  | 5 => some (.or c f)
  | 6 => some (.xor c f)
  | 7 => some (.not c f)
  | 8 => some (.mov c f)
  | 9 => some (.neg c f)
  | 10 => some (.shl c f)
  | 11 => some (.shr c f)
  | 12 => some (.asr c f)
  | 13 => some (.cmp c f)
  | 14 => some (.tst c f)
  | _ => none

/-- Accumulator class (R378). -/
def accAt (c : Fin 64) (w : U32) : Option Instr :=
  let f : AccF := { an := bitsAt w 22 2, am := bitsAt w 20 2, dx := bitsAt w 17 3, k := bitsAt w 11 6, rsv := bitsAt w 0 11 != 0 }
  match bitsAt w 24 4 with
  | 0 => some (.adda c f)
  | 1 => some (.suba c f)
  | 2 => some (.nega c f)
  | 3 => some (.clra c f)
  | 4 => some (.mova c f)
  | 5 => some (.lda c f)
  | 6 => some (.addd c f)
  | 7 => some (.subd c f)
  | 8 => some (.asla c f)
  | 9 => some (.asra c f)
  | 10 => some (.qmrg c f)
  | 11 => some (.cmpa c f)
  | _ => none

/-- The fields of a load or a store (R380). -/
def memAt (w : U32) : MemF :=
  { w := bitsAt w 26 2, sx := w.getLsbD 25, ptr := bitsAt w 22 3, am := bitsAt w 20 2, reg := bitsAt w 13 7, imm := bitsAt w 0 13, rsv := false }

/-- The fields of an accumulator store (R382). -/
def saccAt (w : U32) : SaccF :=
  { acc := bitsAt w 26 2, w32 := w.getLsbD 25, sh := bitsAt w 20 5, toD := w.getLsbD 19, ptr := bitsAt w 16 3, am := bitsAt w 14 2
    imm := bitsAt w 0 13, rsv := w.getLsbD 13 }

/-- Pointer class (R384). -/
def pointerAt (c : Fin 64) (w : U32) : Option Instr :=
  let f : PtrF := { kind := bitsAt w 26 2, n := bitsAt w 23 3, imm := bitsAt w 0 16, rsv := bitsAt w 16 5 != 0 }
  match bitsAt w 21 2 with
  | 0 => some (.setl c f)
  | 1 => some (.seth c f)
  | 2 => some (.addi c f)
  | _ => some (.modp c f)

/-- Division class (R385). -/
def divisionAt (c : Fin 64) (w : U32) : Option Instr :=
  let low := bitsAt w 0 18 != 0
  if w.getLsbD 27 then some (.dend c (bitsAt w 24 2) (bitsAt w 21 3) (bitsAt w 18 3) (w.getLsbD 26 || low))
  else some (.dstp c (w.getLsbD 26) (bitsAt w 24 2) (bitsAt w 21 3) (bitsAt w 18 3 != 0 || low))

/-- Conditional class (R379); an accumulator's number is the upper two bits of its field, the lowest bit being reserved. -/
def condAt (c : Fin 64) (w : U32) : Option Instr :=
  let f : CondF := { cond := bitsAt w 24 4, dst := bitsAt w 18 3, src := bitsAt w 15 3, rsv := bitsAt w 0 15 != 0 }
  let g : CondF :=
    { f with dst := (bitsAt w 19 2).zeroExtend 3, src := (bitsAt w 16 2).zeroExtend 3, rsv := f.rsv || w.getLsbD 18 || w.getLsbD 15 }
  match bitsAt w 21 3 with
  | 0 => some (.cmov c f)
  | 1 => some (.cadd c f)
  | 2 => some (.csub c f)
  | 3 => some (.cmova c g)
  | 4 => some (.cadda c g)
  | 5 => some (.csuba c g)
  | _ => none

/-- The instruction that scull `c` reads from a word; none for a reserved class or operation, which faults ILLEGAL (R362, R363). -/
def scullInstr (c : Fin 64) (w : U32) : Option Instr :=
  match bitsAt w 28 4 with
  | 0 => controlAt c w
  | 1 => branchAt c w
  | 2 => macAt c w
  | 3 => aluAt c w
  | 4 => accAt c w
  | 5 => some (.ld c (memAt w))
  | 6 => some (.st c (memAt w))
  | 7 => some (.sacc c (saccAt w))
  | 8 => some (.movr c (bitsAt w 21 7) (bitsAt w 14 7) (bitsAt w 0 14 != 0))
  | 9 => pointerAt c w
  | 10 => divisionAt c w
  | 11 => condAt c w
  | _ => none

/-- The word in P memory at the PC of scull `c` (R362). -/
def State.wordAtPc (s : State) (c : Fin 64) : U32 := BitVec.ofNat 32 (ofLe (s.scullBytes c.val (s.scull c.val).pc.toNat 4))

/-! ### Instructions to words -/

/-- The number whose fields are given by their lowest bit and their value. -/
def packedNat : List (Nat × Nat) → Nat
  | [] => 0
  | (lo, v) :: t => v * 2 ^ lo + packedNat t

/-- The word whose fields are given by their lowest bit and their value. -/
def packed (l : List (Nat × Nat)) : U32 := BitVec.ofNat 32 (packedNat l)

/-- A control word without operand. -/
def controlWord (op : Nat) : U32 := packed [(24, op)]

/-- A word of RPT or LOOP: the operation code of the immediate form, the next one being the register form. -/
def countWord (op km1 : Nat) : Count → U32
  | .imm n => packed [(24, op), (16, km1), (0, n.toNat)]
  | .reg d => packed [(24, op + 1), (16, km1), (0, d.toNat)]

/-- A branch word. -/
def branchWord (cond : BitVec 4) (link : Bool) : Target → U32
  | .rel ofs => packed [(28, 1), (24, cond.toNat), (23, link.toNat), (0, ofs.toNat)]
  | .reg code => packed [(28, 1), (24, cond.toNat), (23, link.toNat), (22, 1), (0, code.toNat)]

/-- Bits 12 to 0 of a MAC word. -/
def mac2Fields : Option Mac2 → List (Nat × Nat)
  | none => []
  | some u => [(12, 1), (10, u.op2.toNat), (8, u.acc2.toNat), (5, u.r3.toNat), (4, u.s4.toNat), (1, u.r4.toNat)]

/-- A MAC word (R374). -/
def macWord (op : Nat) (f : MacF) : U32 :=
  packed ([(28, 2), (26, op), (24, f.acc1.toNat), (23, f.s1.toNat), (20, f.r1.toNat), (18, f.s2.toNat), (15, f.r2.toNat),
    (14, f.pm1.toNat), (13, f.pm2.toNat)] ++ mac2Fields f.dual)

/-- Bits 17 to 0 of an ALU word. -/
def opndFields : Opnd → List (Nat × Nat)
  | .reg dt => [(14, dt.toNat)]
  | .imm v => [(17, 1), (0, v.toNat)]

/-- An ALU word (R376). -/
def aluWord (op : Nat) (f : AluF) : U32 := packed ([(28, 3), (24, op), (21, f.dd.toNat), (18, f.ds.toNat)] ++ opndFields f.op)
/-- An accumulator word (R378). -/
def accWord (op : Nat) (f : AccF) : U32 :=
  packed [(28, 4), (24, op), (22, f.an.toNat), (20, f.am.toNat), (17, f.dx.toNat), (11, f.k.toNat)]
/-- A word of a load or a store (R380). -/
def memWord (cls : Nat) (f : MemF) : U32 :=
  packed [(28, cls), (26, f.w.toNat), (25, f.sx.toNat), (22, f.ptr.toNat), (20, f.am.toNat), (13, f.reg.toNat), (0, f.imm.toNat)]
/-- A word of an accumulator store (R382). -/
def saccWord (f : SaccF) : U32 :=
  packed [(28, 7), (26, f.acc.toNat), (25, f.w32.toNat), (20, f.sh.toNat), (19, f.toD.toNat), (16, f.ptr.toNat), (14, f.am.toNat),
    (0, f.imm.toNat)]
/-- A word of the pointer class (R384). -/
def ptrWord (op : Nat) (f : PtrF) : U32 := packed [(28, 9), (26, f.kind.toNat), (23, f.n.toNat), (21, op), (0, f.imm.toNat)]
/-- A word of the conditional class on D registers (R379). -/
def condWord (op : Nat) (f : CondF) : U32 := packed [(28, 11), (24, f.cond.toNat), (21, op), (18, f.dst.toNat), (15, f.src.toNat)]
/-- A word of the conditional class on accumulators (R379). -/
def condAccWord (op : Nat) (f : CondF) : U32 :=
  packed [(28, 11), (24, f.cond.toNat), (21, op), (19, (dstAcc f).toNat), (16, (srcAcc f).toNat)]

/-- The word of a scull instruction whose reserved fields are zero; none for any other command. -/
def scullWord : Instr → Option U32
  | .nop _ _ => some (controlWord 0)
  | .halt _ _ => some (controlWord 1)
  | .idle _ _ => some (controlWord 2)
  | .reti _ _ => some (controlWord 3)
  | .rpt _ n _ => some (countWord 4 0 n)
  | .loop _ n k _ => some (countWord 6 k.toNat n)
  | .ei _ _ => some (controlWord 8)
  | .di _ _ => some (controlWord 9)
  | .b _ cond ofs => some (branchWord cond false (.rel ofs))
  | .call _ cond t _ => some (branchWord cond true t)
  | .br _ cond code _ => some (branchWord cond false (.reg code))
  | .ret _ => some 0x10400044#32
  | .mpy _ f => some (macWord 0 f)
  | .mac _ f => some (macWord 1 f)
  | .msu _ f => some (macWord 2 f)
  | .add _ f => some (aluWord 0 f)
  | .sub _ f => some (aluWord 1 f)
  | .adc _ f => some (aluWord 2 f)
  | .sbc _ f => some (aluWord 3 f)
  | .and _ f => some (aluWord 4 f)
  | .or _ f => some (aluWord 5 f)
  | .xor _ f => some (aluWord 6 f)
  | .not _ f => some (aluWord 7 f)
  | .mov _ f => some (aluWord 8 f)
  | .neg _ f => some (aluWord 9 f)
  | .shl _ f => some (aluWord 10 f)
  | .shr _ f => some (aluWord 11 f)
  | .asr _ f => some (aluWord 12 f)
  | .cmp _ f => some (aluWord 13 f)
  | .tst _ f => some (aluWord 14 f)
  | .adda _ f => some (accWord 0 f)
  | .suba _ f => some (accWord 1 f)
  | .nega _ f => some (accWord 2 f)
  | .clra _ f => some (accWord 3 f)
  | .mova _ f => some (accWord 4 f)
  | .lda _ f => some (accWord 5 f)
  | .addd _ f => some (accWord 6 f)
  | .subd _ f => some (accWord 7 f)
  | .asla _ f => some (accWord 8 f)
  | .asra _ f => some (accWord 9 f)
  | .qmrg _ f => some (accWord 10 f)
  | .cmpa _ f => some (accWord 11 f)
  | .ld _ f => some (memWord 5 f)
  | .st _ f => some (memWord 6 f)
  | .sacc _ f => some (saccWord f)
  | .movr _ rd rs _ => some (packed [(28, 8), (21, rd.toNat), (14, rs.toNat)])
  | .setl _ f => some (ptrWord 0 f)
  | .seth _ f => some (ptrWord 1 f)
  | .addi _ f => some (ptrWord 2 f)
  | .modp _ f => some (ptrWord 3 f)
  | .dstp _ first an ds _ => some (packed [(28, 10), (26, first.toNat), (24, an.toNat), (21, ds.toNat)])
  | .dend _ an ds dd _ => some (packed [(28, 10), (27, 1), (24, an.toNat), (21, ds.toNat), (18, dd.toNat)])
  | .cmov _ f => some (condWord 0 f)
  | .cadd _ f => some (condWord 1 f)
  | .csub _ f => some (condWord 2 f)
  | .cmova _ f => some (condAccWord 3 f)
  | .cadda _ f => some (condAccWord 4 f)
  | .csuba _ f => some (condAccWord 5 f)
  | _ => none

/-- The scull that issues an instruction. -/
def issuer : Instr → Option (Fin 64)
  | .nop c _ | .halt c _ | .idle c _ | .reti c _ | .rpt c _ _ | .loop c _ _ _ | .ei c _ | .di c _ | .b c _ _ | .call c _ _ _ | .br c _ _ _
  | .ret c | .mpy c _ | .mac c _ | .msu c _ | .add c _ | .sub c _ | .adc c _ | .sbc c _ | .and c _ | .or c _ | .xor c _ | .not c _
  | .mov c _ | .neg c _ | .shl c _ | .shr c _ | .asr c _ | .cmp c _ | .tst c _ | .adda c _ | .suba c _ | .nega c _ | .clra c _ | .mova c _
  | .lda c _ | .addd c _ | .subd c _ | .asla c _ | .asra c _ | .qmrg c _ | .cmpa c _ | .ld c _ | .st c _ | .sacc c _ | .movr c _ _ _
  | .setl c _ | .seth c _ | .addi c _ | .modp c _ | .dstp c _ _ _ _ | .dend c _ _ _ _ | .cmov c _ | .cadd c _ | .csub c _ | .cmova c _
  | .cadda c _ | .csuba c _ => some c
  | _ => none

end Sys2Proof.Machine
end

