-- ==== Sys2Proof/WellFormed.lean ====
section
/-! DEFINITION. When a command can occur at all: a carried payload has the length its message states, an index names a unit that
exists, and a scull instruction has a word. The meanings are total on every command; statements name this where they need it. -/

namespace Sys2Proof

/-- A message of up to 4,096 payload bytes with a tag, and `n` payload bytes of it carried by the command (R37). -/
def Hdr.wf (h : Hdr) (n : Nat) : Bool := decide (h.len ≤ 4096) && decide (n ≤ h.len)

/-- Samples of a bin that exists: 64 bins and 300 samples a stroke on H, 16 and 150 on L (R143, R144). -/
def BinIn.wf (x : BinIn) : Bool :=
  if x.pair.val == 1 then decide (x.bin.val < 16) && decide (x.samples.length ≤ 150) else decide (x.samples.length ≤ 300)

/-- Sampled data of units that exist (R158, R289). -/
def CatchIn.wf (i : CatchIn) : Bool :=
  i.peaks.all (fun p => decide (p.1 < 6)) && i.extraLoad.all (fun l => decide (1 ≤ l.cls) && decide (l.cls ≤ 7) && decide (l.unit ≤ 30)) && i.bins.all BinIn.wf
    && decide (i.vhf.length ≤ 1200) && decide (i.lfmf.length ≤ 1200)

/-- The symbols of four blocks and the one before them (R272). -/
def RdsIn.wf (g : RdsIn) : Bool := g.keyed.length == 105

/-- A register that exists (R50, R81, R366): unit kinds 1 to 8 of R80 for a BUMP field. -/
def RegRef.wf : RegRef → Bool
  | .spi _ => true
  | .dma _ off => decide (off.toNat ≤ 0x10)
  | .scull _ _ => true
  | .bump k _ => decide (1 ≤ k) && decide (k ≤ 8)

/-- Fields that a conditional instruction on accumulators can hold (R379). -/
def CondF.accWf (f : CondF) : Bool := decide (f.dst.toNat < 4) && decide (f.src.toNat < 4)

/-- The command can occur. -/
def Instr.wf : Instr → Bool
  | .ping h d => h.wf d.length
  | .cfgWrite h _ _ _ _ _ d => h.wf (8 + d.length)
  | .txSubmit h r => h.wf (24 + r.frame.length)
  | .ruleCardBurn h d => h.wf d.length
  | .dirAdd h _ _ _ _ _ _ k => h.wf k.length
  | .keyLoad h _ k => h.wf k.length
  | .bcAf h _ _ _ d => h.wf d.length
  | .crewLoadChunk h _ n _ _ d | .fwUpdateChunk h _ n _ _ d => h.wf (8 + d.length) && n != 1
  | .uartRxByte l => decide (l.length == 160)
  | .fieldResponse h d => h.wf d.length
  | .diagPoke h _ _ _ d => h.wf (8 + d.length)
  | .registerWrite r _ => r.wf
  | .strokeCatch i => i.wf
  | .preambleHit _ l => decide (l.length ≤ 300)
  | .rdsGroup g => g.wf
  | .rdsSyncFound keyed => keyed.length == 53
  | .cmova _ f | .cadda _ f | .csuba _ f => f.accWf
  | .ld _ f | .st _ f => !f.rsv
  | _ => true

end Sys2Proof
end

