-- ==== Sys2Proof/Safety.lean ====
section
/-! DEFINITION. The terms in which claims about runs are stated: what it takes for an instruction or a host command to be carried
out, what it leaves when it was, and the invariant of the byte stores. -/

namespace Sys2Proof.Machine

/-! ### Sculls -/

/-- Scull `c` issues its next instruction: the array is clocked and the scull runs, no interrupt is accepted at this boundary, its
word can be fetched from a powered instance, it stands in no delay slot, repeat or loop, and nothing is on its way in the pipeline. -/
def State.plainAt (s : State) (c : Nat) : Bool :=
  let x := s.scull c
  s.scullRuns c && !x.accepts && (s.fetchTrap c x.pc).isNone && (s.inst (3 * c)).power == 2
    && x.branch.isNone && x.rpt.isNone && x.lk == 0 && x.flights.isEmpty && x.stores.isEmpty && x.agOld.isEmpty

/-- The scull after an instruction of so many cycles that does `g` and is followed by the next word: PC advances by 4, and
branches and interrupts will read SR as it stood before (R343, R362). -/
def Scull.ran (x : Scull) (cycles : Nat) (g : Scull → Scull) : Scull :=
  { g (x.tick cycles) with srPrev := x.sr, ieSeen := x.sr.getLsbD srIE, pc := x.pc + 4 }

/-- The outcome in which scull `c` alone changed, by an instruction that did `g`. -/
def State.ranOn (s : State) (c : Nat) (cycles : Nat) (g : Scull → Scull) : Out :=
  .next (s.setScull c ((s.scull c).ran cycles g))

/-- Z, N, C and V of a 16-bit result. -/
def flagsOf16 (r : BitVec 16) (carry overflow : Bool) : Flags :=
  { z := some (r == 0), n := some r.msb, c := some carry, v := some overflow }

/-- Z, N, C, V and AV of an exact 40-bit result (R353). -/
def flagsOf40 (t : Int) (carry : Bool) : Flags :=
  let r := BitVec.ofInt 40 t
  { z := some (r == 0), n := some r.msb, c := some carry
    v := some (decide (r.toInt < -2 ^ 31) || decide (2 ^ 31 ≤ r.toInt)), av := decide (t < -2 ^ 39) || decide (2 ^ 39 ≤ t) }

/-- Every access of an instruction reaches powered memory that its crew may use, and every instance is ON. -/
def State.dataOk (s : State) (c : Nat) (l : List Access) : Prop :=
  (∀ n, (s.inst n).power = 2) ∧ ∀ a ∈ l, s.dataTrap c a = none

/-- A pointer-class register written: kind 0 Pn, 1 WBn, 2 WLn, 3 WSn; its former value is still seen by address generation for two
instructions (R343, R384). -/
def Scull.putPointer (x : Scull) (kind : BitVec 2) (n : BitVec 3) (v : U32) : Scull :=
  let code : Nat := 8 + 8 * kind.toNat + n.toNat
  let y : Scull := { x with agOld := [(BitVec.ofNat 7 code, x.read 0 code, 2)] }
  if kind = 0 then { y with p := setAt v y.p n.toNat }
  else if kind = 1 then { y with wb := setAt v y.wb n.toNat }
  else if kind = 2 then { y with wl := setAt v y.wl n.toNat }
  else { y with ws := setAt v y.ws n.toNat }

/-- The value of a pointer-class register. -/
def Scull.pointer (x : Scull) (kind : BitVec 2) (n : BitVec 3) : U32 :=
  (if kind = 0 then x.p else if kind = 1 then x.wb else if kind = 2 then x.wl else x.ws).getD n.toNat 0

/-- Every reserved field of a scull instruction is zero; false for any other command. -/
def rsvClear : Instr → Bool
  | .nop _ r | .halt _ r | .idle _ r | .reti _ r | .rpt _ _ r | .loop _ _ _ r | .ei _ r | .di _ r | .call _ _ _ r | .br _ _ _ r
  | .movr _ _ _ r | .dstp _ _ _ _ r | .dend _ _ _ _ r => !r
  | .b _ _ _ | .ret _ => true
  | .mpy _ f | .mac _ f | .msu _ f => !f.rsv
  | .add _ f | .sub _ f | .adc _ f | .sbc _ f | .and _ f | .or _ f | .xor _ f | .not _ f | .mov _ f | .neg _ f | .shl _ f | .shr _ f
  | .asr _ f | .cmp _ f | .tst _ f => !f.rsv
  | .adda _ f | .suba _ f | .nega _ f | .clra _ f | .mova _ f | .lda _ f | .addd _ f | .subd _ f | .asla _ f | .asra _ f | .qmrg _ f
  | .cmpa _ f => !f.rsv
  | .ld _ f | .st _ f => !f.rsv
  | .sacc _ f => !f.rsv
  | .setl _ f | .seth _ f | .addi _ f | .modp _ f => !f.rsv
  | .cmov _ f | .cadd _ f | .csub _ f => !f.rsv
  | .cmova _ f | .cadda _ f | .csuba _ f => f.accWf && !f.rsv
  | _ => false

/-! ### Host commands -/

/-- The device takes a command of opcode `op` and no common check stops it: READY is set, its transport is on, its header is as R39
asks, its payload within the limit of its transport, its tag is free and not answered from the cache, a tag credit is left, the device is neither in recovery nor in EASY, and no
other message stands in the inbound FIFO. What remains are the command's own checks. -/
def State.takes (s : State) (h : Hdr) (op : Nat) : Bool :=
  s.links.ready && s.reachable h.src && hdrClean h && h.tag != 0 && (s.outstanding h.tag).isNone && (s.cached h op).isNone
    && decide (s.links.tags.length < 64) && !s.boot.recovery && s.pwr.st != .easy && s.pwr.entering != some .easy
    && decide (s.links.inFifo.length ≤ 20 + h.len) && decide (h.len ≤ payloadLimit h.src)

/-- The host links once the message of `h` is taken: its arrival is noted, its bytes leave the inbound FIFO when they stand there (R50). -/
def State.taken (s : State) (h : Hdr) (op : Nat) : Links :=
  let f := s.links.inFifo
  let mine := h.src == .spi && headOf 4096 f == .whole (20 + h.len) && fieldAt 4 2 f == op && fieldAt 6 2 f == h.tag.toNat
  { s.links with lastMsg := some s.dtime, inFifo := if mine then [] else f }

/-- The host links once the command of `h` passed every check: a UDP source is noted for events as well (R59). -/
def State.accepted (s : State) (h : Hdr) (op : Nat) : Links :=
  let l := s.taken h op
  { l with lastUdp := if h.src == .spi then l.lastUdp else some h.src }

/-- Links over which the final reply to `h` waits to be sent, with FINAL set; it enters the reply cache (R38, R40, R42). -/
def Links.reply (l : Links) (now : Nat) (h : Hdr) (op : Nat) (st : Status) (payload : Bytes) : Links :=
  let m : OutMsg :=
    { kind := .reply, opcode := op, tag := h.tag, flags := 0x2000, status := st.code, payload := payload, dst := h.src, recs := [] }
  { l with waiting := l.waiting ++ [m]
           cache := ({ tag := h.tag, opcode := op, crc := h.crc, msg := m, sentAt := now } :: l.cache).take 64 }

/-- Links over which the tag of `h` is outstanding (R40). -/
def Links.held (l : Links) (now : Nat) (h : Hdr) (op : Nat) (long : Bool) (total : Nat) : Links :=
  { l with tags := l.tags ++ [{ tag := h.tag, opcode := op, crc := h.crc, src := h.src, received := now, long := long
                                stepAt := now, done := 0, total := total }] }

/-- Links over which a QUEUED reply to `h` waits, FINAL clear (R44). -/
def Links.queued (l : Links) (h : Hdr) (op : Nat) : Links :=
  { l with waiting := l.waiting ++ [{ kind := .reply, opcode := op, tag := h.tag, flags := 0, status := Status.queued.code, payload := []
                                      dst := h.src, recs := [] }] }

/-- The command was carried out and its final reply waits; nothing else of the links changed. -/
def State.answered (t s : State) (h : Hdr) (op : Nat) (st : Status) (payload : Bytes) : Prop :=
  t.links = (s.accepted h op).reply s.dtime h op st payload

/-- The command was accepted and its tag is outstanding; nothing else of the links changed. -/
def State.holds (t s : State) (h : Hdr) (op : Nat) : Prop := t.links = (s.accepted h op).held s.dtime h op false 1

/-- The command was accepted with a QUEUED reply and its tag is outstanding; nothing else of the links changed. -/
def State.queuedFor (t s : State) (h : Hdr) (op : Nat) (long : Bool) (total : Nat) : Prop :=
  t.links = ((s.accepted h op).held s.dtime h op long total).queued h op

/-- The command was turned away with its final reply and had no other effect. -/
def State.turnedAway (s : State) (h : Hdr) (op : Nat) (st : Status) (payload : Bytes) : Out :=
  .next { s with links := (s.taken h op).reply s.dtime h op st payload }

/-- An event of a code with a payload waits (R63, R64). -/
def State.announced (t : State) (code : Nat) (fields : Bytes) : Prop :=
  ∃ m ∈ t.links.events, m.opcode = code ∧ m.payload.drop 12 = fields

/-- The byte stores of the machine are in their canonical form. -/
def State.storesWf (s : State) : Bool := s.mem.wf && cellsWf cfgReset s.cfg.active && cellsWf cfgReset s.cfg.shadow

end Sys2Proof.Machine
end

