-- ==== Sys2Proof/Certificates/Slice0/Obligations.lean ====
section
/-! DEFINITION. The statements for the provers. -/

open Sys2Proof Sys2Proof.Machine

/-! ### Scull instructions -/

/-- R376: each two-operand ALU instruction writes its 16-bit result to DD and Z, N, C and V, and changes nothing else. -/
def Obligations.AluResults : Prop :=
  ∀ (c : Fin 64) (f : AluF) (s : State), s.plainAt c = true → f.rsv = false →
    let x := s.scull c
    let a := x.dReg f.ds
    let b := x.opnd f.op
    let k : Nat := if x.sr.getLsbD srC then 1 else 0
    let out (t : Int) : Bool := decide (t < -2 ^ 15) || decide (2 ^ 15 ≤ t)
    let done (r : BitVec 16) (carry overflow : Bool) : Out := s.ranOn c 1 fun y => (y.setD f.dd r).flag (flagsOf16 r carry overflow)
    exec (.add c f) s = done (a + b) (decide (2 ^ 16 ≤ a.toNat + b.toNat)) (out (a.toInt + b.toInt))
    ∧ exec (.sub c f) s = done (a - b) (decide (a.toNat < b.toNat)) (out (a.toInt - b.toInt))
    ∧ exec (.adc c f) s = done (a + b + BitVec.ofNat 16 k) (decide (2 ^ 16 ≤ a.toNat + b.toNat + k)) (out (a.toInt + b.toInt + k))
    ∧ exec (.sbc c f) s = done (a - b - BitVec.ofNat 16 k) (decide (a.toNat < b.toNat + k)) (out (a.toInt - b.toInt - k))
    ∧ exec (.and c f) s = done (a &&& b) false false
    ∧ exec (.or c f) s = done (a ||| b) false false
    ∧ exec (.xor c f) s = done (a ^^^ b) false false
    ∧ (f.ds = 0 → exec (.not c f) s = done (~~~b) false false
      ∧ exec (.mov c f) s = done b false false
      ∧ exec (.neg c f) s = done (-b) (decide (0 < b.toNat)) (decide (b.toInt = -32768)))
    ∧ (f.dd = 0 →
      exec (.cmp c f) s = (s.ranOn c 1 fun y => y.flag (flagsOf16 (a - b) (decide (a.toNat < b.toNat)) (out (a.toInt - b.toInt))))
      ∧ exec (.tst c f) s = (s.ranOn c 1 fun y => y.flag (flagsOf16 (a &&& b) false false)))

/-- R376, R377: the shifts take their count from bits [4:0] of the operand, shift in zeros or copies of bit 15, and leave the last bit
shifted out in C, 0 for a count of 0. -/
def Obligations.ShiftResults : Prop :=
  ∀ (c : Fin 64) (f : AluF) (s : State), s.plainAt c = true → f.rsv = false →
    let x := s.scull c
    let a := x.dReg f.ds
    let n := (x.opnd f.op).toNat % 32
    let done (r : BitVec 16) (carry : Bool) : Out := s.ranOn c 1 fun y => (y.setD f.dd r).flag (flagsOf16 r carry false)
    exec (.shl c f) s = done (BitVec.ofNat 16 (a.toNat * 2 ^ n)) (decide (a.toNat * 2 ^ n / 65536 % 2 = 1))
    ∧ exec (.shr c f) s = done (BitVec.ofNat 16 (a.toNat / 2 ^ n)) (decide (2 * a.toNat / 2 ^ n % 2 = 1))
    ∧ exec (.asr c f) s = done (BitVec.ofInt 16 (a.toInt / 2 ^ n)) (decide (2 * a.toInt / 2 ^ n % 2 = 1))

/-- R353, R378: each accumulator instruction writes An, Z, N, C and V, and sets AV where it is said to, and changes nothing else. -/
def Obligations.AccumulatorResults : Prop :=
  ∀ (c : Fin 64) (f : AccF) (s : State), s.plainAt c = true → f.rsv = false →
    let x := s.scull c
    let a := x.acc f.an
    let m := x.acc f.am
    let d : Int := (x.dReg f.dx).toInt * 65536
    let d40 := BitVec.ofInt 40 d
    let arith (t : Int) (carry : Bool) : Out := s.ranOn c 1 fun y => (y.setAcc f.an (BitVec.ofInt 40 t)).flag (flagsOf40 t carry)
    let still (t : Int) (carry : Bool) : Out :=
      s.ranOn c 1 fun y => (y.setAcc f.an (BitVec.ofInt 40 t)).flag { flagsOf40 t carry with av := false }
    (f.dx = 0 → f.k = 0 →
      exec (.adda c f) s = arith (a.toInt + m.toInt) (decide (2 ^ 40 ≤ a.toNat + m.toNat))
      ∧ exec (.suba c f) s = arith (a.toInt - m.toInt) (decide (a.toNat < m.toNat))
      ∧ exec (.nega c f) s = arith (-m.toInt) (decide (0 < m.toNat))
      ∧ exec (.mova c f) s = still m.toInt false
      ∧ exec (.cmpa c f) s = s.ranOn c 1 fun y => y.flag (flagsOf40 (a.toInt - m.toInt) (decide (a.toNat < m.toNat))))
    ∧ (f.am = 0 → f.k = 0 →
      exec (.lda c f) s = still d false
      ∧ exec (.addd c f) s = arith (a.toInt + d) (decide (2 ^ 40 ≤ a.toNat + d40.toNat))
      ∧ exec (.subd c f) s = arith (a.toInt - d) (decide (a.toNat < d40.toNat)))
    ∧ (f.am = 0 → f.dx = 0 → f.k = 0 → exec (.clra c f) s = still 0 false)
    ∧ (f.dx = 0 → f.k.toNat ≤ 39 →
      exec (.asla c f) s = arith (m.toInt * 2 ^ f.k.toNat) (decide (m.toNat * 2 ^ f.k.toNat / 2 ^ 40 % 2 = 1))
      ∧ exec (.asra c f) s = still (m.toInt / 2 ^ f.k.toNat) (decide (2 * m.toNat / 2 ^ f.k.toNat % 2 = 1)))
    ∧ (2 ≤ f.an.toNat → f.am = 0 → f.dx = 0 → f.k = 0 →
      exec (.qmrg c f) s = s.ranOn c 1 fun y =>
        ((y.setAcc f.an (BitVec.ofInt 40 (a.toInt + (x.residue f.an).toNat))).setResidue f.an 0).flag
          (flagsOf40 (a.toInt + (x.residue f.an).toNat) (decide (2 ^ 40 ≤ a.toNat + (x.residue f.an).toNat))))

/-- R353, R375: a MAC instruction forms the exact product of its two int16 operands, from registers, the X slot, the Y slot or the
coefficient, and multiplies, accumulates or subtracts it into ACC1; a dual one does so for ACC2 as well. A single one without
post-modify sets Z, N, C, V and AV from its result. Only the issuing scull changes. -/
def Obligations.MacResults : Prop :=
  ∀ (c : Fin 64) (f : MacF) (s : State), s.plainAt c = true → (∀ n, (s.inst n).power = 2) → macBad f = false →
    (∀ op, s.effTrap c (s.macEff c op f (s.scull c)) = none) →
    let x := s.scull c
    let mem (r : BitVec 3) : Int := signed 16 (ofLe (s.scullBytes c (x.ptr r).toNat 2))
    let u : Int := if f.s1 then mem f.r1 else (x.dReg f.r1).toInt
    let v : Int := if f.s2 = 0 then (x.dReg f.r2).toInt else if f.s2 = 1 then mem f.r2 else mem 7
    let exact (op : Nat) (a : BitVec 40) (p : Int) : Int := if op = 0 then p else if op = 1 then a.toInt + p else a.toInt - p
    let carry (op : Nat) (a : BitVec 40) (p : Int) : Bool :=
      if op = 0 then false else if op = 1 then decide (2 ^ 40 ≤ a.toNat + (p % 2 ^ 40).toNat) else decide (a.toNat < (p % 2 ^ 40).toNat)
    let done (op : Nat) (out : Out) : Prop :=
      ∃ t, out = .next t ∧ t = s.setScull c (t.scull c) ∧ (t.scull c).pc = x.pc + 4 ∧ (t.scull c).d = x.d ∧
        let t1 := exact op (x.acc f.acc1) (u * v)
        let a1 := setAt (BitVec.ofInt 40 t1) x.a f.acc1.toNat
        match f.dual with
        | none => (t.scull c).a = a1 ∧ ((f.pm1 || f.pm2 || f.s2 == 2) = false → (t.scull c).sr = (flagsOf40 t1 (carry op (x.acc f.acc1) (u * v))).apply x.sr)
        | some w =>
          let v2 : Int := if w.s4 then (x.dReg w.r4).toInt else v
          let t2 := exact w.op2.toNat (x.acc w.acc2) ((x.dReg w.r3).toInt * v2)
          (t.scull c).a = setAt (BitVec.ofInt 40 t2) a1 w.acc2.toNat
    done 0 (exec (.mpy c f) s) ∧ done 1 (exec (.mac c f) s) ∧ done 2 (exec (.msu c f) s)

/-- R386, R387: a division step subtracts or adds the divisor to the shifted remainder and shifts in the quotient bit; the end writes
the quotient to DD, the corrected remainder to An, and Z, N, C and V. -/
def Obligations.DivisionResults : Prop :=
  ∀ (c : Fin 64) (first : Bool) (an : BitVec 2) (ds dd : BitVec 3) (s : State), s.plainAt c = true →
    let x := s.scull c
    let a := x.acc an
    let d := (x.dReg ds).toInt
    let dq := x.sr.getLsbD 7
    let r : Int := 2 * a.toInt / 65536 + (if first || dq then -d else d)
    let qb : Bool := decide (0 ≤ r)
    let rem : Int := a.toInt / 65536 + (if dq then 0 else d)
    exec (.dstp c first an ds false) s = (s.ranOn c 1 fun y =>
      (y.setAcc an (BitVec.ofInt 40 (r * 65536 + 2 * a.toInt % 65536 + (if qb then 1 else 0)))).flag
        { dq := some qb, c := some qb, v := some (decide (d ≤ 0)) })
    ∧ exec (.dend c an ds dd false) s = (s.ranOn c 1 fun y =>
      ((y.setD dd (a.extractLsb' 0 16)).setAcc an (BitVec.ofInt 40 (rem * 65536))).flag
        (flagsOf16 (a.extractLsb' 0 16) false false))

/-- R379: a conditional instruction does its operation when the condition holds on SR and writes nothing else; AV is the only flag,
set by the accumulator sums. A false condition writes nothing. -/
def Obligations.ConditionalResults : Prop :=
  ∀ (c : Fin 64) (f : CondF) (s : State), s.plainAt c = true → f.rsv = false →
    let x := s.scull c
    let z := x.sr.getLsbD 0
    let n := x.sr.getLsbD 1
    let k := x.sr.getLsbD 2
    let v := x.sr.getLsbD 3
    let holds : Bool := [true, z, !z, n != v, n == v, z || n != v, !z && n == v, n, !n, k, !k, v, !v, x.sr.getLsbD 4, x.sr.getLsbD 5,
      false].getD f.cond.toNat false
    let done (g : Scull → Scull) : Out := s.ranOn c 1 fun y => if holds then g y else y
    let a := x.dReg f.dst
    let b := x.dReg f.src
    let an : BitVec 2 := f.dst.extractLsb' 0 2
    let am : BitVec 2 := f.src.extractLsb' 0 2
    let sum : Int := (x.acc an).toInt + (x.acc am).toInt
    let diff : Int := (x.acc an).toInt - (x.acc am).toInt
    let wide (t : Int) (y : Scull) : Scull :=
      (y.setAcc an (BitVec.ofInt 40 t)).flag { av := decide (t < -2 ^ 39) || decide (2 ^ 39 ≤ t) }
    exec (.cmov c f) s = done (fun y => y.setD f.dst b)
    ∧ exec (.cadd c f) s = done (fun y => y.setD f.dst (a + b))
    ∧ exec (.csub c f) s = done (fun y => y.setD f.dst (a - b))
    ∧ (f.accWf = true →
      exec (.cmova c f) s = done (fun y => y.setAcc an (x.acc am))
      ∧ exec (.cadda c f) s = done (wide sum)
      ∧ exec (.csuba c f) s = done (wide diff))

/-- R354, R382: a store of an accumulator forms floor(A / 2^s), rounded half up for A0 and A1, saturates it to the width with SV, adds
what A2 and A3 lose to their residue register, and writes it to a D register, or puts it on its way to memory.
No flag but SV and AV changes, a circular post-modify apart, which may set CW. -/
def Obligations.SaccResults : Prop :=
  ∀ (c : Fin 64) (f : SaccF) (s : State), s.plainAt c = true → saccBad f = false →
    let x := s.scull c
    let w : Nat := if f.w32 then 32 else 16
    let a := x.acc f.acc
    let half : Int := if f.acc.toNat < 2 ∧ f.sh ≠ 0 then 2 ^ (f.sh.toNat - 1) else 0
    let r : Int := (a.toInt + half) / 2 ^ f.sh.toNat
    let high : Bool := decide (2 ^ (w - 1) - 1 < r)
    let low : Bool := decide (r < -2 ^ (w - 1))
    let value : Int := if high then 2 ^ (w - 1) - 1 else if low then -2 ^ (w - 1) else r
    let loss : Nat := (a.toInt - r * 2 ^ f.sh.toNat).toNat
    let q : Nat := (x.residue f.acc).toNat + loss
    let ledger : Bool := decide (2 ≤ f.acc.toNat) && !(high || low)
    let keep (y : Scull) : Scull :=
      (if ledger then y.setResidue f.acc (BitVec.ofNat 40 q) else y).flag { sv := high || low, av := ledger && decide (2 ^ 40 ≤ q) }
    let place := x.memAddr f.ptr f.am f.imm
    (f.toD = true → exec (.sacc c f) s = s.ranOn c 1 fun y => (keep y).setD f.ptr (BitVec.ofInt 16 value))
    ∧ (f.toD = false → s.dataOk c [{ addr := place.1, n := w / 8, write := true }] →
      ∃ t, exec (.sacc c f) s = .next t ∧ t = s.setScull c (t.scull c) ∧ (t.scull c).pc = x.pc + 4
        ∧ (t.scull c).q2 = (keep x).q2 ∧ (t.scull c).q3 = (keep x).q3 ∧ (t.scull c).a = x.a
        ∧ (t.scull c).sr &&& 0xFFBF#16 = (keep x).sr &&& 0xFFBF#16
        ∧ ((x.memAddr f.ptr f.am f.imm).2 = none → (t.scull c).sr = (keep x).sr)
        ∧ (t.scull c).stores.map (fun k => (k.left, k.bytes)) = [(2, le (w / 8) (value % 2 ^ w).toNat)])

/-- R367, R383, R384: SETL, SETH and ADDI write a pointer-class register, which address generation sees from the third instruction on; MODP
post-modifies a pointer for the next one; MOVR moves the value of any register to a data register, to a part of an accumulator, the rest of
it unchanged, or into SR under its mask, and completes for every other destination. -/
def Obligations.PointerAndMoveResults : Prop :=
  ∀ (c : Fin 64) (s : State), s.plainAt c = true →
    let x := s.scull c
    (∀ f : PtrF, f.rsv = false →
      let old := x.pointer f.kind f.n
      exec (.setl c f) s = s.ranOn c 1 (fun y => y.putPointer f.kind f.n (f.imm.zeroExtend 32))
      ∧ exec (.seth c f) s = s.ranOn c 1 (fun y => y.putPointer f.kind f.n (f.imm ++ old.extractLsb' 0 16))
      ∧ exec (.addi c f) s = s.ranOn c 1 (fun y => y.putPointer f.kind f.n (old + f.imm.signExtend 32))
      ∧ (f.kind = 0 → x.wl.getD f.n.toNat 0 = 0 →
        exec (.modp c f) s = s.ranOn c 1 fun y => { y with p := setAt (old + f.imm.signExtend 32) y.p f.n.toNat }))
    ∧ (∀ rs : BitVec 7, regCode rs.toNat = true →
      let v := x.read (x.pc + 8) rs.toNat
      let lo : BitVec 16 := v.extractLsb' 0 16
      let done (g : Scull → Scull) : Out := s.ranOn c 1 fun y => g (y.afterRead rs.toNat)
      (∀ rd : BitVec 3, exec (.movr c (rd.zeroExtend 7) rs false) s = done fun y => y.setD rd lo)
      ∧ (∀ n : BitVec 2, let a := x.acc n
        exec (.movr c (0x28#7 + n.zeroExtend 7) rs false) s = done (fun y => y.setAcc n (a.extractLsb' 16 24 ++ lo))
        ∧ exec (.movr c (0x2C#7 + n.zeroExtend 7) rs false) s = done (fun y => y.setAcc n (a.extractLsb' 32 8 ++ lo ++ a.extractLsb' 0 16))
        ∧ exec (.movr c (0x30#7 + n.zeroExtend 7) rs false) s = done (fun y => y.setAcc n (v.extractLsb' 0 8 ++ a.extractLsb' 0 32)))
      ∧ exec (.movr c 0x40#7 rs false) s = done (fun y => { y with sr := lo &&& 0x80FF#16 })
      ∧ (∀ rd : BitVec 7, regCode rd.toNat = true → ∃ t, exec (.movr c rd rs false) s = .next t ∧ (t.scull c).pc = x.pc + 4 ∧ t.mem = s.mem
          ∧ (8 ≤ rd.toNat → (t.scull c).d = x.d)))

/-- R343, R380, R381: a load forms the little-endian value at its address, extends it, and puts it on its way to its register; the
instruction after it does not yet see the value, and completes the load. -/
def Obligations.LoadResults : Prop :=
  ∀ (c : Fin 64) (f : MemF) (s : State), s.plainAt c = true → memBad f = false →
    let x := s.scull c
    let a := (x.memAddr f.ptr f.am f.imm).1
    let n := 2 ^ f.w.toNat
    isDma a = false → s.dataOk c [{ addr := a, n := n, write := false }] →
    let m := ofLe (s.scullBytes c a n)
    let v : U64 := if f.sx ∧ 2 ^ (8 * n - 1) ≤ m then BitVec.ofNat 64 (2 ^ 32 - 2 ^ (8 * n) + m) else BitVec.ofNat 64 m
    ∃ t, exec (.ld c f) s = .next t ∧ t = s.setScull c (t.scull c) ∧ (t.scull c).pc = x.pc + 4 ∧ (t.scull c).d = x.d ∧ (t.scull c).a = x.a
      ∧ (t.scull c).flights = [{ left := 1, code := f.reg, value := v, wide := f.w == 3 }]
      ∧ (f.reg.toNat < 8 → x.pc.toNat + 4 < 0x8000 → (t.scull c).accepts = false →
        ∃ u, exec (.nop c false) t = .next u ∧ (u.scull c).d = setAt (v.extractLsb' 0 16) x.d f.reg.toNat
          ∧ (u.scull c).flights = [])

/-- R343, R380, R381: a store takes the low bytes of its register and puts them on their way to its address; after two more
instructions they stand in memory, and no other byte of memory changed. -/
def Obligations.StoreResults : Prop :=
  ∀ (c : Fin 64) (f : MemF) (s : State), s.plainAt c = true → memBad f = false → f.sx = false →
    let x := s.scull c
    let a := (x.memAddr f.ptr f.am f.imm).1
    let n := 2 ^ f.w.toNat
    isDma a = false → s.dataOk c [{ addr := a, n := n, write := true }] → x.pc.toNat + 8 < 0x8000 → x.causes = 0 → s.mem.wf = true →
    ∃ t u v sys, exec (.st c f) s = .next t ∧ exec (.nop c false) t = .next u ∧ exec (.nop c false) u = .next v
      ∧ s.scullAddr c a true = some sys ∧ (v.scull c).pc = x.pc + 12
      ∧ (t.mem = s.mem ∧ u.mem = s.mem)
      ∧ v.memRead sys n = le n (if f.w = 3 then (x.whole f.reg.toNat).toNat else (x.read (x.pc + 8) f.reg.toNat).toNat)
      ∧ (∀ b, b < sys ∨ sys + n ≤ b → v.memByte b = s.memByte b)

/-- R344, R351, R372, R373: a branch decides on the flags of the instruction before the last, its two delay slots run in any case, and
then issue goes to the target, or on after the slots; CALL leaves the return address in LR when taken; RET goes to LR and RETI to
IPC, with SR restored from ISS. -/
def Obligations.BranchResults : Prop :=
  ∀ (c : Fin 64) (s : State), s.plainAt c = true → (s.scull c).pc.toNat + 8 < 0x8000 →
    let x := s.scull c
    let after (i : Instr) (goal : Option U32) (lr : U32) (sr : U16) : Prop :=
      ∃ t u v, exec i s = .next t ∧ exec (.nop c false) t = .next u ∧ exec (.nop c false) u = .next v
        ∧ (t.scull c).pc = x.pc + 4 ∧ (u.scull c).pc = x.pc + 8 ∧ (v.scull c).pc = goal.getD (x.pc + 12)
        ∧ (v.scull c).lr = lr ∧ (v.scull c).sr = sr ∧ (v.scull c).branch = none ∧ (v.scull c).d = x.d
        ∧ t = s.setScull c (t.scull c) ∧ v = s.setScull c (v.scull c)
    let aligned (w : U32) : U32 := w &&& ~~~3#32
    ∀ (cond : BitVec 4) (ofs : BitVec 22) (n : BitVec 3),
      let holds := condHolds cond x.srPrev
      let rel : U32 := x.pc + 4 * ofs.signExtend 32
      let code : BitVec 7 := 8 + n.zeroExtend 7
      after (.b c cond ofs) (if holds then some rel else none) x.lr x.sr
      ∧ after (.call c cond (.rel ofs) false) (if holds then some rel else none) (if holds then x.pc + 12 else x.lr) x.sr
      ∧ after (.call c cond (.reg code) false) (if holds then some (aligned (x.pointer 0 n)) else none) (if holds then x.pc + 12 else x.lr) x.sr
      ∧ after (.br c cond code false) (if holds then some (aligned (x.pointer 0 n)) else none) x.lr x.sr
      ∧ after (.br c cond 0x44#7 false) (if holds then some (aligned x.lr) else none) x.lr x.sr
      ∧ after (.br c cond 0x45#7 false) (if holds then some (aligned x.ipc) else none) x.lr x.sr
      ∧ after (.call c cond (.reg 0x44#7) false) (if holds then some (aligned x.lr) else none) (if holds then x.pc + 12 else x.lr) x.sr
      ∧ after (.ret c) (some (aligned x.lr)) x.lr x.sr
      ∧ after (.reti c false) (some x.ipc) x.lr (x.iss &&& 0x80FF#16)

/-- R346, R347, R370, R371: NOP only advances; EI and DI set and clear IE; RPT and LOOP set their count and go on at the next word,
which RPT with a count of 0 and LOOP with a count of 0 step over; HALT stops issue with RUN clear, and IDLE waits while no cause is
pending and enabled. -/
def Obligations.ControlResults : Prop :=
  ∀ (c : Fin 64) (s : State), s.plainAt c = true →
    let x := s.scull c
    exec (.nop c false) s = s.ranOn c 1 id
    ∧ exec (.ei c false) s = (s.ranOn c 1 fun y => { y with sr := y.sr ||| 0x8000#16 })
    ∧ exec (.di c false) s = (s.ranOn c 1 fun y => { y with sr := y.sr &&& 0x7FFF#16 })
    ∧ (∀ k : Count, let n : U16 := match k with | .imm n => n | .reg d => x.dReg d
        ∃ t, exec (.rpt c k false) s = .next t ∧ t = s.setScull c (t.scull c) ∧ (t.scull c).lc = n
        ∧ (t.scull c).pc = (if n = 0 then x.pc + 8 else x.pc + 4) ∧ (t.scull c).rpt = (if n = 0 then none else some (x.pc + 4)))
    ∧ (∀ (m : Count) (k : BitVec 3), let n : U16 := match m with | .imm n => n | .reg d => x.dReg d
        ∃ t, exec (.loop c m k false) s = .next t ∧ t = s.setScull c (t.scull c) ∧ (t.scull c).lk = n
        ∧ (t.scull c).pc = (if n = 0 then x.pc + BitVec.ofNat 32 (4 * k.toNat + 8) else x.pc + 4)
        ∧ (n ≠ 0 → (t.scull c).loopAt = x.pc + 4 ∧ (t.scull c).loopK = k.toNat + 1))
    ∧ (∃ t, exec (.halt c false) s = .next t ∧ t = s.setScull c (t.scull c) ∧ (t.scull c).halted = true ∧ (t.scull c).run = false
        ∧ (t.scull c).pc = x.pc + 4 ∧ t.scullRuns c = false)
    ∧ (∃ t, exec (.idle c false) s = .next t ∧ t = s.setScull c (t.scull c) ∧ (t.scull c).idle = (x.causes == 0)
        ∧ (t.scull c).pc = x.pc + 4)

/-- R351, R352, R363: an instruction with a reserved field, code or combination is not carried out: with no fault active it records
ILLEGAL and its own address, saves SR and the address, clears IE and goes to cause 0 of the vector base; with one active it halts
the scull. Either way no data register, accumulator or memory byte changes. -/
def Obligations.IllegalInstructionsTrap : Prop :=
  ∀ (c : Fin 64) (s : State), s.plainAt c = true →
    let x := s.scull c
    let traps (i : Instr) : Prop :=
      ∃ t, exec i s = .next t ∧ t = s.setScull c (t.scull c) ∧ (t.scull c).d = x.d ∧ (t.scull c).a = x.a ∧ (t.scull c).p = x.p
        ∧ (if x.fsr.getLsbD 15 then (t.scull c).halted = true ∧ (t.scull c).run = false ∧ (t.scull c).fsr = x.fsr
           else (t.scull c).fsr = 0x8001#16 ∧ (t.scull c).faddr = x.pc ∧ (t.scull c).ipc = x.pc ∧ (t.scull c).iss = x.sr
             ∧ (t.scull c).sr = x.sr &&& 0x7FFF#16 ∧ (t.scull c).pc = x.vb &&& ~~~0x1FF#32)
    (∀ f : AluF, f.rsv = true → traps (.add c f) ∧ traps (.cmp c f))
    ∧ (∀ f : MacF, f.s2 = 3 → traps (.mpy c f) ∧ traps (.mac c f) ∧ traps (.msu c f))
    ∧ (∀ f : AccF, 40 ≤ f.k.toNat → traps (.asla c f) ∧ traps (.asra c f) ∧ traps (.adda c f))
    ∧ (∀ f : MemF, f.reg = 0x3A#7 → traps (.ld c f) ∧ traps (.st c f))
    ∧ (∀ f : SaccF, f.w32 = true → f.toD = true → traps (.sacc c f))
    ∧ (∀ cond : BitVec 4, traps (.br c cond 0x40#7 false)) ∧ traps (.nop c true) ∧ traps (.movr c 0x0#7 0x0#7 true)

/-- R349 to R351, R371: an accepted interrupt saves SR and the address of the next instruction, clears IE and the cause's IPR bit, and
goes to VB + 64 × cause, highest cause first; a scull in IDLE goes on when a cause is pending and enabled, into the handler where IE
is set. -/
def Obligations.InterruptEntries : Prop :=
  ∀ (c : Fin 64) (s : State),
    let x := s.scull c
    let w := x.ipr &&& x.imr
    ∀ cause : Nat, 1 ≤ cause → cause ≤ 5 → w.getLsbD cause = true → (∀ k, cause < k → k ≤ 5 → w.getLsbD k = false) →
      x.flights = [] → x.stores = [] → x.agOld = [] →
      let entered (t : State) : Prop :=
        t = s.setScull c (t.scull c) ∧ (t.scull c).ipc = x.pc ∧ (t.scull c).iss = x.sr ∧ (t.scull c).sr = x.sr &&& 0x7FFF#16
          ∧ (t.scull c).ipr = x.ipr &&& ~~~(1#8 <<< cause) ∧ (t.scull c).pc = (x.vb &&& ~~~0x1FF#32) + BitVec.ofNat 32 (64 * cause)
          ∧ (t.scull c).d = x.d
      (s.scullRuns c = true → x.ieSeen = true → x.branch = none → x.rpt = none →
        ∃ t, exec (.interruptEntry c) s = .next t ∧ entered t)
      ∧ (∀ waited : Nat, x.idle = true → x.sr.getLsbD 15 = true → ∃ t, exec (.idleResume c waited) s = .next t ∧ entered t)
      ∧ (∀ waited : Nat, x.idle = true → x.sr.getLsbD 15 = false →
          ∃ t, exec (.idleResume c waited) s = .next t ∧ t = s.setScull c (t.scull c) ∧ (t.scull c).idle = false ∧ (t.scull c).pc = x.pc)

/-- R357, R359: a write of STK_DONE that lies after DONE and not after STROKE_LO − 1 in 32-bit order is taken, with the stroke for its
crew; any other sets ERR and leaves DONE. A read of STK_STAT gives MISSED_CNT, ERR, BEHIND, MISSED and RUN and clears MISSED_CNT; a read
of STK_LO latches the upper half of the stroke number. -/
def Obligations.StrokeInterface : Prop :=
  ∀ (c : Fin 64) (v : U32) (s : State),
    let x := s.scull c
    let after (a b : U32) : Prop := 1 ≤ (b - a).toNat ∧ (b - a).toNat < 2 ^ 31
    (∃ t, exec (.stkDoneWrite c v) s = .next t
      ∧ (if after x.stkDone v ∧ ¬ after (x.stkLo - 1) v then
           (t.scull c).stkDone = v ∧ (t.scull c).err = x.err ∧ (t.crew (c / 8)).doneAt = s.stroke
         else (t.scull c).stkDone = x.stkDone ∧ (t.scull c).err = true ∧ t.arr.crews = s.arr.crews))
    ∧ (∃ t, exec (.stkStatRead c) s = .next t ∧ t = s.setScull c (t.scull c) ∧ (t.scull c).missedCnt = 0
      ∧ (t.scull c).readBus = BitVec.ofNat 32 (65536 * x.missedCnt.toNat + (if x.err then 8 else 0) + (if x.behind then 4 else 0)
          + (if x.missed then 2 else 0) + (if x.run then 1 else 0)))
    ∧ (∃ t, exec (.stkLoRead c) s = .next t ∧ t = s.setScull c (t.scull c) ∧ (t.scull c).readBus = x.stkLo
      ∧ (t.scull c).stkHi = BitVec.ofNat 32 (x.stroke / 2 ^ 32))

/-- R400 to R402: GO queues the descriptor of DMA_SRC, DMA_DST and DMA_LEN, or sets OVF when four are queued; a read of DMA_STAT clears
DONE_CNT; a descriptor that its crew may read and write, over instances that are ON, copies its bytes and no others; one that it may not
read or write ends with ERR and no byte copied; either leaves the queue with its completion counted and IPR bit 4 set; a starved channel sets STARVED and raises EV_DMA_STARVED. -/
def Obligations.DmaChannel : Prop :=
  ∀ (c : Fin 64) (s : State),
    let x := s.scull c
    (x.dmaQ.length < 4 → x.dmaLen ≠ 0 → (∀ d ∈ x.dmaQ, d.len ≠ 0) →
      ∃ t, exec (.dmaGo c 1) s = .next t ∧ t = s.setScull c (t.scull c)
        ∧ (t.scull c).dmaQ = x.dmaQ ++ [{ src := x.dmaSrc, dst := x.dmaDst, len := x.dmaLen.toNat }] ∧ (t.scull c).ovf = x.ovf)
    ∧ (4 ≤ x.dmaQ.length →
      ∃ t, exec (.dmaGo c 1) s = .next t ∧ (t.scull c).dmaQ = x.dmaQ ∧ (t.scull c).ovf = true)
    ∧ (x.dmaQ.length ≤ 4 → ∃ t, exec (.dmaStatRead c) s = .next t ∧ t = s.setScull c (t.scull c) ∧ (t.scull c).doneCnt = 0
        ∧ (t.scull c).readBus.toNat / 65536 = x.doneCnt.toNat ∧ (t.scull c).readBus.toNat / 16 % 8 = x.dmaQ.length
        ∧ (t.scull c).readBus.getLsbD 0 = !x.dmaQ.isEmpty)
    ∧ (∀ d rest, x.dmaQ = d :: rest → d.len ≠ 0 → s.dmaMay c d.src.toNat false = false → (∀ r ∈ rest, r.len ≠ 0) →
      s.mem.refresh = false →
      ∃ t, exec (.dmaDone c) s = .next t ∧ t.mem.cells = s.mem.cells ∧ (t.scull c).dmaQ = rest ∧ (t.scull c).dmaErr = true
        ∧ (t.scull c).ipr = x.ipr ||| 0x10#8 ∧ (x.doneCnt ≠ 0xFFFF#16 → (t.scull c).doneCnt = x.doneCnt + 1))
    ∧ (∀ d rest, x.dmaQ = d :: rest → d.len ≠ 0 → (∀ r ∈ rest, r.len ≠ 0) → s.mem.wf = true → (∀ n, (s.inst n).power = 2) →
      let src := d.src.toNat
      let dst := d.dst.toNat
      (∀ i, i < d.len → (∃ n, s.place (src + i) = .inst n) ∧ (∃ n, s.place (dst + i) = .inst n)
        ∧ s.dmaMay c (src + i) false = true ∧ s.dmaMay c (dst + i) true = true) →
      (src + d.len ≤ dst ∨ dst + d.len ≤ src) →
      ∃ t, exec (.dmaDone c) s = .next t ∧ (t.scull c).dmaQ = rest ∧ (t.scull c).dmaErr = x.dmaErr
        ∧ (t.scull c).ipr = x.ipr ||| 0x10#8 ∧ (x.doneCnt ≠ 0xFFFF#16 → (t.scull c).doneCnt = x.doneCnt + 1)
        ∧ (∀ i, i < d.len → t.memByte (dst + i) = s.memByte (src + i))
        ∧ ∀ a, (a < dst ∨ dst + d.len ≤ a) → t.memByte a = s.memByte a)
    ∧ (x.dmaQ ≠ [] → x.starved = false →
      ∃ t, exec (.dmaStarved ⟨c.val, by omega⟩) s = .next t ∧ (t.scull c).starved = true ∧ (t.scull c).dmaQ = x.dmaQ
        ∧ (s.links.events.length < 256 → t.announced 0x800D (le 4 100000)))

/-- R13, R52, R81, R82, R366, R400: a register write acts by the register: SPI_IRQ clears the ones written, SPI_IRQ_EN keeps its four
defined bits, the DMA addresses are stored and the length is cut to 24 bits, a data register of a scull takes its low half, and BUMP
advances GEN of the unit's word and leaves its STATE. -/
def Obligations.RegisterWrites : Prop :=
  ∀ (v : U32) (c : Fin 64) (s : State),
    (∃ t, exec (.registerWrite (.spi 4) v) s = .next t ∧ t.links.irq = s.links.irq &&& ~~~(v.extractLsb' 0 16) ∧ t.cfg = s.cfg)
    ∧ (∃ t, exec (.registerWrite (.spi 6) v) s = .next t ∧ t.links.irqEn = v.extractLsb' 0 16 &&& 0xF#16 ∧ t.links.irq = s.links.irq)
    ∧ (∃ t, exec (.registerWrite (.dma c 0) v) s = .next t ∧ (t.scull c).dmaSrc = v ∧ (t.scull c).dmaQ = (s.scull c).dmaQ)
    ∧ (∃ t, exec (.registerWrite (.dma c 4) v) s = .next t ∧ (t.scull c).dmaDst = v)
    ∧ (∃ t, exec (.registerWrite (.dma c 8) v) s = .next t ∧ (t.scull c).dmaLen.toNat = v.toNat % 2 ^ 24)
    ∧ (∀ r : BitVec 3, ∃ t, exec (.registerWrite (.scull c (r.zeroExtend 7)) v) s = .next t ∧ t = s.setScull c (t.scull c)
        ∧ (t.scull c).d = setAt (v.extractLsb' 0 16) (s.scull c).d r.toNat)
    ∧ (∀ ch : Fin 5, v.getLsbD 7 = true → (s.chain ch).w.genAt ≠ some s.dtime →
        ∃ t, exec (.registerWrite (.bump 1 ch) v) s = .next t ∧ (t.chain ch).w.gen = (s.chain ch).w.gen + 1
          ∧ (t.chain ch).w.st = (s.chain ch).w.st)

/-! ### The block -/

/-- A step takes the command at the front of the queue and carries it out over the rest of the queue. -/
def Obligations.StepRunsFrontCommand : Prop :=
  ∀ (c : Instr) (s : State), step { s with pending := c :: s.pending } = exec c s

/-- R7, R9, log 37 (the model's choice of what an empty queue does): with no command waiting one reference cycle passes, and DTIME counts
it, up to the catch that ends the stroke; while the device is held in reset or the reference is stopped nothing happens. -/
def Obligations.IdleTick : Prop :=
  ∀ s : State, s.pending = [] →
    ((s.boot.held = true ∨ s.clk.stopped = true) → step s = .next s)
    ∧ (s.boot.held = false → s.clk.stopped = false → s.dtime + 1 < 9600 * (s.stroke + 1) → step s = .next { s with dtime := s.dtime + 1 })

/-- R7, R32, R37, R50, R64, R67, R82, R106: after reset DTIME and the stroke number are 0, no command is outstanding, queues and credit
are empty, both configuration sets are equal with generation 0, every unit word has GEN 0, and READY is clear. -/
def Obligations.ResetState : Prop :=
  let s := State.reset
  s.dtime = 0 ∧ s.stroke = 0 ∧ s.links.ready = false ∧ s.links.tags = [] ∧ s.links.cache = [] ∧ s.links.irq = 0 ∧ s.links.irqEn = 0
    ∧ s.links.inFifo = [] ∧ s.links.outFifo = [] ∧ s.links.events = [] ∧ s.links.endpoint = none
    ∧ s.dlv.credit = 0 ∧ s.dlv.nextSeq = 0 ∧ s.dlv.queue = [] ∧ s.cfg.active = s.cfg.shadow ∧ s.cfg.genAct = 0 ∧ s.cfg.genShad = 0
    ∧ (∀ i, (s.chain i).w.gen = 0 ∧ (s.lane i).w.gen = 0 ∧ (s.synth i).w.gen = 0 ∧ (s.group i).w.gen = 0)
    ∧ (∀ i, (s.scull i).run = false ∧ (s.scull i).lc = 0 ∧ (s.scull i).dmaQ = []) ∧ s.rx.spill = 0 ∧ s.dir.hold = [] ∧ s.pending = []

/-- R37: the CRC-32 of a message has the check value 0xCBF43926 over the nine bytes "123456789". -/
def Obligations.MessageCrc : Prop :=
  crc32 [0x31, 0x32, 0x33, 0x34, 0x35, 0x36, 0x37, 0x38, 0x39] = 0xCBF43926#32

/-! ### Status and configuration commands -/

/-- R46, R47, R65: PING returns its bytes; GET_INFO and GET_STATUS return their fields, and GET_STATUS with flag bit 0 clears the counters
after the read; OP_PROGRESS returns floor (1,000 × done / total), or NOT_FOUND for a tag that is not outstanding or not a long operation.
Apart from that only the links change. -/
def Obligations.StatusCommands : Prop :=
  ∀ (h : Hdr) (s : State),
    (∀ data : Bytes, s.takes h 0x0001 = true → h.len = data.length → h.len ≤ (if h.src = .spi then 4096 else 1452) →
      ∃ t, exec (.ping h data) s = .next t ∧ t = { s with links := t.links } ∧ t.answered s h 0x0001 .ok data)
    ∧ (s.takes h 0x0002 = true → h.len = 0 →
      ∃ t p, exec (.getInfo h) s = .next t ∧ t = { s with links := t.links } ∧ t.answered s h 0x0002 .ok p ∧ p.length = 32
        ∧ fieldAt 0 2 p = s.boot.devId.toNat ∧ fieldAt 2 1 p = s.boot.stepping.toNat ∧ fieldAt 3 1 p = 1
        ∧ fieldAt 4 4 p = s.boot.fwVersion.toNat ∧ fieldAt 8 4 p = s.boot.secVersion.toNat ∧ fieldAt 16 8 p = s.boot.serial.toNat
        ∧ fieldAt 24 4 p = s.capacity ∧ fieldAt 29 1 p = (if s.tx.card.isSome then 1 else 0) ∧ fieldAt 30 2 p = 0)
    ∧ (∀ flags : U32, s.takes h 0x0003 = true → h.len = 4 → flags.toNat ≤ 1 → s.cnt.crewMissed.length = 8 →
      ∃ t p, exec (.getStatus h flags) s = .next t ∧ t.answered s h 0x0003 .ok p ∧ p.length = 108
        ∧ fieldAt 0 8 p = s.dtime % 2 ^ 64 ∧ fieldAt 16 1 p = s.boot.cause.code ∧ fieldAt 17 1 p = s.pwr.st.code
        ∧ fieldAt 19 1 p = s.cfg.genAct.toNat ∧ fieldAt 20 4 p = s.dlv.nextSeq.toNat ∧ fieldAt 24 4 p = s.dlv.queue.length % 2 ^ 32
        ∧ fieldAt 28 4 p = s.dlv.credit % 2 ^ 32 ∧ fieldAt 32 4 p = s.cnt.behind.toNat ∧ fieldAt 36 4 p = s.cnt.ctxOverrun.toNat
        ∧ fieldAt 72 4 p = s.cnt.workSkipped.toNat ∧ fieldAt 92 4 p = s.cnt.queueDrops.toNat ∧ fieldAt 96 4 p = s.cnt.msgsDiscarded.toNat
        ∧ fieldAt 100 4 p = s.cnt.eventsLost.toNat ∧ fieldAt 106 2 p = 0
        ∧ (flags = 0 → t = { s with links := t.links })
        ∧ (flags = 1 → t.cnt.behind = 0 ∧ t.cnt.ctxOverrun = 0 ∧ t.cnt.crewMissed = List.replicate 8 0 ∧ t.cnt.workSkipped = 0
            ∧ t.cnt.queueDrops = 0 ∧ t.cnt.msgsDiscarded = 0 ∧ t.cnt.eventsLost = 0 ∧ t.cfg = s.cfg ∧ t.dlv = s.dlv ∧ t.dir = s.dir))
    ∧ (∀ (tag code : U16) (e : TagEntry), s.takes h 0x00C0 = true → h.len = 4 → tag ≠ 0 → s.outstanding tag = some e →
      (e.long = true → e.done < e.total →
        ∃ t, exec (.opProgress h tag code) s = .next t ∧ t = { s with links := t.links }
          ∧ t.answered s h 0x00C0 .ok (le 2 tag.toNat ++ le 2 e.opcode ++ le 2 (1000 * e.done / e.total) ++ le 2 0 ++ le 4 e.done ++ le 4 e.total))
      ∧ (e.long = false → exec (.opProgress h tag code) s = s.turnedAway h 0x00C0 .notFound []))
    ∧ (∀ tag code : U16, s.takes h 0x00C0 = true → h.len = 4 → tag ≠ 0 → s.outstanding tag = none →
        exec (.opProgress h tag code) s = s.turnedAway h 0x00C0 .notFound [])

/-- R33, R40, R42, R45: a command is turned away with no other effect: INVALID_ARG for a wrong payload length or a header that is not
clean, RANGE for tag 0 or an argument out of range, NO_CREDIT with 64 tags outstanding. The repeat of an outstanding command is ignored,
and a different command on its tag gets BUSY with DUP_TAG, FINAL clear, the outstanding command untouched. -/
def Obligations.CommandRefusals : Prop :=
  ∀ (h : Hdr) (s : State) (data : Bytes),
    (s.takes h 0x0001 = true → h.len ≠ data.length → exec (.ping h data) s = s.turnedAway h 0x0001 .invalidArg [])
    ∧ (s.takes h 0x0002 = true → h.len ≠ 0 → exec (.getInfo h) s = s.turnedAway h 0x0002 .invalidArg [])
    ∧ (s.takes h 0x0013 = true → h.len = 1 → ∀ set : U8, 1 < set.toNat → exec (.cfgCheck h set) s = s.turnedAway h 0x0013 .range [])
    ∧ (s.takes h 0x0012 = true → h.len = 8 → s.castleBusy = true →
        exec (.castle h 0) s = s.turnedAway h 0x0012 .busy [])
    ∧ (s.takes h 0x0001 = true → h.len = 0 → ∀ tags : List TagEntry, tags.length = 64 → (∀ e ∈ tags, e.tag ≠ h.tag) →
        let u : State := { s with links := { s.links with tags := tags } }
        exec (.ping h []) u = u.turnedAway h 0x0001 .noCredit [])
    ∧ (∀ h2 : Hdr, s.takes h 0x0001 = true → h.len = 0 → h2.tag = h.tag → h2.src = h.src →
        let u : State := { s with links := (s.links.held s.dtime h2 0x0080 true 1) }
        ∃ t, exec (.ping h []) u = .next t ∧ t = { u with links := t.links } ∧ t.links.tags = u.links.tags ∧ t.links.cache = u.links.cache
          ∧ t.links.waiting = u.links.waiting ++ [{ kind := .reply, opcode := 1, tag := h.tag, flags := 0x0800, status := 7, payload := []
                                                    dst := h.src, recs := [] }])
    ∧ (s.takes h 0x0001 = true → h.len = 0 →
        let u : State := { s with links := (s.links.held s.dtime h 0x0001 false 1) }
        exec (.ping h []) u = .next { u with links := u.taken h 0x0001 })

/-- R41, R68 to R70: CFG_WRITE puts its bytes into the shadow set at once, and for the active set keeps them until the next catch; CFG_READ
returns the bytes of a set, the active one with the direct writes accepted. A section that does not exist is NOT_FOUND, and the shadow set is
LOCKED while a CASTLE is in progress. A command on the sets waits behind those received before it. -/
def Obligations.ConfigurationAccess : Prop :=
  ∀ (h : Hdr) (s : State) (sec : U8) (ofs length : U16),
    let size := sectionSize sec.toNat
    let key (i : Nat) : Nat := 65536 * sec.toNat + ofs.toNat + i
    (∀ data : Bytes, s.takes h 0x0010 = true → h.len = 8 + data.length → length.toNat = data.length →
      (size = 0 → exec (.cfgWrite h sec 0 ofs length 0 data) s = s.turnedAway h 0x0010 .notFound [])
      ∧ (size ≠ 0 → data ≠ [] → ofs.toNat + data.length ≤ size → reservedClear sec.toNat ofs.toNat data = true →
        (rangesOk (putSet s.cfg.shadow sec.toNat ofs.toNat data) sec.toNat ofs.toNat data.length = true →
          (s.castleBusy = true → exec (.cfgWrite h sec 0 ofs length 0 data) s = s.turnedAway h 0x0010 .locked [])
          ∧ (s.castleBusy = false → s.cfg.waits = [] → cellsWf cfgReset s.cfg.shadow = true →
            ∃ t, exec (.cfgWrite h sec 0 ofs length 0 data) s = .next t ∧ t.answered s h 0x0010 .ok []
              ∧ t = { s with links := t.links, cfg := { s.cfg with shadow := t.cfg.shadow } }
              ∧ (∀ i, i < data.length → readCell cfgReset t.cfg.shadow (key i) = data.getD i 0)
              ∧ (∀ k, (∀ i, i < data.length → k ≠ key i) → readCell cfgReset t.cfg.shadow k = readCell cfgReset s.cfg.shadow k)))
        ∧ (rangesOk (putSet (overlay s.cfg.active s.cfg.direct) sec.toNat ofs.toNat data) sec.toNat ofs.toNat data.length = true →
          (changesGrouped s.cfg.active sec.toNat ofs.toNat data = true →
            exec (.cfgWrite h sec 1 ofs length 0 data) s = s.turnedAway h 0x0010 .locked [])
          ∧ (changesGrouped s.cfg.active sec.toNat ofs.toNat data = false →
            ((s.cfg.waits = [] ∨ s.castleBusy = true) →
              ∃ t, exec (.cfgWrite h sec 1 ofs length 0 data) s = .next t ∧ t.answered s h 0x0010 .ok []
              ∧ t = { s with links := t.links, cfg := { s.cfg with direct := t.cfg.direct } }
              ∧ (∃ l, t.cfg.direct = s.cfg.direct ++ l ∧ l.map (·.2) = data ∧ l.map (·.1) = (List.range data.length).map key))
            ∧ (s.cfg.waits ≠ [] → s.castleBusy = false →
              ∃ t, exec (.cfgWrite h sec 1 ofs length 0 data) s = .next t ∧ t.holds s h 0x0010
              ∧ t = { s with links := t.links, cfg := { s.cfg with waits := s.cfg.waits ++ [(h.tag, s.dtime, .write sec 1 ofs data)] } })))))
    ∧ (s.takes h 0x0011 = true → h.len = 6 →
      (∀ set : U8, size = 0 → exec (.cfgRead h sec set ofs length) s = s.turnedAway h 0x0011 .notFound [])
      ∧ (∀ set : Bool, s.setsFree = true → s.cfg.waits = [] → size ≠ 0 → length ≠ 0 → ofs.toNat + length.toNat ≤ size → 8 + length.toNat ≤ (if h.src = .spi then 4096 else 1452) →
        ∃ t, exec (.cfgRead h sec (if set then 1 else 0) ofs length) s = .next t ∧ t = { s with links := t.links }
          ∧ t.answered s h 0x0011 .ok (le 1 sec.toNat ++ le 1 (if set then 1 else 0) ++ le 2 ofs.toNat ++ le 2 length.toNat ++ le 2 0
              ++ (List.range length.toNat).map fun i => readCell cfgReset (s.setNamed set) (key i)))
      ∧ (∀ set : Bool, s.setsFree = false → size ≠ 0 → length ≠ 0 → ofs.toNat + length.toNat ≤ size → 8 + length.toNat ≤ (if h.src = .spi then 4096 else 1452) →
        ∃ t, exec (.cfgRead h sec (if set then 1 else 0) ofs length) s = .next t ∧ t.holds s h 0x0011
          ∧ t = { s with links := t.links, cfg := { s.cfg with waits := s.cfg.waits ++ [(h.tag, s.dtime, .read sec (if set then 1 else 0) ofs length)] } }))

/-- R73 to R76, R79: CASTLE holds its tag while its group checks run, BUSY while another is in progress; a failing check ends it with
INCONSISTENT and the payload of the first failing group; else it is armed for the later of its target and the second stroke after the
present one. CFG_CHECK holds its tag while its own group checks run, behind the commands before it. After the castling catch the shadow set becomes a
copy of the active one and CASTLE is answered with its stroke and generation. Both time limits raise EV_FLAG_FALL and end CASTLE; that of a
CFG_CHECK ends it without one. -/
def Obligations.CastleProgress : Prop :=
  ∀ (h : Hdr) (s : State),
    (∀ target : U64, s.takes h 0x0012 = true → h.len = 8 → s.castleBusy = false → s.cfg.waits = [] →
      (target = 0 ∨ (s.dtime / 9600 ≤ target.toNat ∧ target.toNat ≤ s.dtime / 9600 + 4000)) →
      ∃ t, exec (.castle h target) s = .next t ∧ t.holds s h 0x0012
        ∧ t = { s with links := t.links, cfg := { s.cfg with castle := .checking h.tag target.toNat s.dtime } })
    ∧ (∀ set : Bool, s.takes h 0x0013 = true → h.len = 1 →
      ∃ t, exec (.cfgCheck h (if set then 1 else 0)) s = .next t ∧ t.holds s h 0x0013
        ∧ t = { s with links := t.links, cfg := { s.cfg with waits := s.cfg.waits ++ [(h.tag, s.dtime, .check set)] } })
    ∧ (∀ (e : TagEntry) (set : Bool) (t0 : Nat), s.cfg.castle = .idle → s.cfg.waits = [(e.tag, t0, .check set)] → s.outstanding e.tag = some e →
      s.reachable e.src = true →
      let l := s.failing (s.setNamed set)
      let hd : Hdr := { src := e.src, tag := e.tag, version := 1, rsv := 0, flags := 0, status := 0, len := 0, crc := e.crc }
      let freed : Links := { s.links with tags := s.links.tags.filter fun x => x.tag != e.tag }
      (∃ t, exec .castleChecksDone s = .next t ∧ t = { s with links := t.links, cfg := { s.cfg with waits := [] } }
        ∧ (l = [] → t.links = freed.reply s.dtime hd e.opcode .ok (List.replicate 6 0))
        ∧ (∀ g r, l = g :: r → t.links = freed.reply s.dtime hd e.opcode .inconsistent (le 2 l.length ++ le 2 g ++ le 1 (groupSection g) ++ le 1 0)))
      ∧ (∃ t, exec .castleCheckFlagFall s = .next t ∧ t.cfg = { s.cfg with waits := [] } ∧ t.outstanding e.tag = none
        ∧ t.links.events = s.links.events ∧ (s.clk.stopped = false → t0 + 19200 ≤ t.dtime)))
    ∧ (∀ (e : TagEntry) (target t0 : Nat), s.cfg.castle = .checking e.tag target t0 → s.cfg.waits = [] → s.outstanding e.tag = some e →
      s.reachable e.src = true →
      let next := s.dtime / 9600 + 2
      let hd : Hdr := { src := e.src, tag := e.tag, version := 1, rsv := 0, flags := 0, status := 0, len := 0, crc := e.crc }
      let freed : Links := { s.links with tags := s.links.tags.filter fun x => x.tag != e.tag }
      (s.failing s.cfg.shadow = [] →
        exec .castleChecksDone s = .next { s with cfg := { s.cfg with castle := .armed e.tag (max next target) (target != 0 && decide (target < next)) } })
      ∧ (∀ g r, s.failing s.cfg.shadow = g :: r →
        ∃ t, exec .castleChecksDone s = .next t ∧ t = { s with links := t.links, cfg := { s.cfg with castle := .idle } }
          ∧ t.links = freed.reply s.dtime hd e.opcode .inconsistent (le 2 (g :: r).length ++ le 2 g ++ le 1 (groupSection g) ++ le 1 0))
      ∧ (∃ t, exec .castleCheckFlagFall s = .next t ∧ t.cfg = { s.cfg with castle := .idle } ∧ t.outstanding e.tag = none
          ∧ (s.clk.stopped = false → t0 + 19200 ≤ t.dtime)
          ∧ (s.links.events.length < 256 → t.announced 0x800A (le 1 0x0A ++ le 3 0 ++ le 4 0))))
    ∧ (∀ (e : TagEntry) (k t0 : Nat) (late : Bool), s.cfg.castle = .copying (some e.tag) k late t0 → s.cfg.waits = [] → s.outstanding e.tag = some e →
      s.reachable e.src = true →
      let hd : Hdr := { src := e.src, tag := e.tag, version := 1, rsv := 0, flags := 0, status := 0, len := 0, crc := e.crc }
      let freed : Links := { s.links with tags := s.links.tags.filter fun x => x.tag != e.tag }
      (∃ t, exec .shadowCopyDone s = .next t
        ∧ t = { s with links := t.links, cfg := { s.cfg with shadow := s.cfg.active, genShad := s.cfg.genAct, castle := .idle } }
        ∧ t.links = freed.reply s.dtime hd e.opcode (if late then .late else .ok) (le 8 k ++ le 1 s.cfg.genAct.toNat))
      ∧ (∃ t, exec .shadowCopyFlagFall s = .next t ∧ t.cfg = { s.cfg with castle := .copying none k late t0 }
        ∧ t.outstanding e.tag = none ∧ (s.links.events.length < 256 → t.announced 0x800A (le 1 0x0A ++ le 3 0 ++ le 4 1))))

/-! ### Directory -/

/-- R225, R226, R238: DIR_ADD enters the meter at the lowest free index with the flags and key given, LOCKED for an address that is
present, BUSY in a rebuild, AUTH_FAIL where the key does not unwrap. Every other entry stays. On an entry in use DIR_UPDATE, DIR_REMOVE and
KEY_LOAD complete with OK, and DIR_QUERY and the rebuild complete whatever the entries are (R239 to R241). -/
def Obligations.DirectoryAdd : Prop :=
  ∀ (h : Hdr) (mfr : U16) (ident : U32) (version type : U8) (interval : U16) (key watch : Bool) (wkey : Bytes) (s : State),
    let a : Addr := (ident, mfr, version, type)
    let flags : U16 := (if key then 1 else 0) ||| (if watch then 2 else 0)
    let cmd : Instr := .dirAdd h mfr ident version type interval flags wkey
    (s.takes h 0x0040 = true → h.len = (if key then 36 else 12) → wkey.length = (if key then 24 else 0) → s.dir.rebuild.isSome = true → exec cmd s = s.turnedAway h 0x0040 .busy [])
    ∧ (s.dir.rebuild = none →
      (s.takes h 0x0040 = true → h.len = (if key then 36 else 12) → wkey.length = (if key then 24 else 0) →
       (∀ j, s.lookup a = some j → exec cmd s = s.turnedAway h 0x0040 .locked [])
       ∧ (∀ i, s.lookup a = none → s.freeIndex = some i →
        ((key = true ∧ unwrapKey s.boot.wrapKey wkey = none) → exec cmd s = s.turnedAway h 0x0040 .authFail [])
        ∧ ((key = false ∨ (unwrapKey s.boot.wrapKey wkey).isSome = true) →
          ∃ t, exec cmd s = .next t ∧ t = { s with links := t.links, dir := t.dir } ∧ t.answered s h 0x0040 .ok (le 4 i)
            ∧ (t.entry i).addr = a ∧ (t.entry i).has fInUse = true ∧ (t.entry i).has fKey = key ∧ (t.entry i).has fWatch = watch
            ∧ (t.entry i).expInterval = interval ∧ (t.entry i).histCount = 0 ∧ (key = true → (t.entry i).wkey = wkey)
            ∧ (∀ j, j ≠ i → t.entry j = s.entry j))))
      ∧ (∀ index : U32, index.toNat < s.capacity → (s.entry index.toNat).has fInUse = true →
        (∀ mask flags : U16, s.takes h 0x0041 = true → h.len = 10 → mask ≠ 0 → mask.toNat < 8 → (flags = 0 ∨ flags = 2) →
          ∃ t, exec (.dirUpdate h index mask interval flags) s = .next t ∧ t.answered s h 0x0041 .ok [])
        ∧ (s.takes h 0x0042 = true → h.len = 4 → ∃ t, exec (.dirRemove h index) s = .next t ∧ t.answered s h 0x0042 .ok [])
        ∧ (s.takes h 0x0044 = true → h.len = 28 → ∀ k : Bytes, k.length = 24 → (unwrapKey s.boot.wrapKey k).isSome = true →
          ∃ t, exec (.keyLoad h index k) s = .next t ∧ t.answered s h 0x0044 .ok []))
      ∧ (s.takes h 0x0041 = true → h.len = 10 → ∃ t, exec (.dirRebuild h 0 0 0) s = .next t ∧ t.queuedFor s h 0x0041 true (s.capacity / 16384)))
    ∧ (∀ (first : U32) (count : U16), s.takes h 0x0043 = true → h.len = 6 → count.toNat ≤ 45 →
      ∃ t, exec (.dirQuery h first count) s = .next t ∧ t = { s with links := t.links })

/-- R227, R239 to R241: DIR_UPDATE changes what its mask selects, DIR_REMOVE clears the entry and keeps its index out of use for 4,000
strokes, KEY_LOAD stores a key that unwraps and resets the message counter, DIR_QUERY returns the counts, and the rebuild is a long
operation. An entry that is not in use is NOT_FOUND, an index beyond the capacity is RANGE, and a rebuild makes them BUSY. -/
def Obligations.DirectoryCommands : Prop :=
  ∀ (h : Hdr) (index : U32) (s : State),
    let i := index.toNat
    let e := s.entry i
    let dirOnly (t : State) : Prop := t = { s with links := t.links, dir := t.dir } ∧ ∀ j, j ≠ i → t.entry j = s.entry j
    (i < s.capacity → s.dir.rebuild = none → e.has fInUse = true →
      (∀ mask interval flags : U16, s.takes h 0x0041 = true → h.len = 10 → mask ≠ 0 → mask.toNat < 8 → (flags = 0 ∨ flags = 2) →
        ∃ t, exec (.dirUpdate h index mask interval flags) s = .next t ∧ dirOnly t ∧ t.answered s h 0x0041 .ok []
          ∧ (t.entry i).expInterval = (if mask.getLsbD 0 then interval else e.expInterval)
          ∧ (t.entry i).has fWatch = (if mask.getLsbD 1 then flags.getLsbD 1 else e.has fWatch)
          ∧ (t.entry i).has fKey = (if mask.getLsbD 2 then false else e.has fKey)
          ∧ (t.entry i).wkey = (if mask.getLsbD 2 then List.replicate 24 0 else e.wkey)
          ∧ (t.entry i).addr = e.addr ∧ (t.entry i).has fInUse = true)
      ∧ (s.takes h 0x0042 = true → h.len = 4 → (s.dir.entries.map (·.1)).Nodup →
        ∃ t, exec (.dirRemove h index) s = .next t ∧ dirOnly t ∧ t.answered s h 0x0042 .ok []
          ∧ t.entry i = {} ∧ t.dir.quarantine = s.dir.quarantine ++ [(i, s.dtime + 4000 * 9600)])
      ∧ (∀ wkey : Bytes, s.takes h 0x0044 = true → h.len = 28 → wkey.length = 24 →
        (unwrapKey s.boot.wrapKey wkey = none → exec (.keyLoad h index wkey) s = s.turnedAway h 0x0044 .authFail [])
        ∧ ((unwrapKey s.boot.wrapKey wkey).isSome = true →
          ∃ t, exec (.keyLoad h index wkey) s = .next t ∧ dirOnly t ∧ t.answered s h 0x0044 .ok []
            ∧ t.entry i = { e with wkey := wkey, m7 := 0, flags := e.flags ||| 2 } ∧ ∀ k ∈ t.dir.keys, k.1 ≠ i)))
    ∧ (s.takes h 0x0042 = true → h.len = 4 →
      (s.capacity ≤ i → exec (.dirRemove h index) s = s.turnedAway h 0x0042 .range [])
      ∧ (i < s.capacity → s.dir.rebuild.isSome = true → exec (.dirRemove h index) s = s.turnedAway h 0x0042 .busy [])
      ∧ (i < s.capacity → s.dir.rebuild = none → e.has fInUse = false → exec (.dirRemove h index) s = s.turnedAway h 0x0042 .notFound []))
    ∧ (∀ (first : U32) (count : U16), s.takes h 0x0043 = true → h.len = 6 → count.toNat ≤ (if h.src = .spi then 127 else 45) →
        let l := (s.dir.entries.filter fun x => x.2.has fInUse && decide (first.toNat ≤ x.1)).take count.toNat
        ∃ t, exec (.dirQuery h first count) s = .next t ∧ t = { s with links := t.links }
          ∧ t.answered s h 0x0043 .ok (le 4 s.entriesUsed ++ le 4 s.capacity ++ le 2 l.length ++ le 2 0 ++ (l.map fun x => summaryOf x.1 x.2).flatten))
    ∧ (s.takes h 0x0041 = true → h.len = 10 →
      (s.dir.rebuild.isSome = true → exec (.dirRebuild h 0 0 0) s = s.turnedAway h 0x0041 .busy [])
      ∧ (s.dir.rebuild = none → ∃ t, exec (.dirRebuild h 0 0 0) s = .next t ∧ t.queuedFor s h 0x0041 true (s.capacity / 16384)
          ∧ t = { s with links := t.links, dir := { s.dir with rebuild := some (h.tag, 0) } }))

/-- R229, R231 to R233, R237, R238, R240: a frame of an unknown meter takes a place in the hold for 768,000 cycles; a copy of the last
record of a known meter within 120 s is discarded; the end of a hold place sends its record to the delivery queue under the next sequence
number; a window closed without an arrival counts as missed and moves on by one interval; the quarantine of an index ends; a rebuild ends
with its final reply. -/
def Obligations.DirectoryEvents : Prop :=
  ∀ s : State,
    (∀ f rest, s.mem.refresh = false → s.rx.frames = f :: rest →
      let hd := headerOf f.bytes
      let crc := crc32 (f.bytes.drop 1)
      (s.lookup hd.addr = none → s.dir.hold.length < 4096 → (∀ p ∈ s.dir.hold, p.best.dedup ≠ crc) →
        ∃ t, exec .directoryProcessing s = .next t ∧ t.rx.frames = rest ∧ t.dlv = s.dlv ∧ t.dir.entries = s.dir.entries
          ∧ ∃ p, t.dir.hold = s.dir.hold ++ [p] ∧ p.ends = s.dtime + 768000 ∧ p.best.key = hd.addr ∧ p.best.dirIndex = none
              ∧ p.best.dedup = crc ∧ p.best.payload = f.bytes.drop 1 ∧ p.best.flags.getLsbD 6 = true)
      ∧ (∀ i, s.lookup hd.addr = some i → (s.entry i).has fHasLast = true → (s.entry i).lastAcc = BitVec.ofNat 8 hd.access →
          (s.entry i).lastCrc = crc → (f.tEnd : Int) - (s.entry i).lastDupT ≤ 4608000000 → ((s.entry i).lastDupT : Int) - f.tEnd ≤ 4608000000 →
          ∃ t, exec .directoryProcessing s = .next t ∧ t.rx.frames = rest ∧ t.dir.hold = s.dir.hold ∧ t.dlv = s.dlv
            ∧ t.rx.eng.dupDiscarded = s.rx.eng.dupDiscarded + 1))
    ∧ (∀ p rest, s.dir.hold = p :: rest → s.links.endpoint = none → s.dlv.queue.length < 1048576 →
        ∃ t, exec .holdEnd s = .next t ∧ t.dir.hold = rest ∧ t.dlv.nextSeq = s.dlv.nextSeq + 1
          ∧ (∃ r, t.dlv.queue = s.dlv.queue ++ [r] ∧ r.seq = s.dlv.nextSeq ∧ r.sent = false
              ∧ r.bytes.take 12 = le 4 s.dlv.nextSeq.toNat ++ le 8 p.best.tEnd ∧ r.bytes.drop 48 = p.best.payload)
          ∧ (s.clk.stopped = false → p.ends ≤ t.dtime) ∧ t.links = s.links)
    ∧ (∀ i, (s.entry i).has fInUse = true → (s.entry i).has fPredicting = true → s.judgedNext i = true → (s.entry i).interval ≠ 0 → (s.entry i).missed < 7 →
        ∃ t, exec (.windowJudgement i) s = .next t ∧ (t.entry i).missed = (s.entry i).missed + 1
          ∧ (t.entry i).window = (s.entry i).window + (s.entry i).interval ∧ (t.entry i).has fPredicting = true
          ∧ (∀ j, j ≠ i → t.entry j = s.entry j) ∧ t.dlv = s.dlv)
    ∧ (∀ q : Nat × Nat, s.dir.quarantine = [q] →
        ∃ t, exec (.dirQuarantineEnd q.1) s = .next t ∧ t.dir = { s.dir with quarantine := [] } ∧ (s.clk.stopped = false → q.2 ≤ t.dtime))
    ∧ (∀ (e : TagEntry) (n : Nat), s.dir.rebuild = some (e.tag, n) → s.outstanding e.tag = some e → s.reachable e.src = true →
        ∃ t, exec .dirRebuildDone s = .next t ∧ t = { s with links := t.links, dir := t.dir } ∧ t.dir.rebuild = none
          ∧ t.dir.entries = s.dir.entries ∧ t.outstanding e.tag = none
          ∧ ∃ m, t.links.waiting = s.links.waiting ++ [m] ∧ m.tag = e.tag ∧ m.status = 0 ∧ m.flags = 0x2000)

/-! ### Delivery and host links -/

/-- R32, R59 to R61: CREDIT_GRANT adds to the balance, makes its sender the delivery endpoint and replies with balance, depth and next
number before any batch, RANGE when the balance would pass 16,777,215; over UDP with ACK_VALID it frees the records up to the ack. A
closed batch waits to be sent with its count and its records. After 200 ms without an acknowledgement every record sent is sent again,
without credit. -/
def Obligations.DeliveryStream : Prop :=
  ∀ (h : Hdr) (s : State),
    (∀ grant ack : U32, s.takes h 0x0050 = true → h.len = 12 →
      (16777215 < s.dlv.credit + grant.toNat → exec (.creditGrant h grant ack 0) s = s.turnedAway h 0x0050 .range [])
      ∧ (s.dlv.credit + grant.toNat ≤ 16777215 →
        (∃ t, exec (.creditGrant h grant ack 0) s = .next t ∧ t = { s with links := t.links, dlv := t.dlv } ∧ t.links.endpoint = some h.src
          ∧ (∃ m ∈ t.links.waiting, m.kind = .reply ∧ m.tag = h.tag ∧ m.status = 0
              ∧ m.payload = le 4 (s.dlv.credit + grant.toNat) ++ le 4 s.dlv.queue.length ++ le 4 s.dlv.nextSeq.toNat)
          ∧ t.dlv.nextSeq = s.dlv.nextSeq ∧ t.dlv.queue.map (·.bytes) = s.dlv.queue.map (·.bytes)
          ∧ (s.dlv.queue = [] → t.dlv.credit = s.dlv.credit + grant.toNat))
        ∧ (h.src ≠ .spi → s.dlv.highSent = some ack → (s.dlv.queue.map (·.seq)).Nodup →
          ∃ t, exec (.creditGrant h grant ack 1) s = .next t
            ∧ ∀ r ∈ s.dlv.queue, r.sent = true → (ack - r.seq).toNat < 2 ^ 31 → ∀ q ∈ t.dlv.queue, q.seq ≠ r.seq)))
    ∧ (∀ b, s.dlv.batch = some b → ∃ t, exec .batchClose s = .next t ∧ t.dlv = { s.dlv with batch := none }
        ∧ ∃ m, t.links.waiting = s.links.waiting ++ [m] ∧ t.links = { s.links with waiting := t.links.waiting } ∧ m.kind = .batch ∧ m.opcode = 0xC000 ∧ m.tag = 0 ∧ m.dst = b.dst
          ∧ m.recs = b.recs.map (·.seq)
          ∧ m.payload = le 2 b.recs.length ++ le 2 0 ++ (b.recs.map fun r => pad4 (le 2 r.bytes.length ++ le 2 0 ++ r.bytes)).flatten)
    ∧ (∀ ip port t0, s.links.endpoint = some (.udp ip port) → s.dlv.ackAt = some t0 → s.udpOn = true → s.links.ready = true →
        s.dlv.credit = 0 → (∃ r ∈ s.dlv.queue, r.sent = true) →
        ∃ t, exec .resendTimeout s = .next t ∧ t.dlv.credit = 0 ∧ t.dlv.queue.map (·.bytes) = s.dlv.queue.map (·.bytes)
          ∧ ∀ r ∈ s.dlv.queue, r.sent = true →
              (∃ b, t.dlv.batch = some b ∧ r.seq ∈ b.recs.map (·.seq)) ∨ ∃ m ∈ t.links.waiting, m.kind = .batch ∧ r.seq ∈ m.recs)

/-- R37, R50, R54, R55, R61: a reply that waits is placed whole before anything else, with its header, its CRC-32 and the sequence number of
its transport; a message that does not fit holds up all that waits; bytes read from MBX_OUT leave the FIFO, and a batch read to its last
byte is acknowledged. -/
def Obligations.OutboundMessages : Prop :=
  ∀ (m : OutMsg) (rest : List OutMsg) (s : State), m.kind = .reply → s.links.waiting = m :: rest → s.links.ready = true →
    let wire (seq : U16) : Bytes :=
      let b : Bytes := [0x4C, 0x4D, 1, 0] ++ le 2 m.opcode ++ le 2 m.tag.toNat ++ le 2 (0x4000 + m.flags.toNat) ++ le 2 m.payload.length
        ++ le 2 m.status ++ le 2 seq.toNat ++ m.payload
      b ++ le 4 (crc32 b).toNat
    (s.spiOn = true → m.dst = .spi →
      let fill := (s.links.outFifo.map fun x => x.left.length).sum
      (16384 < fill + m.payload.length + 20 → exec (.outboundPlace false) s = .next s)
      ∧ (fill + m.payload.length + 20 ≤ 16384 →
        ∃ t, exec (.outboundPlace false) s = .next t ∧ t = { s with links := t.links, pins := t.pins } ∧ t.links.waiting = rest
          ∧ t.links.outFifo = s.links.outFifo ++ [{ left := wire s.links.seqSpi, recs := m.recs, ctl := true }]
          ∧ t.links.seqSpi = s.links.seqSpi + 1 ∧ t.links.events = s.links.events
          ∧ t.links.irq = (if s.links.outFifo = [] then s.links.irq ||| 2 else s.links.irq)))
    ∧ (∀ ip port, s.udpOn = true → m.dst = .udp ip port →
      ∃ t, exec (.outboundPlace true) s = .next t ∧ t = { s with links := t.links } ∧ t.links.waiting = rest
        ∧ t.links.udpTx = { dst := m.dst, hop := s.nextHop ip, mac := s.ownMac, data := wire s.links.seqUdp } :: s.links.udpTx ∧ t.links.seqUdp = s.links.seqUdp + 1)
    ∧ (∀ (x : FifoMsg) (l : List FifoMsg) (n : Nat), s.spiOn = true → s.links.outFifo = x :: l →
      (n < x.left.length → ∃ t, exec (.mbxOutRead n) s = .next t
        ∧ t = { s with links := { s.links with outFifo := { x with left := x.left.drop n } :: l, spiOut := x.left.take n } })
      ∧ (l = [] → x.recs ≠ [] → ∃ t, exec (.mbxOutRead x.left.length) s = .next t ∧ t.links = { s.links with outFifo := [], spiOut := x.left }
        ∧ t.dlv.queue = s.dlv.queue.filter fun r => !(r.sent && x.recs.contains r.seq)))

/-- R35, R36, R39, R50, R52, R53: bytes written to MBX_IN wait in the FIFO; an unusable message is discarded, counted, and sets IN_ERR; a full
FIFO sets IN_OVF; while READY is clear nothing is kept. Ones written to SPI_IRQ clear causes, and HOST_IRQ_N follows. A partial message is
dropped after 10 ms with a flag fall. An unknown SPI command has no effect. -/
def Obligations.MailboxInput : Prop :=
  ∀ (data : Bytes) (part : Fin 8) (s : State),
    (s.links.ready = true → s.spiOn = true → s.links.inDrop = false → s.links.inFifo = [] → data ≠ [] →
      (data.length < 16 → ∃ t, exec (.mbxInWrite data part false) s = .next t ∧ t = { s with links := t.links }
        ∧ t.links.inFifo = data ∧ t.links.irq = s.links.irq ∧ (s.links.partialAt = none → t.links.partialAt = some s.dtime))
      ∧ (16 ≤ data.length → data.length ≤ 8192 → (data.getD 0 0 ≠ 0x4C ∨ data.getD 1 0 ≠ 0x4D) →
        ∃ t, exec (.mbxInWrite data part false) s = .next t ∧ t.links.inFifo = [] ∧ t.links.inDrop = true ∧ t.links.irq = s.links.irq ||| 8
          ∧ t.cnt = { s.cnt with msgsDiscarded := s.cnt.msgsDiscarded + 1 } ∧ t.links.waiting = s.links.waiting ∧ t.cfg = s.cfg))
    ∧ (s.links.ready = true → s.spiOn = true → s.links.inDrop = false → 8192 < s.links.inFifo.length + data.length → data ≠ [] →
        ∃ t, exec (.mbxInWrite data part false) s = .next t ∧ t.links.irq.getLsbD 2 = true)
    ∧ (s.links.ready = false → data ≠ [] → ∃ t, exec (.mbxInWrite data part false) s = .next t ∧ t.links.inFifo = s.links.inFifo
        ∧ t.links.irq = s.links.irq ||| 8 ∧ t.cfg = s.cfg ∧ t.dlv = s.dlv)
    ∧ (∀ v : U16, ∃ t, exec (.spiIrqClear v) s = .next t ∧ t = { s with links := t.links, pins := t.pins }
        ∧ t.links = { s.links with irq := s.links.irq &&& ~~~v }
        ∧ t.pins.irqN = !(s.spiOn && (s.links.irq &&& ~~~v &&& s.links.irqEn) != 0))
    ∧ (∀ cmd : U8, exec (.spiUnknownCommand cmd data) s = .next s)
    ∧ (∀ t0, s.links.partialAt = some t0 → s.links.inFifo.length < 16 → s.links.events.length < 256 →
        ∃ t, exec .spiMessageFlagFall s = .next t ∧ t.links.inFifo = [] ∧ t.links.partialAt = none
          ∧ t.announced 0x800A (le 1 0x01 ++ le 3 0 ++ le 4 s.links.inFifo.length) ∧ t.cfg = s.cfg)
    ∧ (∀ (src : Src) (why : Discard), s.links.ready = true → s.reachable src = true →
        ∃ t, exec (.messageDiscarded src why) s = .next t ∧ t.cnt = { s.cnt with msgsDiscarded := s.cnt.msgsDiscarded + 1 }
          ∧ t.links.waiting = s.links.waiting ∧ t.links.irq = (if src = .spi then s.links.irq ||| 8 else s.links.irq))

/-- R34, R44: a command that is not a long operation ends with TIMEOUT 2 s after its receipt, a long one 30 s after its last progress step;
either way its tag is free again. -/
def Obligations.CommandTimeouts : Prop :=
  ∀ (e : TagEntry) (s : State), s.outstanding e.tag = some e → s.reachable e.src = true → e.opcode ≠ 0x0030 →
    let ended (t : State) (since : Nat) : Prop :=
      t.outstanding e.tag = none ∧ (s.clk.stopped = false → since ≤ t.dtime) ∧ t.mem = s.mem ∧ t.dlv = s.dlv
      ∧ { kind := .reply, opcode := e.opcode, tag := e.tag, flags := 0x2000, status := 12, payload := [], dst := e.src, recs := [] } ∈ t.links.waiting
    (e.long = false → ∃ t, exec (.commandTimeout e.tag) s = .next t ∧ ended t (e.received + 76800000))
    ∧ (e.long = true → (e.opcode = 0x0080 → s.trim.now = none) →
        ∃ t, exec (.longOpTimeout e.tag) s = .next t ∧ ended t (e.stepAt + 1152000000))

/-- R35, R45, R55 to R58: a frame with a bad check sequence is only counted; a fragment and a broken message are dropped and counted; a whole
message with an unknown opcode is answered INVALID_ARG; an ARP or echo request is answered on the wire; the PHY poll sets the link state
from bit 2 of register 1; loss of ETH_REFCLK raises a flag fall and takes the link down, and its return restores it. A carriage return on
the console writes one line. -/
def Obligations.EthernetAndConsole : Prop :=
  ∀ s : State,
    (∀ d : Datagram, s.netUp = true →
      (d.fcsOk = false → exec (.udpDatagram d) s = .next { s with cnt := { s.cnt with ethBad := s.cnt.ethBad + 1 } })
      ∧ (d.fcsOk = true → s.udpOn = true → d.dstPort.toNat = s.cfgNat 10 2 2 → s.pwr.st = .row → s.pwr.entering = none →
        (d.fragmented = true → exec (.udpDatagram d) s = .next { s with cnt := { s.cnt with msgsDiscarded := s.cnt.msgsDiscarded + 1 } })
        ∧ (d.fragmented = false → s.onSubnet d.srcIp.toNat = true → s.links.ready = true →
          (d.payload.length < 20 → exec (.udpDatagram d) s = .next { s with cnt := { s.cnt with msgsDiscarded := s.cnt.msgsDiscarded + 1 } })
          ∧ (headOf 1452 d.payload = .whole d.payload.length → knownOpcode (fieldAt 4 2 d.payload) = false →
            ∃ t, exec (.udpDatagram d) s = .next t ∧ t = { s with links := t.links }
              ∧ { kind := .reply, opcode := fieldAt 4 2 d.payload, tag := BitVec.ofNat 16 (fieldAt 6 2 d.payload), flags := 0x2000, status := 5
                  payload := [], dst := .udp d.srcIp d.srcPort, recs := [] } ∈ t.links.waiting))))
    ∧ (∀ (icmp : Bool) (ip : U32) (data : Bytes), s.netUp = true → s.udpOn = true →
        let own := be 4 (s.cfgNat 10 4 4)
        let sent (b : Bytes) : Out :=
          .next { s with links := { s.links with udpTx := { dst := .udp ip 0, hop := s.nextHop ip, mac := s.ownMac, data := b } :: s.links.udpTx } }
        (icmp = false → ∀ asker target : Bytes, asker.length = 10 → target.length = 6 → data = [0, 1, 8, 0, 6, 4, 0, 1] ++ asker ++ target ++ own →
          exec (.arpIcmpReply icmp ip data) s = sent ([0, 1, 8, 0, 6, 4, 0, 2] ++ s.ownMac ++ own ++ asker))
        ∧ (icmp = true → ∀ sum rest : Bytes, sum.length = 2 → 4 ≤ rest.length → data = [8, 0] ++ sum ++ rest → onesSum data = 0xFFFF →
          exec (.arpIcmpReply icmp ip data) s = sent ([0, 0] ++ be 2 (65535 - onesSum ([0, 0, 0, 0] ++ rest)) ++ rest)))
    ∧ (∀ (driven : Bool) (reg1 : U16), s.cfgNat 10 13 1 ≤ 31 →
        let up := driven && reg1.getLsbD 2
        exec (.phyLinkPoll driven reg1) s = .next { s with links := { s.links with phyLink := up, ethUp := s.links.refclk && up } })
    ∧ (s.links.refclk = true → s.links.events.length < 256 → ∃ t, exec .ethRefclkFlagFall s = .next t ∧ t.links.refclk = false
        ∧ t.links.ethUp = false ∧ t.announced 0x800A (le 1 0x09 ++ le 3 0 ++ le 4 0))
    ∧ (s.links.refclk = false → ∃ t, exec .ethRefclkReturn s = .next t ∧ t = { s with links := t.links } ∧ t.links.refclk = true
        ∧ (31 < s.cfgNat 10 13 1 → t.links.ethUp = true)
        ∧ (s.cfgNat 10 13 1 ≤ 31 → t.links.mdio = [(0, 0x1200), (9, 0x0200), (4, 0x0001)] ++ s.links.mdio))
    ∧ (∀ (b : U8) (stop : Bool),
        let l := (false :: (List.range 8).map (fun i => b.getLsbD i) ++ [stop]).flatMap (List.replicate 16)
        (stop = false → exec (.uartRxByte l) s = .next { s with cnt := { s.cnt with uartBad := s.cnt.uartBad + 1 } })
        ∧ (stop = true → b ≠ 0x0D → exec (.uartRxByte l) s = .next s)
        ∧ (stop = true → b = 0x0D → s.links.ready = true → s.links.uartFill + 18 + s.counterLine.length ≤ 4096 →
          ∃ t, exec (.uartRxByte l) s = .next t ∧ t = { s with links := t.links } ∧ t.links.uartTx = (s.dtime, s.counterLine) :: s.links.uartTx))
    ∧ (∀ l : List Bool, true ∈ l.take 8 → exec (.uartRxByte l) s = .next s)

/-! ### Chains and synthesisers -/

/-- R46, R103, R105, R444: CHAIN_STATE with 0xFF answers the chain's state, generation and DTIME of entry; a request for the state held is
answered at once, another holds its tag while the chain goes step by step through STANDBY and SYNTH, with the search of its synthesiser on
the way up; a step that is done moves the state word, advances GEN and answers. A query behind an outstanding request waits for it (R41). Policy 1
makes requests LOCKED. -/
def Obligations.ChainCommands : Prop :=
  ∀ (h : Hdr) (chain : Fin 5) (s : State),
    let c := s.chain chain
    let report (t : State) (st : Nat) : Bytes := le 1 chain.val ++ le 1 st ++ le 1 (t.chain chain).w.gen.toNat ++ le 1 0 ++ le 8 (t.chain chain).entered
    let free := c.waits = [] ∧ c.target = none ∧ s.trim.now = none ∧ (∀ y, (s.synth y).attempt = 0 ∧ s.synIs y .lost = false ∧ (s.synth y).fromLost = false)
    (c.w.gen = c.w.mgGen → c.w.st = c.w.mgSt) → s.takes h 0x0020 = true → h.len = 2 →
    let n : U8 := BitVec.ofNat 8 chain.val
    (c.waits = [] → ∃ t, exec (.chainState h n 0xFF) s = .next t ∧ t = { s with links := t.links, chains := t.chains } ∧ t.answered s h 0x0020 .ok (report s c.w.st)
        ∧ (t.chain chain).w.st = c.w.st ∧ (t.chain chain).w.gen = c.w.gen ∧ ∀ j, j ≠ chain.val → t.chain j = s.chain j)
    ∧ (c.waits ≠ [] → ∃ t, exec (.chainState h n 0xFF) s = .next t ∧ t.holds s h 0x0020 ∧ t = { s with links := t.links, chains := t.chains }
        ∧ (t.chain chain).waits = c.waits ++ [(h.tag, none)] ∧ ∀ j, j ≠ chain.val → t.chain j = s.chain j)
    ∧ (∀ st : U8, st.toNat < 4 → s.pwr.policy = 1 → exec (.chainState h n st) s = s.turnedAway h 0x0020 .locked [])
    ∧ (∀ st : U8, st.toNat < 4 → s.pwr.policy ≠ 1 → s.txPending chain = false → free → c.w.st < 4 →
      (c.w.st = st.toNat → ∃ t, exec (.chainState h n st) s = .next t ∧ t = { s with links := t.links, chains := t.chains }
        ∧ t.answered s h 0x0020 .ok (report s c.w.st) ∧ (t.chain chain).w.st = c.w.st)
      ∧ (c.w.st ≠ st.toNat → ∃ t, exec (.chainState h n st) s = .next t ∧ t.holds s h 0x0020
        ∧ t = { s with links := t.links, chains := t.chains, synths := t.synths }
        ∧ (t.chain chain).waits = [(h.tag, some (ChainSt.ofCode st.toNat))] ∧ (t.chain chain).target = some (ChainSt.ofCode st.toNat)
        ∧ (t.chain chain).toward = some (ChainSt.ofCode (if c.w.st < st.toNat then c.w.st + 1 else c.w.st - 1))
        ∧ (t.chain chain).w = c.w
        ∧ (c.w.st = 1 → 1 < st.toNat → ∀ y, (chain.val / 2 = 0 ∧ y = 3) ∨ (chain.val / 2 = 1 ∧ y = 4) → s.synIs y .off = true → t.synIs y .search = true)))
    ∧ (∀ e : TagEntry, c.waits = [(e.tag, some .standby)] → c.target = some .standby → c.toward = some .standby → c.w.st = 0 → s.pwr.rfBad = false →
        s.outstanding e.tag = some e → s.reachable e.src = true → (∀ y, (s.synth y).attempt = 0) →
        ∃ t, exec (.chainTransitionDone chain true) s = .next t ∧ (t.chain chain).w.st = 1
          ∧ (c.w.genAt ≠ some s.dtime → (t.chain chain).w.gen = c.w.gen + 1) ∧ (t.chain chain).entered = s.dtime
          ∧ (t.chain chain).waits = [] ∧ t.outstanding e.tag = none ∧ t.cfg = s.cfg ∧ t.mem = s.mem ∧ t.dlv = s.dlv
          ∧ { kind := .reply, opcode := e.opcode, tag := e.tag, flags := 0x2000, status := 0, payload := report t 1, dst := e.src, recs := [] } ∈ t.links.waiting)
    ∧ (c.toward = some .receive → c.w.st = 2 →
        (∃ t, exec (.chainTransitionDone chain false) s = .next t ∧ (t.chain chain).w.st = 5)
        ∧ (c.target = some .receive → c.waits = [] → ∃ t, exec (.chainTransitionDone chain true) s = .next t ∧ (t.chain chain).w.st = 3))

/-- R127 to R129, R133, R135 to R137, R139: loss of lock starts attempt 1, with a core synthesiser in FALLBACK and an LO in SEARCH; a failed
attempt is followed by the next, and the third ends in LOST with EV_LOCK_LOST; a lock on an attempt counts as a relock, and a confirmed
lock is remembered with its band. What cannot lose or confirm a lock is unaffected. -/
def Obligations.LockSequence : Prop :=
  ∀ (y : Fin 6) (s : State), (∀ i, (s.chain i).waits = []) →
    let x := s.synth y
    let code : Nat := if y.val < 3 then 3 else 1
    ((s.synIs y .locked = true ∨ x.planned = true) →
      ∃ t, exec (.lossOfLock y) s = .next t ∧ (t.synth y).attempt = 1 ∧ (t.synth y).planned = false ∧ (t.synth y).w.st = code ∧ t.dlv = s.dlv)
    ∧ (s.synIs y .locked = false → x.planned = false → exec (.lossOfLock y) s = .next s)
    ∧ (∀ (band : BitVec 6) (margin : Nat),
      ((x.attempt = 1 ∨ x.attempt = 2) → ∃ t, exec (.relockAttemptEnd y false band margin) s = .next t ∧ t = { s with synths := t.synths }
        ∧ (t.synth y).attempt = x.attempt + 1 ∧ (t.synth y).w = x.w ∧ ∀ j, j ≠ y.val → t.synth j = s.synth j)
      ∧ (x.attempt = 3 → s.links.events.length < 255 →
        ∃ t, exec (.relockAttemptEnd y false band margin) s = .next t ∧ (t.synth y).w.st = 4 ∧ (t.synth y).attempt = 0
          ∧ t.announced 0x8001 (le 1 (match y.val with | 1 => 0x1F | 3 => 3 | 4 => 0xC | _ => 0) ++ le 1 3 ++ le 2 0))
      ∧ (x.attempt ≠ 0 → ∃ t, exec (.relockAttemptEnd y true band margin) s = .next t ∧ (t.synth y).w.st = 2 ∧ (t.synth y).attempt = 0
          ∧ (t.synth y).relocks = x.relocks + 1)
      ∧ (x.attempt = 0 → x.planned = true → ∃ t, exec (.synthLockConfirmed y band margin) s = .next t ∧ (t.synth y).w.st = 2
          ∧ (t.synth y).planned = false
          ∧ ∃ e, (t.synth y).cache.head? = some e ∧ e.n = x.n ∧ e.d = x.d ∧ e.band = band)
      ∧ (x.attempt ≠ 0 → exec (.synthLockConfirmed y band margin) s = .next s))

/-- R36, R94, R106, R122, R124, R156, R162, R163: a fast attack raises the step by 2, at most to 15 and once in 1,200 cycles; the end of
settling arms both watches; a bin sample reaches the lanes of its bin alone, and on a lane without stages the peak that it decides on an armed
branch A, which is not below the threshold, puts a hit into the block and disarms the branch, while a sample that decides none puts no hit;
VDD_RF out of range puts every powered chain below TRANSMIT into FAULT; the always-on oscillator is noted lost with a flag
fall, and back. -/
def Obligations.FrontEndEvents : Prop :=
  ∀ s : State,
    (∀ p : Fin 6, let c := if p.val < 4 then p.val else 4
      s.cfgBit 1 (32 * c + 8) 0 = false → s.chainIs c .receive = true →
      ((s.gain p).fastAt = none → ∃ t, exec (.agcFastAttack p) s = .next t ∧ t = { s with gains := t.gains }
        ∧ (t.gain p).g = min 15 ((s.gain p).g + 2) ∧ (t.gain p).fastAt = some s.dtime ∧ ∀ j, j ≠ p.val → t.gain j = s.gain j)
      ∧ (∀ t0, (s.gain p).fastAt = some t0 → s.dtime < t0 + 1200 → exec (.agcFastAttack p) s = .next s))
    ∧ (∀ lane : Fin 512, let l := s.lane lane
      (l.settle ≠ 0 → s.laneIs lane .running = true → ∃ t, exec (.laneSettlingEnd lane) s = .next t
        ∧ t = { s with dtime := t.dtime, rx := { s.rx with lanes := t.rx.lanes } } ∧ (s.clk.stopped = false → l.settle ≤ t.dtime)
        ∧ (t.lane lane).settle = 0 ∧ (t.lane lane).wa.armed = true ∧ (t.lane lane).wb.armed = true ∧ (t.lane lane).w = l.w
        ∧ ∀ j, j ≠ lane.val → t.lane j = s.lane j)
      ∧ (∀ b : BinSample, s.boot.held = false → s.clk.stopped = false →
        let set := s.cfg.active
        let pair := lanePair set lane
        let jb := s.stroke * binsPerStroke pair + s.airOf pair (laneBin set lane)
        let y := ((mixer (ncoWord set lane) jb b).x.sat 16).x.mask (s.branchAt pair false (jb * binPeriod pair)) (s.branchAt pair true (jb * binPeriod pair))
        let pa := (l.wa.push set lane false (y.branch false)).peak set lane jb
        let pb := (l.wb.push set lane false (y.branch true)).peak set lane jb
        (∃ t, exec (.preambleHit lane [b]) s = .next t ∧ t.cfg = s.cfg ∧ t.dlv = s.dlv ∧ t.rx.ctxs = s.rx.ctxs
          ∧ ∀ i, (lanePair set i ≠ pair ∨ laneBin set i ≠ laneBin set lane) → t.lane i = s.lane i)
        ∧ (s.openLanes = [lane.val] → s.airOf pair (laneBin set lane) < binsPerStroke pair → laneWatchOff set lane = false → laneK set lane = 0 →
          l.on = true → l.turns = [] → l.armFrom < jb → l.wa.armed = true → l.wb.armed = true → l.hits = [] →
          (pa = none → pb = none → ∃ t, exec (.preambleHit lane [b]) s = .next t ∧ (t.lane lane).hits = [])
          ∧ (∀ p, pa = some p → pb = none → laneThr set lane ≤ p.rho ∧ ∃ t, exec (.preambleHit lane [b]) s = .next t
            ∧ (t.lane lane).wa.armed = false ∧ (t.lane lane).wa.ref = p.level ∧ (t.lane lane).wb.armed = true
            ∧ ∃ x, (t.lane lane).hits = [x] ∧ x.a = true ∧ x.b = false ∧ x.riseA = false ∧ x.j = p.j ∧ x.rhoA = p.rho ∧ x.levelA = p.level
                ∧ x.offset = p.offset ∧ x.frac = p.frac))))
    ∧ (∃ t, exec .vddRfFault s = .next t ∧ t.pwr.rfBad = true
        ∧ ∀ i, i < 5 → (s.chain i).w.st = 1 ∨ (s.chain i).w.st = 2 ∨ (s.chain i).w.st = 3 → (t.chain i).w.st = 5)
    ∧ exec .vddRfReturn s = .next { s with pwr := { s.pwr with rfBad := false } }
    ∧ (s.clk.aonLost = false → s.links.events.length < 256 → ∃ t, exec .aonOscFlagFall s = .next t ∧ t.clk.aonLost = true
        ∧ t.announced 0x800A (le 1 8 ++ le 3 0 ++ le 4 0) ∧ t = { s with clk := t.clk, links := t.links })
    ∧ exec .aonOscReturn s = .next { s with clk := { s.clk with aonLost := false } }

/-! ### Contexts and the telegram engine -/

/-- R23, R24, R27, R31, R170, R172, R173, R197, R202, R206 to R208: a finished block goes to retention; a sync match confirms its gambit; a window
without a match releases it; work four strokes old aborts its context and counts in ctx_overrun; a wait of 4,096 strokes ends; a sweep
whose tail is too long is skipped; a copied block counts in the spill region. -/
def Obligations.ContextProgress : Prop :=
  ∀ (i : Fin 1024) (c : Ctx) (s : State), s.rx.ctxs = [(i.val, c)] →
    let freed (t : State) : Prop := t.rx.ctxs = [] ∧ t.cfg = s.cfg ∧ t.dlv = s.dlv ∧ t.dir = s.dir
    (∀ (k : Fin 64) (h : Held) (rest : List Held), s.rx.orders = [] → c.sweep = none → c.rerun = none → c.blocks = h :: rest → h.scull = some k.val →
      c.st = .gambit → c.kept = [] → h.res = none → h.spill = none → h.await = false → c.unretained = false → c.dm.hit = none →
      s.rx.awaiting + s.rx.listed < 257 → s.rx.spill + s.awaitBytes + h.size ≤ 134217728 →
      let dm := ((s.demodBlock i h).ctx i).dm
      (dm.hit = none → ∃ t, exec (.workOrderComplete k) s = .next t ∧ t = { s with rx := t.rx } ∧ t.rx.awaiting = s.rx.awaiting + 1
        ∧ ∃ x, t.rx.ctxs = [(i.val, x)]
          ∧ x = { c with blocks := rest, kept := [{ h with scull := none, await := true }], dm := dm, refA := x.refA, refB := x.refB })
      ∧ (∀ m : Confirmed, dm.hit = some m → dm.need = none →
          ∃ t, exec (.workOrderComplete k) s = .next t ∧ ∃ x, t.rx.ctxs = [(i.val, x)] ∧ x.st = .confirmed ∧ x.syncAt = s.instant c.lane m.mt.pos
            ∧ x.syncErrs = m.errs ∧ x.fmtB = m.fmtB ∧ x.pick = some m.pick ∧ x.blocks = rest ∧ x.bits = dm.bits))
    ∧ (∀ (h : Held) (rest : List Held), c.rerun = none → c.sweep = none → c.blocks = h :: rest →
      (s.stroke < h.blk.stroke + 4 → exec (.contextOverrunAbort i) s = .next s)
      ∧ (h.blk.stroke + 4 ≤ s.stroke → ∃ t, exec (.contextOverrunAbort i) s = .next t ∧ freed t ∧ t.cnt.ctxOverrun = s.cnt.ctxOverrun + 1))
    ∧ (c.st = .gambit → ∀ n, c.dm.next = some n →
      let windowEnd := c.peak + symCycles s.cfg.active c.profile (profPreLen s.cfg.active c.profile + 8)
      (windowEnd < n * laneP s.cfg.active c.lane → ∃ t, exec (.gambitRelease i) s = .next t ∧ freed t
        ∧ t.cnt.gambitReleased = s.cnt.gambitReleased + 1)
      ∧ (n * laneP s.cfg.active c.lane ≤ windowEnd → exec (.gambitRelease i) s = .next s))
    ∧ (c.st = .waiting → c.sweep = none →
      (c.first + 4096 ≤ s.stroke → ∃ t, exec (.waitingExpiry i) s = .next t ∧ freed t ∧ t.rx.cap.waitingExpired = s.rx.cap.waitingExpired + 1)
      ∧ (s.stroke < c.first + 4096 → exec (.waitingExpiry i) s = .next s))
    ∧ (c.sweep.isSome = true → 64 < c.tail.length → c.passed = true → c.owed = [] →
      ∃ t, exec (.sweepTailLimit i) s = .next t ∧ freed t ∧ t.cnt = { s.cnt with sweepSkipped := s.cnt.sweepSkipped + 1 })
    ∧ (∀ (h : Held) (rest : List Held) (o : Nat), s.mem.refresh = false → c.kept = h :: rest → h.await = true → s.spillPlace h.size = some o →
      ∃ t, exec (.spillCopyDone i) s = .next t ∧ t = { s with rx := t.rx, mem := t.mem }
        ∧ (∃ x, t.rx.ctxs = [(i.val, x)] ∧ x.kept.head? = some { h with spill := some o, await := false } ∧ x.st = c.st ∧ x.blocks = c.blocks)
        ∧ t.rx.spill = s.rx.spill + h.size ∧ t.rx.awaiting = s.rx.awaiting - 1)

/-- R31, R36, R175, R176, R197, R216, R221, R235: the engine takes a stream while fewer than 256 are out, else the context holds it; one held
for 8 strokes is discarded with a flag fall; a line error ends its context and returns the credit; a frame that passes waits for the
directory engine; a MODE 0 stream becomes a record. A work order unfinished for 16 strokes resets its scull with a flag fall. -/
def Obligations.StreamsAndVerdicts : Prop :=
  ∀ (i : Fin 1024) (c : Ctx) (s : State), s.rx.ctxs = [(i.val, c)] → c.partners = [] → c.sweep = none →
    let line := profLine s.cfg.active c.profile
    let sent := c.bits.take (c.need.getD 0 * profBps s.cfg.active c.profile)
    (c.st = .offering → c.taken = false → c.passed = false →
      (s.rx.streamsOut < 256 → ∃ t, exec (.streamOffer i) s = .next t ∧ t = { s with rx := t.rx } ∧ t.rx.streamsOut = s.rx.streamsOut + 1
        ∧ t.rx.atEngine = s.rx.atEngine ++ [i.val] ∧ t.rx.ctxs = [(i.val, { c with taken := true, heldAt := none })]
        ∧ t.rx.eng.taken = s.rx.eng.taken + 1)
      ∧ (256 ≤ s.rx.streamsOut → c.heldAt = none → ∃ t, exec (.streamOffer i) s = .next t
        ∧ t = { s with rx := { s.rx with ctxs := [(i.val, { c with heldAt := some (s.dtime / 9600) })] } }))
    ∧ (∀ k, c.heldAt = some k → s.links.events.length < 256 →
      ∃ t, exec (.streamCreditFlagFall i) s = .next t ∧ t.rx.ctxs = [] ∧ t.cnt.streamsDiscarded = s.cnt.streamsDiscarded + 1
        ∧ t.announced 0x800A (le 1 4 ++ le 3 0 ++ le 4 i.val) ∧ (s.clk.stopped = false → (k + 8) * 9600 ≤ t.dtime))
    ∧ (s.rx.atEngine = [i.val] → s.rx.frames.length < 512 → c.residual = 0 → c.sweepCtx = false → c.owed = [] →
      (lineDecode line sent = none → ∃ t, exec (.verdict i) s = .next t ∧ t.rx.ctxs = [] ∧ t.rx.atEngine = []
        ∧ t.rx.eng.lineErrors = s.rx.eng.lineErrors + 1 ∧ t.rx.frames = s.rx.frames ∧ t.dlv = s.dlv)
      ∧ (∀ bits, lineDecode line sent = some bits → profMode s.cfg.active c.profile ≠ 0 →
        (openFrame c.fmtB (toBytes bits) = none → ∃ t, exec (.verdict i) s = .next t ∧ t.rx.ctxs = [] ∧ t.rx.atEngine = []
          ∧ t.rx.eng.crcErrors = s.rx.eng.crcErrors + 1 ∧ t.rx.frames = s.rx.frames)
        ∧ (∀ frame, openFrame c.fmtB (toBytes bits) = some frame → ∃ t, exec (.verdict i) s = .next t ∧ t.rx.atEngine = []
          ∧ t.rx.eng.passed = s.rx.eng.passed + 1
          ∧ ∃ f, t.rx.frames = s.rx.frames ++ [f] ∧ f.bytes = frame ∧ f.lane = c.lane ∧ f.profile = c.profile ∧ f.lqi = lqiOf c.snr c.devErr c.syncErrs))
      ∧ (∀ bits, lineDecode line sent = some bits → profMode s.cfg.active c.profile = 0 → s.links.endpoint = none → s.dlv.queue.length < 1048576 →
        ∃ t, exec (.verdict i) s = .next t ∧ t.rx.ctxs = [] ∧ t.rx.eng.rawStreams = s.rx.eng.rawStreams + 1
          ∧ t.dlv.nextSeq = s.dlv.nextSeq + 1
          ∧ ∃ r, t.dlv.queue = s.dlv.queue ++ [r] ∧ r.seq = s.dlv.nextSeq ∧ r.sent = false
              ∧ r.bytes.drop 48 = (toBytes (bits ++ List.replicate ((8 - bits.length % 8) % 8) false)).take 255))
    ∧ (∀ (k : Fin 64) (h : Held), c.scull = k.val → c.rerun = none → c.blocks = [h] → h.scull = some k.val → s.rx.orders = [] → s.rx.unplaced = [] →
      (s.stroke < h.blk.stroke + 17 → exec (.scullFlagFall k) s = .next s)
      ∧ (h.blk.stroke + 17 ≤ s.stroke → s.links.events.length < 255 → ∃ t, exec (.scullFlagFall k) s = .next t ∧ t.scull k = {} ∧ t.rx.ctxs = []
        ∧ t.cnt.ctxOverrun = s.cnt.ctxOverrun + 1 ∧ t.announced 0x800A (le 1 5 ++ le 3 0 ++ le 4 k.val) ∧ ∀ j, j ≠ k.val → t.scull j = s.scull j))

/-! ### Transmission -/

/-- R43, R48, R244, R246 to R248, R253, R262, R264, R265: a TX_SUBMIT that its checks and the umpire admit is QUEUED and stands in its band's
queue with its planned and latest start; the umpire's refusal is DENIED_UMPIRE with the rule and the reason, and EV_UMPIRE_DENY; a full
queue is BUSY. TX_CANCEL withdraws what does not radiate, ramps down what does, and finds what is complete. RULE_CARD_BURN writes the
card once, under its scope; a read-back that does not match, which is a free value (log 21), is HW_FAULT. -/
def Obligations.TransmitRequests : Prop :=
  ∀ (h : Hdr) (s : State),
    (∀ r : TxReq, s.takes h 0x0030 = true →
      let b : Band := if r.band.toNat = 0 then .h else .l
      let f := r.length.toNat
      let refusal (rule why : Nat) : Bytes := le 8 0 ++ le 1 rule ++ le 1 why ++ le 2 0
      h.len = 24 + f → r.frame.length = f → r.reserved = 0 → r.profile.toNat < 32 → frameFits s.cfg.active r.profile.toNat r.frame = true →
      r.band.toNat ≤ 1 → r.timing.toNat ≤ 1 → (r.timing = 0 → s.dtime ≤ r.start.toNat ∧ r.start.toNat ≤ s.dtime + 38400000) →
      r.latest.toNat ≤ 19200000 → powerOk b r.power.toInt = true → 1 ≤ f → f ≤ (if h.src = .spi then 4072 else 1428) →
      reachable s.cfg.active b r.frequency.toNat = true → s.chainIs (bandChain b) .fault = false → s.synIs (bandSyn b) .lost = false →
      s.synIs 1 .lost = false →
      (16 ≤ (s.txb b).places false → exec (.txSubmit h r) s = s.turnedAway h 0x0030 .busy (refusal 0xFF 0))
      ∧ ((s.txb b).places false < 16 →
        (∀ rule why, s.txVerdict r = .error (rule, why) → s.links.events.length < 256 →
          ∃ t, exec (.txSubmit h r) s = .next t ∧ t = { s with links := t.links }
            ∧ (∃ m ∈ t.links.waiting, m.tag = h.tag ∧ m.status = 4 ∧ m.payload = refusal rule why)
            ∧ t.announced 0x8007 (le 2 h.tag.toNat ++ le 1 rule ++ le 1 why))
        ∧ (∀ rule range, s.txVerdict r = .ok (rule, range) →
          ∃ t, exec (.txSubmit h r) s = .next t ∧ t = { s with links := t.links, tx := t.tx } ∧ t.queuedFor s h 0x0030 false 1
            ∧ (t.txb b).queue.length = (s.txb b).queue.length + 1 ∧ (∀ x ∈ (s.txb b).queue, x ∈ (t.txb b).queue)
            ∧ ∃ x ∈ (t.txb b).queue, x.tag = h.tag ∧ x.frame = r.frame ∧ x.freq = r.frequency.toNat ∧ x.power = r.power.toInt ∧ x.rule = rule
                ∧ x.profile = r.profile.toNat ∧ x.planned = (if r.timing = 0 then r.start.toNat else s.dtime)
                ∧ x.latest = x.planned + (if r.latest ≠ 0 then r.latest.toNat else if r.timing = 0 then 19200 else 192000))))
    ∧ (∀ tag : U16, s.takes h 0x0031 = true → h.len = 2 → tag ≠ 0 →
      let near := s.placeOf .h tag
      let far := s.placeOf .l tag
      (near = .absent → far = .absent → s.tx.complete.contains tag = false →
        exec (.txCancel h tag) s = s.turnedAway h 0x0031 .notFound [])
      ∧ (near = .absent → far = .absent → s.tx.complete.contains tag = true →
        ∃ t, exec (.txCancel h tag) s = .next t ∧ t = { s with links := t.links } ∧ t.answered s h 0x0031 .ok (le 1 2 ++ le 3 0))
      ∧ (near = .queued → s.tx.h.phase ≠ .idleTx → far = .absent → ∃ t, exec (.txCancel h tag) s = .next t ∧ t.tx.l = s.tx.l
        ∧ t.tx.h = { s.tx.h with queue := s.tx.h.queue.filter fun x => !(x.kind != .auto && x.tag == tag) }
        ∧ ∃ m ∈ t.links.waiting, m.tag = h.tag ∧ m.status = 0 ∧ m.payload = le 1 0 ++ le 3 0)
      ∧ (∀ first, near = .radiating → s.tx.h.phase = .radiating first → far = .absent →
        ∃ t, exec (.txCancel h tag) s = .next t ∧ t = { s with links := t.links, tx := t.tx }
          ∧ t.tx.h = { s.tx.h with phase := .rampingDown s.dtime first, onAir := t.tx.h.onAir } ∧ t.answered s h 0x0031 .ok (le 1 1 ++ le 3 0)))
    ∧ (∀ image : Bytes, s.takes h 0x0032 = true → h.len = 276 → image.length = 276 →
      (s.scopeOpen 2 = false → exec (.ruleCardBurn h image) s = s.turnedAway h 0x0032 .authFail [])
      ∧ (s.scopeOpen 2 = true → s.tx.card.isSome = true → exec (.ruleCardBurn h image) s = s.turnedAway h 0x0032 .locked [])
      ∧ (s.scopeOpen 2 = true → s.tx.card = none → s.tx.cardBad = false → cardForm image = true → cardRange image = true →
        ∃ t, exec (.ruleCardBurn h image) s = .next t
          ∧ t = { s with links := t.links, fresh := t.fresh, tx := { s.tx with card := t.tx.card, cardBad := t.tx.cardBad } }
          ∧ ((t.tx.card = some (cardOf image) ∧ t.tx.cardBad = false ∧ t.answered s h 0x0032 .ok (le 4 (crc32 (image.take 272)).toNat))
            ∨ (t.tx.card = none ∧ t.tx.cardBad = true ∧ t.answered s h 0x0032 .hwFault []))))

/-- R48, R97, R103, R108 to R110, R249 to R253, R259, R263: at its transition the item leaves the queue with its band blanked, and branch A enters
TRANSMIT, or begins its way there from SLEEP or STANDBY; the ramp-up begins 768 cycles before the start, which is the planned one or the first that the lead time allows, or the request is denied
over its duty; the first symbol comes 768 cycles later with the reply OK or LATE; the end of the frame counts its radiated time; an item not started
ends EXPIRED; 7,680 cycles after the last ramp-down blanking ends; a return loss below 3 dB ends the frame, from 3 to 6 dB reduces its power. -/
def Obligations.TransmissionCourse : Prop :=
  ∀ (b : Band) (s : State),
    let a := s.txb b
    let counts := s.clk.stopped = false
    (∀ x rest, a.queue = x :: rest → s.txReady b = true → s.trimHolds b = false →
      ∃ t, exec (.txTransitionStart b) s = .next t ∧ (t.txb b).item = some x ∧ (t.txb b).queue = rest
        ∧ (t.txb b).phase = .transition (max x.planned (t.dtime + s.leadTime b x))
        ∧ (t.txb b).blankAt = some (a.blankAt.getD t.dtime) ∧ (counts → x.planned - s.leadTime b x ≤ t.dtime)
        ∧ (2 ≤ (s.chainSt (bandChain b)).level → (t.chain (bandChain b)).w.st = 4)
        ∧ ((s.chain (bandChain b)).w.st ≤ 1 → (t.chain (bandChain b)).target = some .transmit ∧ (t.chain (bandChain b)).w.st = (s.chain (bandChain b)).w.st))
    ∧ (∀ x t0 card r, a.phase = .transition t0 → a.item = some x → s.synIs (bandSyn b) .locked = true → s.synIs 1 .locked = true →
      s.chainIs (bandChain b) .transmit = true → counts → s.dtime ≤ t0 - 768 → 768 ≤ t0 → t0 ≤ x.latest →
      s.tx.card = some card → card.ranges[x.rule]? = some r →
      ((s.at (t0 - 768)).overDuty x.rule r (x.airtime + 1536) = false →
        ∃ t, exec (.txRampUp b) s = .next t ∧ t = { s with dtime := t0 - 768, tx := t.tx, fresh := t.fresh }
          ∧ t.txb b = { a with phase := .ramping (t0 - 768), paxEn := s.extGain b != 0, onAir := [], drive := (t.txb b).drive })
      ∧ ((s.at (t0 - 768)).overDuty x.rule r (x.airtime + 1536) = true → s.links.events.length < 256 →
        ∃ t, exec (.txRampUp b) s = .next t ∧ (t.txb b).phase = .idle ∧ (t.txb b).item = none
          ∧ t.announced 0x8007 (le 2 x.tag.toNat ++ le 1 x.rule ++ le 1 3)))
    ∧ (∀ x at_ (e : TagEntry), a.phase = .ramping at_ → a.item = some x → x.kind ≠ .auto → x.tag = e.tag → s.outstanding e.tag = some e →
      s.reachable e.src = true →
      ∃ t, exec (.txFirstSymbol b) s = .next t ∧ t.txb b = { a with phase := .radiating (at_ + 768), onAir := x.air } ∧ t.outstanding e.tag = none
        ∧ (counts → at_ + 768 ≤ t.dtime)
        ∧ ∃ m ∈ t.links.waiting, m.tag = e.tag ∧ m.payload = le 8 (at_ + 768) ++ le 1 x.rule ++ le 1 0 ++ le 2 0
            ∧ m.status = (if x.kind = .asap ∨ at_ + 768 ≤ x.planned + 38 then 0 else 2))
    ∧ (∀ x first, a.phase = .radiating first → a.item = some x → a.queue = [] → x.kind ≠ .auto → getT [] s.tx.duty x.rule = [] →
      768 ≤ first → 38400000 * (first / 38400000) + 768 ≤ first → first + x.airtime + 768 < 38400000 * (first / 38400000 + 1) →
      ∃ t, exec (.txRampDownComplete b) s = .next t ∧ (t.txb b).phase = .idle ∧ (t.txb b).item = none ∧ (t.txb b).downAt = some t.dtime
        ∧ x.tag ∈ t.tx.complete ∧ getT [] t.tx.duty x.rule = [(s.tx.dutyBase + first / 38400000, x.airtime + 1536)]
        ∧ (counts → first + x.airtime + 768 ≤ t.dtime))
    ∧ (∀ x (e : TagEntry), a.phase = .idle → a.item = none → a.queue = [x] → x.kind ≠ .auto → x.tag = e.tag → s.outstanding e.tag = some e →
      s.reachable e.src = true →
      ∃ t, exec (.txExpired b) s = .next t ∧ t.txb b = { a with queue := [] } ∧ t.outstanding e.tag = none ∧ (counts → x.latest + 1 ≤ t.dtime)
        ∧ ∃ m ∈ t.links.waiting, m.tag = e.tag ∧ m.status = 3 ∧ m.payload.take 9 = le 8 0 ++ le 1 x.rule)
    ∧ (∀ t0 t1, a.phase = .idle → a.blankAt = some t0 → a.downAt = some t1 →
      ∃ t, exec (.blankingEnd b) s = .next t ∧ t.txb b = { a with blankAt := none, downAt := none, lastBlank := some (t0, t.dtime), blanks := (t.txb b).blanks }
        ∧ (counts → t1 + 7680 ≤ t.dtime))
    ∧ (∀ first tenths, a.phase = .radiating first →
      (tenths < 30 → s.links.events.length < 255 → ∃ t, exec (.returnLossReading b tenths) s = .next t
        ∧ t.txb b = { a with phase := .rampingDown s.dtime first, onAir := (t.txb b).onAir } ∧ (t.chain (bandChain b)).rl = tenths
        ∧ t.announced 0x8003 (le 2 (0x0400 + bandCode b) ++ le 2 0 ++ le 4 tenths))
      ∧ (30 ≤ tenths → tenths ≤ 60 → ∃ t, exec (.returnLossReading b tenths) s = .next t ∧ t.txb b = { a with reduced := true }
        ∧ (t.chain (bandChain b)).rl = tenths)
      ∧ (60 < tenths → ∃ t, exec (.returnLossReading b tenths) s = .next t
        ∧ t = { s with chains := t.chains, trim := { s.trim with ledger := { s.trim.ledger with rl := t.trim.ledger.rl } } }
        ∧ (t.chain (bandChain b)).rl = min tenths 300
        ∧ (s.trim.ledger.rl.length = 2 → t.trim.ledger.rl.getD (bandCode b) (0, 0) = (min tenths 300, s.dtime))))

/-! ### Broadcast -/

/-- R92, R267, R268, R274, R275: BC_TUNE tunes its path and holds its tag, BUSY while a tune runs or chain B is not in RECEIVE; its end
reports the carrier and the RSSI. BC_AF starts or stops following, LOCKED on an untuned path. A candidate twice above the margin is
tuned; when the followed PI does not come the former frequency returns and the candidate is barred for 60 s. -/
def Obligations.BroadcastTuning : Prop :=
  ∀ (h : Hdr) (s : State),
    (∀ freq : U32, s.takes h 0x0060 = true → h.len = 8 →
      (87500000 ≤ freq.toNat → freq.toNat ≤ 108000000 → freq.toNat % 50000 = 0 →
        ((s.chainIs 4 .receive = false ∨ s.bc.vhf.tuning.isSome = true) → exec (.bcTune h 0 0 0 freq) s = s.turnedAway h 0x0060 .busy [])
        ∧ (s.chainIs 4 .receive = true → s.bc.vhf.tuning = none → ∃ t, exec (.bcTune h 0 0 0 freq) s = .next t ∧ t.holds s h 0x0060
          ∧ t = { s with links := t.links, bc := t.bc, synths := t.synths } ∧ t.bc.vhf.freq = freq.toNat ∧ t.bc.vhf.tuning = some h.tag
          ∧ t.bc.af.on = false ∧ t.bc.lfmf = s.bc.lfmf
          ∧ (s.synIs 5 .off = true → t.synIs 5 .search = true ∧ (t.synth 5).n = (freq.toNat - 1500000 + 1199999) / 1200000)))
      ∧ (148500 ≤ freq.toNat → freq.toNat ≤ 283500 → s.chainIs 4 .receive = true → s.bc.lfmf.tuning = none →
        ∃ t, exec (.bcTune h 1 0 0 freq) s = .next t ∧ t.holds s h 0x0060 ∧ t.bc.lfmf.freq = freq.toNat ∧ t.bc.lfmf.tuning = some h.tag
          ∧ t.bc.vhf = s.bc.vhf)
      ∧ (freq.toNat < 148500 → exec (.bcTune h 1 0 0 freq) s = s.turnedAway h 0x0060 .range []))
    ∧ (∀ (e : TagEntry) (rssi : Int), s.outstanding e.tag = some e → s.reachable e.src = true →
      let reply (t : State) (path : Nat) : Prop :=
        { kind := .reply, opcode := e.opcode, tag := e.tag, flags := 0x2000, status := 0, dst := e.src, recs := []
          payload := le 1 path ++ le 1 (if -1600 ≤ rssi then 1 else 0) ++ leI 2 rssi } ∈ t.links.waiting
      (s.bc.lfmf.tuning = some e.tag → ∃ t, exec (.bcTuneComplete true rssi) s = .next t ∧ t.bc.lfmf.tuning = none ∧ reply t 1)
      ∧ (s.bc.vhf.tuning = some e.tag → s.synIs 5 .locked = true →
        ∃ t, exec (.bcTuneComplete false rssi) s = .next t ∧ t.bc.vhf.tuning = none ∧ reply t 0))
    ∧ (∀ (pi : U16) (codes : Bytes), s.takes h 0x0061 = true → h.len = 4 + codes.length → codes.length ≤ 25 →
      (∀ c ∈ codes, 1 ≤ c.toNat ∧ c.toNat ≤ 204) → pi ≠ 0 →
      let k : U8 := BitVec.ofNat 8 codes.length
      (s.bc.vhf.freq = 0 → exec (.bcAf h 1 k pi codes) s = s.turnedAway h 0x0061 .locked [])
      ∧ (s.bc.vhf.freq ≠ 0 →
        (∃ t, exec (.bcAf h 1 k pi codes) s = .next t ∧ t = { s with links := t.links, bc := { s.bc with af := t.bc.af } }
          ∧ t.bc.af.on = true ∧ t.bc.af.pi = pi ∧ t.bc.af.list = codes ∧ t.answered s h 0x0061 .ok (le 1 (afCode s.bc.vhf.freq)))
        ∧ (∃ t, exec (.bcAf h 0 k pi codes) s = .next t ∧ t.bc.af.on = false ∧ t.bc.vhf = s.bc.vhf)))
    ∧ (∀ (m rssi : Int) (c : U8), s.bc.af.on = true → s.rdsOn = true → s.bc.af.verify = none → s.bc.vhf.tuning = none → s.afMean = some m →
      m < s.afRssi → s.afCandidate = some c →
      (rssi < m + s.afMargin → ∃ t, exec (.afCheck rssi) s = .next t ∧ t.bc.vhf = s.bc.vhf ∧ (c, rssi, 0) ∈ t.bc.af.checked ∧ t.dlv = s.dlv)
      ∧ (∀ old, m + s.afMargin ≤ rssi → s.bc.af.found c = some (old, 1) →
        ∃ t, exec (.afCheck rssi) s = .next t ∧ t.bc.vhf.freq = 87500000 + 100000 * c.toNat
          ∧ t.bc.af.verify = some (s.bc.vhf.freq, c, s.dtime) ∧ t.dlv.nextSeq = s.dlv.nextSeq + 1))
    ∧ (∀ prev c t0, s.bc.af.verify = some (prev, c, t0) → ∃ t, exec .afPiTimeout s = .next t ∧ t.bc.vhf.freq = prev ∧ t.bc.af.verify = none
        ∧ (c, t.dtime + 60 * 38400000) ∈ t.bc.af.barred ∧ (s.clk.stopped = false → t0 + 300 * 38400 ≤ t.dtime))

/-- R272, R276 to R280: two blocks in order give sync, and ten uncorrectable ones lose it; a group gives its PI where block 1 is usable; a clock-time group is delivered as event 2 with
the UTC its MJD, hour and minute spell; a data frame of TYPE 1 is delivered when its length and sync errors fit; a second marker after a
valid minute counts on with one second each. -/
def Obligations.BroadcastData : Prop :=
  ∀ s : State,
    (∀ keyed : List Bool, s.rdsOn = true → s.bc.rds.sync = false →
      (rdsInOrder (rdsBits keyed) = true →
        exec (.rdsSyncFound keyed) s = .next { s with bc := { s.bc with rds := { s.bc.rds with sync := true, recent := [] } } })
      ∧ (rdsInOrder (rdsBits keyed) = false → exec (.rdsSyncFound keyed) s = .next s))
    ∧ (s.bc.rds.sync = true →
      (10 ≤ (s.bc.rds.recent.filter id).length →
        exec .rdsSyncLost s = .next { s with bc := { s.bc with rds := { s.bc.rds with sync := false } } })
      ∧ ((s.bc.rds.recent.filter id).length < 10 → exec .rdsSyncLost s = .next s))
    ∧ (∀ x : RdsIn, let g := s.rdsDecode x
      s.rdsOn = true → s.bc.rds.sync = true → s.bc.af.verify = none → g.s1 ≤ 1 →
      (2 ≤ g.s2 → ∃ t, exec (.rdsGroup x) s = .next t ∧ t = { s with bc := t.bc } ∧ t.bc.rds = { s.bc.rds.mark g with pi := some g.b1 })
      ∧ (g.s2 = 0 → g.s3 = 0 → g.s4 = 0 → g.b2.toNat / 2048 = 8 → s.dlv.queue.length < 1048576 → s.links.endpoint = none →
        let mjd := g.b2.toNat % 4 * 32768 + g.b3.toNat / 2
        let hour := g.b3.toNat % 2 * 16 + g.b4.toNat / 4096
        let minute := g.b4.toNat / 64 % 64
        ∃ t, exec (.rdsGroup x) s = .next t ∧ t.bc.rds.pi = some g.b1 ∧ t.dlv.nextSeq = s.dlv.nextSeq + 1
          ∧ ∃ r, t.dlv.queue = s.dlv.queue ++ [r] ∧ fieldAt 20 2 r.bytes = g.b1.toNat ∧ fieldAt 22 1 r.bytes = 2 ∧ fieldAt 23 1 r.bytes = 8
              ∧ (40587 ≤ mjd → r.bytes.drop 54 = le 8 (((mjd - 40587) * 86400 + hour * 3600 + minute * 60) * 1000000000))))
    ∧ (∀ f : LfIn, let slot := f.slot.val
      s.lfOn slot = true → s.cfgNat 5 (64 + 64 * slot) 1 = 1 → s.dlv.queue.length < 1048576 → s.links.endpoint = none →
      (∀ x, s.lfDecode f = some x → x.bits.length = s.cfgNat 5 (64 + 64 * slot + 12) 2 ∧ x.syncErrs ≤ s.cfgNat 5 (64 + 64 * slot + 6) 1
        ∧ ∃ t, exec (.lfFrame f) s = .next t ∧ t.dlv.nextSeq = s.dlv.nextSeq + 1
          ∧ ∃ r, t.dlv.queue = s.dlv.queue ++ [r] ∧ fieldAt 20 1 r.bytes = slot ∧ fieldAt 22 1 r.bytes = 0 ∧ r.bytes.drop 48 = packMsb x.bits)
      ∧ (s.lfDecode f = none → exec (.lfFrame f) s = .next s))
    ∧ (∀ (at_ : Nat) (m : Int) (n : Nat) (utc : Int), let slot := s.bc.lfmf.profile - 1
      s.lfOn slot = true → s.cfgNat 5 (64 + 64 * slot) 1 = 2 → findT s.bc.lfLast slot = some (m, n, utc) → n < 60 →
      ∃ t, exec (.lfSecondMarker at_) s = .next t ∧ t = { s with bc := t.bc, time := t.time }
        ∧ findT t.bc.lfLast slot = some (m, n + 1, utc + 1000000000)
        ∧ t.time.pendingS = s.time.pendingS ++ [(4, at_, utc, 1000000)])

/-! ### Time -/

/-- R35, R36, R46, R280, R282 to R286: TIME_SET gives a sample of source 2 up to 1,000 ns of uncertainty and of source 5 above, LATE when more
than 1 s past, RANGE when more than 1 s ahead; TIME_SOURCE replaces the running order; a source without samples becomes invalid; a pulse
outside its window is only counted, one accepted is captured; no pulse for 1.5 s raises a flag fall; PPS_OUT rises and falls; a PTP event
frame is delivered as a record. -/
def Obligations.TimeSources : Prop :=
  ∀ (h : Hdr) (s : State),
    (∀ (utc dtime : U64) (u : U32), s.takes h 0x00B0 = true → h.len = 20 →
      (s.dtime + 38400000 < dtime.toNat → exec (.timeSet h utc dtime u) s = s.turnedAway h 0x00B0 .range [])
      ∧ (dtime.toNat + 38400000 < s.dtime → exec (.timeSet h utc dtime u) s = s.turnedAway h 0x00B0 .late [])
      ∧ (s.dtime ≤ dtime.toNat + 38400000 → dtime.toNat ≤ s.dtime + 38400000 →
        let i : Nat := if u.toNat ≤ 1000 then 2 else 5
        ∃ t, exec (.timeSet h utc dtime u) s = .next t ∧ t = { s with links := t.links, time := t.time } ∧ t.answered s h 0x00B0 .ok []
          ∧ t.time.pendingS = s.time.pendingS ++ [(i, dtime.toNat, (utc.toNat : Int), u.toNat)] ∧ (t.time.src i).valid = true
          ∧ (t.time.src i).last = some dtime.toNat ∧ ∀ j, j ≠ i → t.time.src j = s.time.src j))
    ∧ (∀ s0 s1 s2 s3 : U8, s.takes h 0x00B1 = true → h.len = 4 →
      let order := [s0.toNat, s1.toNat, s2.toNat, s3.toNat]
      (∀ x ∈ order, x ≤ 5) → (order.filter (· ≠ 0)).Nodup →
      ∃ t, exec (.timeSource h s0 s1 s2 s3) s = .next t ∧ t = { s with links := t.links, time := t.time } ∧ t.time.order = order
        ∧ t.answered s h 0x00B1 .ok (le 1 t.time.inUse)
        ∧ (t.time.inUse ≠ 0 → t.time.inUse ∈ order ∧ (s.time.src t.time.inUse).valid = true)
        ∧ ((∀ x ∈ order, (s.time.src x).valid = false) → t.time.inUse = 0))
    ∧ (∀ (i : Fin 6) (t0 : Nat), i ≠ 0 → i ≠ 1 → (s.time.src i).last = some t0 → (s.time.src i).valid = true →
      ∃ t, exec (.timeSourceExpiry i) s = .next t ∧ (t.time.src i).valid = false ∧ t.time.inUse ≠ i.val ∧ t.cfg = s.cfg)
    ∧ (∀ at_ ns : Nat,
      (ns < 100 → exec (.ppsPulse at_ ns) s = .next s)
      ∧ (100 ≤ ns → ∀ t0, s.time.ppsAt = some t0 → (s.time.src 1).valid = true → t0 + 38400000 + 38400 < at_ →
        exec (.ppsPulse at_ ns) s = .next { s with cnt := { s.cnt with ppsBad := s.cnt.ppsBad + 1 } })
      ∧ (100 ≤ ns → s.time.ppsAt = none → ∃ t, exec (.ppsPulse at_ ns) s = .next t ∧ t.time.ppsAt = some at_ ∧ t = { s with time := t.time }))
    ∧ (∀ t0, s.time.ppsAt = some t0 → s.links.events.length < 256 → ∃ t, exec .ppsFlagFall s = .next t ∧ t.time.ppsAt = none
        ∧ (t.time.src 1).valid = false ∧ t.announced 0x800A (le 1 3 ++ le 3 0 ++ le 4 0) ∧ (s.clk.stopped = false → t0 + 57600000 ≤ t.dtime))
    ∧ (s.pins.ppsOut = true → ∃ t, exec .ppsOutEdge s = .next t ∧ t.pins = { s.pins with ppsOut := false } ∧ t.time = s.time)
    ∧ (s.pins.ppsOut = false → s.time.ppsOutAt = none → s.cfgNat 12 4 1 % 4 = 2 → s.clk.stopped = false →
        ∃ t, exec .ppsOutEdge s = .next t ∧ t.pins = { s.pins with ppsOut := true } ∧ t.dtime % 38400000 = 0 ∧ s.dtime ≤ t.dtime
          ∧ t.time.ppsOutAt = some t.dtime)
    ∧ (∀ f : PtpFrame, s.netUp = true → s.cfgBit 12 4 3 = true → s.dlv.queue.length < 1048576 → s.links.endpoint = none →
      ((f.isUdp = true ∧ f.udpPort = 319) ∨ (f.isUdp = false ∧ f.ethertype = 0x88F7)) →
      ∃ t, exec (.ptpEventFrame f) s = .next t ∧ t = { s with dlv := t.dlv } ∧ t.dlv.nextSeq = s.dlv.nextSeq + 1
        ∧ ∃ r, t.dlv.queue = s.dlv.queue ++ [r] ∧ fieldAt 4 8 r.bytes = f.sfd % 2 ^ 64 ∧ fieldAt 20 1 r.bytes = f.messageType.toNat
            ∧ fieldAt 24 2 r.bytes = f.sequenceId.toNat ∧ r.bytes.drop 48 = f.message.take 255)

/-! ### Streams and the TDM port -/

/-- R41, R294: STREAM_START on an idle group with consistent enabled channels and SYN_A locked waits for rising edge 0 at the next catch; it is
BUSY while the group runs, INCONSISTENT for a group that fails its agreement check and LOCKED without an enabled channel. STREAM_STOP
waits for the end of the block, LOCKED on a stopped group. No edge of an external clock for 10 ms ends a start with TIMEOUT. -/
def Obligations.StreamCommands : Prop :=
  ∀ (h : Hdr) (g : Fin 4) (s : State),
    let x := s.group g
    let set := s.cfg.active
    let n : U8 := BitVec.ofNat 8 g.val
    let mine (t : State) : Prop := t = { s with links := t.links, str := t.str } ∧ t.str.tdm = s.str.tdm ∧ ∀ j, j ≠ g.val → t.group j = s.group j
    (x.waits = [] → x.starting = none → x.stopping = none → h.len = 4 →
      (s.takes h 0x0070 = true →
        (x.w.st = 1 ∨ x.w.st = 2 → ∃ t, exec (.streamStart h n 0) s = .next t ∧ mine t ∧ t.group g = x ∧ t.answered s h 0x0070 .busy [])
        ∧ (x.w.st = 0 ∨ x.w.st = 3 →
          (streamGroupOk set g = false →
            ∃ t, exec (.streamStart h n 0) s = .next t ∧ mine t ∧ t.group g = x ∧ t.answered s h 0x0070 .inconsistent [])
          ∧ (groupChans set g = [] → streamGroupOk set g = true →
            ∃ t, exec (.streamStart h n 0) s = .next t ∧ mine t ∧ t.group g = x ∧ t.answered s h 0x0070 .locked [])
          ∧ (streamGroupOk set g = true → groupChans set g ≠ [] → strExt set g = false → s.synIs 1 .locked = true →
            ∃ t, exec (.streamStart h n 0) s = .next t ∧ mine t ∧ t.holds s h 0x0070
              ∧ t.group g = { x with starting := some (h.tag, 9600 * (s.dtime / 9600 + 1), false), measure := none })))
      ∧ (s.takes h 0x0071 = true →
        (x.w.st = 0 → ∃ t, exec (.streamStop h n 0) s = .next t ∧ mine t ∧ t.group g = x ∧ t.answered s h 0x0071 .locked [])
        ∧ (x.w.st ≠ 0 → ∃ t, exec (.streamStop h n 0) s = .next t ∧ mine t ∧ t.holds s h 0x0071
            ∧ t.group g = { x with stopping := some h.tag })))
    ∧ (∀ (e : TagEntry) (t0 : Nat), x.starting = some (e.tag, t0, true) → x.measure = none → x.waits = [] → s.outstanding e.tag = some e →
      s.reachable e.src = true →
      ∃ t, exec (.streamStartTimeout g) s = .next t ∧ t.group g = { x with starting := none } ∧ t.outstanding e.tag = none
        ∧ (s.clk.stopped = false → t0 + 384000 ≤ t.dtime) ∧ ∃ m ∈ t.links.waiting, m.tag = e.tag ∧ m.status = 12)

/-- R63, R293, R297, R299, R301: a running group without its clock is STALLED and counts a stall; its clock back, it runs and settles again; an
external clock measured off by more than 2 % ends in RATE_FAULT; each with EV_STREAM_FAULT. Where a stall ends the halt of the decimators is
closed, from which they restart. A dropped sample is counted and marks its block. -/
def Obligations.StreamSupervision : Prop :=
  ∀ (g : Fin 4) (s : State),
    let x := s.group g
    let fault (t : State) (kind : Nat) (ppm : Int) : Prop := t.announced 0x8006 (le 1 kind ++ le 3 0 ++ leI 4 ppm)
    s.links.events.length < 255 →
    (x.w.st = 1 → (strExt s.cfg.active g = true ∨ s.synIs 1 .locked = false) →
      ∃ t, exec (.streamStall g) s = .next t ∧ (t.group g).w.st = 2 ∧ (t.group g).stalls = x.stalls + 1 ∧ fault t 0 x.ratePpm
        ∧ (t.group g).halts = (s.dtime, true) :: x.halts
        ∧ t = { s with links := t.links, str := t.str })
    ∧ (x.w.st ≠ 1 → exec (.streamStall g) s = .next s)
    ∧ (x.w.st = 2 → (strExt s.cfg.active g = true ∨ (s.synIs 1 .locked = true ∧ x.dead = false)) →
      ∃ t, exec (.streamStallEnd g) s = .next t ∧ (t.group g).w.st = 1 ∧ fault t 1 x.ratePpm
        ∧ (t.group g).halts = (s.dtime, false) :: x.halts ∧ t = { s with links := t.links, str := t.str })
    ∧ (x.w.st = 1 → strExt s.cfg.active g = true →
      ((20000 < x.ratePpm ∨ x.ratePpm < -20000) → ∃ t, exec (.streamRateFault g) s = .next t ∧ (t.group g).w.st = 3
        ∧ (t.group g).rateFaults = x.rateFaults + 1 ∧ fault t 2 x.ratePpm)
      ∧ (-20000 ≤ x.ratePpm → x.ratePpm ≤ 20000 → exec (.streamRateFault g) s = .next s))
    ∧ (∀ ofs, x.w.st = 1 → ofs < 800 → ofs ∉ x.drops →
      ∃ t, exec (.streamSampleDrop g ofs) s = .next t ∧ t = { s with str := t.str }
        ∧ t.group g = { x with drops := x.drops ++ [ofs], flags := x.flags ||| 2, dropSamples := x.dropSamples + 1 })

/-- R305, R309 to R313: TDM_START and TDM_STOP wait for the port, BUSY and LOCKED where it does not stand right; the first frame sync sets it
running and answers; a slave measurement that fails is HW_FAULT, one without edges TIMEOUT; underrun, overflow, slip, restart, stop, slave
stall, frame error and rate fault act on the FIFO, the slots, the state and their counters. -/
def Obligations.TdmPort : Prop :=
  ∀ (h : Hdr) (e : TagEntry) (s : State),
    let x := s.str.tdm
    let idle := x.waits = [] ∧ x.starting = none ∧ x.stopping = none
    let owed := s.outstanding e.tag = some e ∧ s.reachable e.src = true
    let ended (t : State) (status : Nat) : Prop := t.outstanding e.tag = none ∧ ∃ m ∈ t.links.waiting, m.tag = e.tag ∧ m.status = status
    let only (t : State) : Prop := t = { s with str := { s.str with tdm := t.str.tdm } }
    (s.takes h 0x0072 = true → h.len = 0 → idle →
      (x.w.st = 0 → groupFrame s.cfg.active = true → groupSource s.cfg.active = true →
        ∃ t, exec (.tdmStart h) s = .next t ∧ t.holds s h 0x0072
          ∧ t = { s with links := t.links, str := { s.str with tdm := { x with starting := some (h.tag, s.dtime) } } })
      ∧ (x.w.st = 0 → groupFrame s.cfg.active = false → ∃ t, exec (.tdmStart h) s = .next t ∧ t = { s with links := t.links }
          ∧ t.answered s h 0x0072 .inconsistent [])
      ∧ (x.w.st ≠ 0 → ∃ t, exec (.tdmStart h) s = .next t ∧ t = { s with links := t.links } ∧ t.answered s h 0x0072 .busy []))
    ∧ (s.takes h 0x0073 = true → h.len = 0 → idle →
      (x.w.st = 0 → ∃ t, exec (.tdmStop h) s = .next t ∧ t = { s with links := t.links } ∧ t.answered s h 0x0073 .locked [])
      ∧ (x.w.st ≠ 0 → ∃ t, exec (.tdmStop h) s = .next t ∧ t.holds s h 0x0073
          ∧ t = { s with links := t.links, str := { s.str with tdm := { x with stopping := some h.tag } } }))
    ∧ (∀ t0, x.starting = some (e.tag, t0) → x.waits = [] → owed → (x.w.gen = x.w.mgGen → x.w.st = x.w.mgSt) →
      (tdmSlave s.cfg.active = false → ∀ lens span, ∃ t, exec (.tdmStartFrameSync lens span) s = .next t ∧ t.str.tdm.w.st = 1
        ∧ t.str.tdm.starting = none ∧ t.str.tdm.silence = .start ∧ t.str.tdm.lf = 512 ∧ t.str.tdm.fifo = [] ∧ t.str.tdm.skew = 0 ∧ ended t 0
        ∧ (s.clk.stopped = false → 9600 * (t0 / 9600 + 1) ≤ t.dtime))
      ∧ (tdmSlave s.cfg.active = true →
        (∀ (lens : List Nat) (span : Nat), slaveGood s.cfg.active lens span = false →
          ∃ t, exec (.tdmStartFrameSync lens span) s = .next t ∧ t.str.tdm = { x with starting := none } ∧ ended t 14)
        ∧ (∀ lf span : Nat, 32 * tdmSlots s.cfg.active ≤ lf → lf ≤ 512 → (framePpm s.cfg.active 4 span).natAbs ≤ 20000 →
          ∃ t, exec (.tdmStartFrameSync [lf, lf, lf, lf] span) s = .next t ∧ t.str.tdm.w.st = 1 ∧ t.str.tdm.starting = none
            ∧ t.str.tdm.silence = .start ∧ t.str.tdm.lf = lf ∧ t.str.tdm.ratePpm = framePpm s.cfg.active 4 span ∧ t.str.tdm.fifo = []
            ∧ t.dtime = s.dtime ∧ ended t 0)
        ∧ (∃ t, exec .tdmStartTimeout s = .next t ∧ t.str.tdm = { x with starting := none } ∧ ended t 12
            ∧ (s.clk.stopped = false → t0 + 384000 ≤ t.dtime))))
    ∧ (x.w.st = 1 → x.skew ≠ 0 → x.silence = .none → x.stalled = false → s.links.events.length < 255 →
      ∃ t, exec .slotSlip s = .next t ∧ t.str.tdm.w.st = 2 ∧ t.str.tdm.slips = x.slips + 1
        ∧ t.announced 0x8005 (le 1 (if s.cfgBit 7 0 5 then 1 else 0) ++ le 3 0)
        ∧ (s.cfgBit 7 0 5 = true → t.str.tdm.silence = .restart ∧ t.str.tdm.skew = 0 ∧ t.str.tdm.fifo = [])
        ∧ (s.cfgBit 7 0 5 = false → t.str.tdm.silence = .none ∧ t.str.tdm.skew = x.skew))
    ∧ (x.w.st ≠ 0 → x.silence = .none → x.stalled = false → x.stopping = none →
      (x.fifo = [] → tdmWords s.cfg.active ≠ 0 → ∃ t, exec .tdmUnderrun s = .next t ∧ only t
        ∧ t.str.tdm = { x with underrun := x.underrun + 1, missing := x.missing + 1, skew := (x.skew + 1) % tdmWords s.cfg.active })
      ∧ (x.fifo ≠ [] → exec .tdmUnderrun s = .next s)
      ∧ (s.tdmLevel = 64 → ∃ t, exec .tdmOverflow s = .next t ∧ only t
          ∧ t.str.tdm = { x with overflow := x.overflow + 1, excess := x.excess + 1 })
      ∧ (s.tdmLevel ≠ 64 → exec .tdmOverflow s = .next s))
    ∧ (x.w.st ≠ 0 → x.stalled = false →
      let target (y : Tdm) : Prop := y.silence = .none ∧ y.fifo.length = 32 * tdmWords s.cfg.active ∧ (x.fifo <:+ y.fifo ∨ y.fifo <:+ x.fifo)
      (x.silence = .start → ∃ t, exec .tdmRestartEnd s = .next t ∧ only t ∧ target t.str.tdm
          ∧ t.str.tdm = { x with silence := .none, fifo := t.str.tdm.fifo })
      ∧ (x.silence = .restart → ∃ t, exec .tdmRestartEnd s = .next t ∧ only t ∧ t.str.tdm.w.st = 1 ∧ target t.str.tdm
          ∧ t.str.tdm.restarts = x.restarts + 1))
    ∧ (x.stopping = some e.tag → x.waits = [] → x.starting = none → owed → s.trim.marked = [] →
      ∃ t, exec .tdmStopEnd s = .next t ∧ t.str.tdm.w.st = 0 ∧ t.str.tdm.stopping = none ∧ t.str.tdm.fifo = [] ∧ ended t 0)
    ∧ (tdmSlave s.cfg.active = true → x.w.st ≠ 0 → s.links.events.length < 255 →
      (x.stalled = false → ∃ t, exec .tdmSlaveStall s = .next t ∧ t.str.tdm.stalled = true ∧ t.announced 0x8006 (le 1 0 ++ le 3 0 ++ leI 4 x.ratePpm))
      ∧ (x.stalled = true → ∃ t, exec .tdmSlaveStallEnd s = .next t ∧ t.str.tdm.stalled = false ∧ t.str.tdm.silence = .restart
          ∧ t.announced 0x8006 (le 1 1 ++ le 3 0 ++ leI 4 x.ratePpm))
      ∧ (x.stalled = false → x.silence = .none → tdmWords s.cfg.active ≠ 0 → ∀ n, ∃ t, exec (.tdmFrameError false n) s = .next t ∧ only t
          ∧ t.str.tdm = { x with fsErrors := x.fsErrors + 1, skew := (x.skew + n) % tdmWords s.cfg.active })
      ∧ (x.stopping = none → x.waits = [] →
          ((20000 < x.ratePpm ∨ x.ratePpm < -20000) → ∃ t, exec .tdmRateFault s = .next t
            ∧ t.str.tdm.w.st = 0 ∧ t.announced 0x8006 (le 1 2 ++ le 3 0 ++ leI 4 x.ratePpm))
          ∧ (-20000 ≤ x.ratePpm → x.ratePpm ≤ 20000 → exec .tdmRateFault s = .next s)))

/-! ### Energy and leak correlation -/

/-- R25, R28, R323, R325 to R327: a closed window delivers its record with its end and content; a pulse falls at its time and its low time
begins, after which a pending pulse rises; work whose order is outstanding four catches on is left undone, counted, and marks its circuit or
path; work that is not late is not touched. -/
def Obligations.EnergyEvents : Prop :=
  ∀ (c : Fin 28) (s : State),
    let x := s.circuit c
    let others (t : State) : Prop := ∀ j, j ≠ c.val → t.circuit j = s.circuit j
    (∀ t0 b rest, x.closed = (t0, b) :: rest → s.dlv.queue.length < 1048576 → s.links.endpoint = none →
      ∃ t, exec (.energyWindowRecord c) s = .next t ∧ t = { s with str := t.str, dlv := t.dlv } ∧ others t
        ∧ t.circuit c = { x with closed := rest } ∧ t.dlv.nextSeq = s.dlv.nextSeq + 1
        ∧ ∃ r, t.dlv.queue = s.dlv.queue ++ [r] ∧ r.bytes.take 12 = le 4 s.dlv.nextSeq.toNat ++ le 8 t0 ∧ r.bytes.drop 20 = b)
    ∧ (∀ t0, x.highTill = some t0 → ∃ t, exec (.pulseEnd c) s = .next t ∧ others t
        ∧ t.circuit c = { x with highTill := none, lowTill := some (t0 + s.pulseLen) } ∧ cirGpio s.cfg.active c ∉ t.pins.pulses
        ∧ (s.clk.stopped = false → t0 ≤ t.dtime))
    ∧ (∀ t0, x.lowTill = some t0 → x.highTill = none →
      (x.pending = 0 → ∃ t, exec (.pulseLowEnd c) s = .next t ∧ others t ∧ t.circuit c = { x with lowTill := none } ∧ t.pins = s.pins)
      ∧ (x.pending ≠ 0 → s.pulseBlocked c = false → cirPulseEn s.cfg.active c = true →
        ∃ t, exec (.pulseLowEnd c) s = .next t ∧ others t ∧ cirGpio s.cfg.active c ∈ t.pins.pulses
          ∧ t.circuit c = { x with lowTill := none, pending := x.pending - 1, pulses := x.pulses + 1, highTill := some (t.dtime + s.pulseLen) }))
    ∧ (∀ d rest, x.due = d :: rest → d.plan.en = true → d.plan.cir = true → d.skip = false →
      (d.stroke + 4 ≤ s.stroke → s.orderedUpTo c d.stroke = true →
        ∃ t, exec (.workSkipped false c) s = .next t ∧ t.cnt.workSkipped = s.cnt.workSkipped + 1 ∧ others t
          ∧ t.orderedUpTo c d.stroke = false ∧ t.cfg = s.cfg ∧ t.mem = s.mem ∧ t.dlv = s.dlv
          ∧ (rest = [] → t.circuit c = ((s.setCircuit c { x with due := [] }).energyStroke c { d with skip := true }).circuit c))
      ∧ (s.stroke < d.stroke + 4 ∨ s.orderedUpTo c d.stroke = false → exec (.workSkipped false c) s = .next s))
    ∧ (c = 0 →
      (s.pathLate 28 = true → ∃ t, exec (.workSkipped true c) s = .next t ∧ t.cnt.workSkipped = s.cnt.workSkipped + 1
        ∧ t.orderedUpTo 28 (s.stroke - 4) = false ∧ t.bc = { s.bc with vhf := { s.bc.vhf with gap := true }, audio := t.bc.audio }
        ∧ (audioSource s.cfg.active ≠ 1 → t.bc.audio = s.bc.audio))
      ∧ (s.pathLate 28 = false → exec (.workSkipped true c) s = .next s))
    ∧ (c = 1 → s.pathLate 29 = true → ∃ t, exec (.workSkipped true c) s = .next t ∧ t.cnt.workSkipped = s.cnt.workSkipped + 1
        ∧ t.orderedUpTo 29 (s.stroke - 4) = false ∧ t.bc = { s.bc with lfmf := { s.bc.lfmf with gap := true }, audio := t.bc.audio })

/-- R27, R36, R65, R329 to R333, R394, R404, R421: a leak run that is due takes the enabled pairs and sets the next; a finished capture ends
its part, and both wait while class 7 is shed, a capture from its next step on (log 160); a finished pair delivers its record, with status
PEAK, NO_PEAK or INSUFFICIENT, and the next pair is captured; an internal operation that makes no step for 30 s ends with a flag fall. -/
def Obligations.LeakCorrelation : Prop :=
  ∀ s : State,
    let l := s.str.leak
    (∀ t0, l.nextAt = some t0 →
      (l.run = none → leakPairsOn s.cfg.active ≠ [] → ∃ t, exec .leakRunStart s = .next t
        ∧ t = { s with dtime := t.dtime, str := { s.str with leak := t.str.leak } } ∧ t.str.leak.run = some (leakPairsOn s.cfg.active)
        ∧ t.str.leak.runs = l.runs + 1 ∧ t.str.leak.nextAt = some (t0 + s.leakPeriod) ∧ t.str.leak.done = 0 ∧ t.str.leak.captured = false)
      ∧ (l.run ≠ none → ∃ t, exec .leakRunStart s = .next t ∧ t.str.leak = { l with nextAt := some (t0 + s.leakPeriod) }))
    ∧ (∀ p rest, l.run = some (p :: rest) → l.captured = false →
      (l.waits = false →
        ∃ t, exec .leakCaptureDone s = .next t ∧ t.str.leak.captured = true ∧ t.str.leak.endAt = t.dtime ∧ t.str.leak.run = l.run
          ∧ t.str.leak.done = l.done + (s.leakAcq - s.capturedSecs) ∧ t.dlv = s.dlv ∧ t.mem = s.mem)
      ∧ (l.paused = true → l.capStrokes % 4000 = 0 → exec .leakCaptureDone s = .next s))
    ∧ (∀ (p : Nat) (rest : List Nat), l.run = some (p :: rest) → l.captured = true →
      (l.paused = true → exec .leakPairDone s = .next s)
      ∧ (l.paused = false → s.dlv.queue.length < 1048576 → s.links.endpoint = none →
        let segs := segments (s.leakN p)
        let good := s.goodSegments p
        let found := s.correlate good
        let status := if 2 * good.length < segs ∨ l.broken = true then 2 else if s.leakThr ≤ found.peak then 0 else 1
        ∃ t, exec .leakPairDone s = .next t ∧ t.str.leak.run = (if rest = [] then none else some rest)
          ∧ t.str.leak.captured = false ∧ t.str.leak.done = l.done + (segs - l.segs) ∧ t.dlv.nextSeq = s.dlv.nextSeq + 1
          ∧ ∃ r, t.dlv.queue = s.dlv.queue ++ [r] ∧ fieldAt 4 8 r.bytes = l.endAt % 2 ^ 64 ∧ fieldAt 20 1 r.bytes = p % 256
              ∧ fieldAt 23 1 r.bytes = status ∧ fieldAt 24 4 r.bytes = good.length % 2 ^ 32
              ∧ fieldAt 28 4 r.bytes = (segs - good.length) % 2 ^ 32))
    ∧ (∀ pairs, l.run = some pairs → s.links.events.length < 256 →
      ∃ t, exec (.internalOpFlagFall 3) s = .next t ∧ t.str.leak.run = none ∧ t.announced 0x800A (le 1 7 ++ le 3 0 ++ le 4 3)
        ∧ (s.clk.stopped = false → l.stepAt + 1152000000 ≤ t.dtime))
    ∧ (s.trim.survey = some 0 → s.links.events.length < 256 → ∃ t, exec (.internalOpFlagFall 2) s = .next t ∧ t.trim.survey = none
        ∧ t.announced 0x800A (le 1 7 ++ le 3 0 ++ le 4 2))
    ∧ (s.mem.sweep.isSome = true → s.links.events.length < 256 → ∃ t, exec (.internalOpFlagFall 1) s = .next t ∧ t.mem.sweep = none
        ∧ t.mem.cells = s.mem.cells ∧ t.announced 0x800A (le 1 7 ++ le 3 0 ++ le 4 1))

/-! ### Trim and rigging -/

/-- R412, R413, R416, R417: TRIM_RUN puts its items behind the automatic ones that it does not name and starts the first that can run, BUSY
while one is outstanding, and answers with the failed count. An item that passes has its values applied at the next catch; one that fails
keeps the old ones, but for a tuner item, and raises EV_TRIM_FAIL; a pause of 10 s ends an item early without it. -/
def Obligations.TrimItems : Prop :=
  ∀ (h : Hdr) (e : TagEntry) (s : State),
    let r := s.trim
    (s.takes h 0x0080 = true → h.len = 4 → ∀ scope mask : U8, mask.toNat < 32 → scope.toNat ≤ 2 →
      let items := trimScope scope.toNat mask.toNat
      (r.run.isSome = true → exec (.trimRun h scope mask 0) s = s.turnedAway h 0x0080 .busy [])
      ∧ (r.run = none → r.now.isSome = true →
        ∃ t, exec (.trimRun h scope mask 0) s = .next t ∧ t.queuedFor s h 0x0080 true items.length
          ∧ t = { s with links := t.links, trim := { r with run := some (h.tag, 0)
                                                            queue := (r.queue.filter fun q => !items.contains q.1) ++ items.map fun c => (c, true) } })
      ∧ (∀ first rest, r.run = none → r.now = none → r.queue = [] → items = first :: rest → s.trimCan first = true →
          first / 256 ≠ 4 → first / 256 ≠ 5 →
        ∃ t, exec (.trimRun h scope mask 0) s = .next t ∧ t.queuedFor s h 0x0080 true items.length ∧ t.cfg = s.cfg ∧ t.mem = s.mem
          ∧ t.trim.now = some { code := first, started := s.dtime, paused := none, ofRun := true, steps := s.dtime } ∧ t.trim.queue = rest.map fun c => (c, true)))
    ∧ (∀ bad, r.run = some (e.tag, bad) → r.queue.any (·.2) = false → r.now.any (·.ofRun) = false → s.outstanding e.tag = some e →
      s.reachable e.src = true →
      ∃ t, exec .trimRunDone s = .next t ∧ t = { s with links := t.links, trim := { r with run := none } } ∧ t.outstanding e.tag = none
        ∧ ∃ m ∈ t.links.waiting, m.tag = e.tag ∧ m.status = 0 ∧ m.payload = le 4 bad)
    ∧ (∀ (n : TrimNow) (value : Int) (drive : Bool) (codes : List Int), r.now = some n → r.queue = [] → n.ofRun = false →
      let v := trimValue n.code value codes
      let set := trimCodes n.code codes
      (n.paused = none →
        (s.trimPlausible n.code value drive codes = true →
          ∃ t, exec (.trimItemEnd value drive codes) s = .next t ∧ t.trim.now = none ∧ t.trim.apply = r.apply ++ [(n.code, set)]
          ∧ t.trim.values = r.values ∧ findT t.trim.passed n.code = some (s.dtime, r.dieTemp) ∧ findT t.trim.last n.code = some v
          ∧ t.links = s.links ∧ t.dir = s.dir ∧ t.cfg = s.cfg ∧ t.mem = s.mem
          ∧ (∀ x, n.code / 256 = 4 → codes.getLast? = some x → (t.chain (2 * (n.code % 256))).rl = satTo 300 x.toNat))
        ∧ (s.trimPlausible n.code value drive codes = false → s.links.events.length < 255 →
          ∃ t, exec (.trimItemEnd value drive codes) s = .next t ∧ t.trim.now = none
          ∧ t.trim.apply = r.apply ++ [(n.code, if n.code / 256 = 4 then set else [])] ∧ t.trim.values = r.values
          ∧ t.trim.passed = r.passed ∧ t.trim.last = r.last ∧ t.trim.ledger.trimFails = r.ledger.trimFails + 1
          ∧ t.announced 0x8003 (le 2 n.code ++ le 2 0 ++ leI 4 v)))
      ∧ (∀ t0, n.paused = some t0 → exec (.trimItemEnd value drive codes) s = .next s
        ∧ (s.links.events.length < 256 → ∃ t, exec .trimPauseFlagFall s = .next t ∧ t.trim.now = none ∧ t.trim.apply = r.apply
          ∧ t.trim.values = r.values ∧ t.announced 0x800A (le 1 7 ++ le 3 0 ++ le 4 n.code)
          ∧ (s.clk.stopped = false → t0 + 384000000 ≤ t.dtime))))

/-- R420, R423, R424, R429: RIGGING_REPORT answers with the ledger or starts a survey, BUSY during one; the daily survey starts in ROW or
PADDLE; a survey's end records the ledger with its floor and counts it. -/
def Obligations.RiggingSurveys : Prop :=
  ∀ (h : Hdr) (s : State),
    let r := s.trim
    let l := r.ledger
    (s.takes h 0x0081 = true → h.len = 1 →
      (l.ring.length = 12 → l.pa.length = 2 → l.rl.length = 2 → l.vco.length = 6 →
        ∃ t, ∃ p, exec (.riggingReportRead h 0) s = .next t ∧ t = { s with links := t.links } ∧ t.answered s h 0x0081 .ok p ∧ p.length = 256
          ∧ fieldAt 0 8 p = l.lastSurvey % 2 ^ 64 ∧ fieldAt 8 4 p = l.surveys.toNat ∧ fieldAt 16 2 p = l.vfloor % 65536
          ∧ fieldAt 124 2 p = l.interval % 65536 ∧ fieldAt 136 4 p = l.trimFails.toNat ∧ fieldAt 148 2 p = l.lifeUsed % 65536
          ∧ p.drop 152 = List.replicate 104 0)
      ∧ (r.survey.isSome = true → exec (.riggingReportSurvey h 1) s = s.turnedAway h 0x0081 .busy [])
      ∧ (r.survey = none → ∃ t, exec (.riggingReportSurvey h 1) s = .next t
          ∧ t = { s with links := t.links, trim := { r with survey := some h.tag, surveyDone := 0, surveyAt := s.dtime } }
          ∧ t.queuedFor s h 0x0081 true 5)
      ∧ (∀ k : U8, 2 ≤ k.toNat → exec (.riggingReportRead h k) s = s.turnedAway h 0x0081 .range []))
    ∧ (r.survey = none → (s.pwr.st = .row ∨ s.pwr.st = .paddle) →
      ∃ t, exec .riggingSurveyStart s = .next t
        ∧ t = { s with dtime := t.dtime, trim := { r with survey := some 0, surveyDone := 0, surveyAt := t.dtime, dailyAt := t.dtime } }
        ∧ (s.clk.stopped = false → s.rigDue ≤ t.dtime))
    ∧ (s.pwr.st ≠ .row → s.pwr.st ≠ .paddle → exec .riggingSurveyStart s = .next s)
    ∧ (∀ (ring headroom : List Int) (base mv : Nat) (tag : U16), r.survey = some tag →
      let vbase := if r.firstSurvey = true then base else max l.vbase base
      ∃ t, exec (.riggingSurveyEnd ring base headroom mv) s = .next t ∧ t.trim.survey = none ∧ t.trim.ledger.surveys = l.surveys + 1
        ∧ t.trim.ledger.lastSurvey = s.dtime ∧ t.trim.ledger.vbase = vbase ∧ t.trim.ledger.vcore = mv
        ∧ t.trim.ledger.vfloor = max 650 (5 * ((vbase + s.cfgNat 11 7 1 + 4) / 5))
        ∧ t.trim.replan = some (s.cfgBit 11 10 7) ∧ (t.trim.ledger.interval = l.interval ∨ t.trim.ledger.interval = max 6 (l.interval / 2) ∨ t.trim.ledger.interval = min 168 (l.interval * 2))
        ∧ (r.anyFail = true → t.trim.ledger.interval = max 6 (l.interval / 2))
        ∧ (t.boot.ledger0.map (·.2) = some t.trim.ledger ∨ t.boot.ledger1.map (·.2) = some t.trim.ledger)
        ∧ t.cfg = s.cfg ∧ t.mem = s.mem
        ∧ ∀ e, tag = e.tag → tag ≠ 0 → s.outstanding e.tag = some e → s.reachable e.src = true →
            t.outstanding e.tag = none ∧ ∃ m ∈ t.links.waiting, m.tag = e.tag ∧ m.status = 0)

/-! ### Power -/

/-- R33, R35, R396, R431, R434 to R440, R445: POWER_POLICY replaces policy and limit, LOCKED for a hold that a cap forbids; WAKE_AT keeps up
to 16 wakes; a wake source that its pin's filter passes stops an entry or rouses a deeper state, and one shorter does nothing; an entry done stands in its state with READY and memories as it sets them; the
return brings ROW, every memory and READY back. -/
def Obligations.PowerStates : Prop :=
  ∀ (h : Hdr) (s : State),
    let w := s.pwr
    let only (t : State) : Prop := t = { s with dtime := t.dtime, pwr := t.pwr }
    let deep := w.entering.isSome = true ∨ 2 ≤ w.st.code
    let roused (t : State) (host : Bool) : Prop := only t ∧ t.pwr.entering = none ∧ t.pwr.waking = true ∧ t.pwr.wakeHost = (w.wakeHost || host)
    (s.takes h 0x0090 = true → h.len = 2 → ∀ p d : U8,
      (2 < p.toNat ∨ 4 < d.toNat ∨ (p = 2 ∧ 2 < d.toNat) → exec (.powerPolicy h p d) s = s.turnedAway h 0x0090 .range [])
      ∧ (p = 2 → d.toNat ≤ 2 → s.unitCap < d.toNat → exec (.powerPolicy h p d) s = s.turnedAway h 0x0090 .locked [])
      ∧ (p.toNat ≤ 2 → d.toNat ≤ 4 → (p = 2 → d.toNat ≤ 2 ∧ d.toNat ≤ s.unitCap) →
        ∃ t, exec (.powerPolicy h p d) s = .next t ∧ t.pwr.policy = p.toNat ∧ t.pwr.deepest = d.toNat ∧ t.pwr.change = none
          ∧ (∃ m ∈ t.links.waiting, m.tag = h.tag ∧ m.status = 0 ∧ m.payload = le 1 w.st.code)
          ∧ (w.policy ≠ 1 → p ≠ 1 → t = { s with links := t.links, pwr := t.pwr } ∧ t.answered s h 0x0090 .ok (le 1 w.st.code))))
    ∧ (s.takes h 0x0091 = true → h.len = 12 → ∀ (at_ : U64) (cookie : U32),
      let pending := w.wakes.filter fun x => decide (s.dtime < x.2)
      let others := pending.filter fun x => x.1 != cookie
      (16 ≤ pending.length → (∀ x ∈ w.wakes, x.1 ≠ cookie) → exec (.wakeAt h at_ cookie) s = s.turnedAway h 0x0091 .range [])
      ∧ (pending.length < 16 ∨ (∃ x ∈ w.wakes, x.1 = cookie) →
        (at_.toNat < s.dtime → ∃ t, exec (.wakeAt h at_ cookie) s = .next t ∧ t.answered s h 0x0091 .late []
          ∧ t = { s with links := t.links, pwr := { w with wakes := others } })
        ∧ (s.dtime ≤ at_.toNat → ∃ t, exec (.wakeAt h at_ cookie) s = .next t ∧ t.answered s h 0x0091 .ok []
          ∧ t = { s with links := t.links, pwr := { w with wakes := others ++ [(cookie, at_.toNat)] } })))
    ∧ (∀ ns : Nat, ns < 10 → exec (.spiCsFall ns) s = .next s)
    ∧ (deep → (∀ ns : Nat, 10 ≤ ns → ∃ t, exec (.spiCsFall ns) s = .next t ∧ roused t true)
      ∧ (∀ t0, w.timer = some t0 → ∃ t, exec .wakeTimer s = .next t ∧ roused t false ∧ t.pwr.timer = none ∧ (s.clk.stopped = false → t0 ≤ t.dtime))
      ∧ (∀ (pin : Fin 16) (held : Nat), s.pins.gpioFilter.getD pin.val 384 ≤ held →
          pin ≠ 0 → bitOf (s.cfgNat 9 12 2) pin.val = true → ∃ t, exec (.gpioWake pin held) s = .next t ∧ roused t false))
    ∧ (∀ (pin : Fin 16) (held : Nat), bitOf (s.cfgNat 9 12 2) pin.val = false ∨ held < s.pins.gpioFilter.getD pin.val 384 ∨ ¬ deep →
        exec (.gpioWake pin held) s = .next s)
    ∧ (¬ deep → ∀ ns : Nat, exec (.spiCsFall ns) s = .next s)
    ∧ (s.cfgNat 9 10 1 ≠ 0xFF → ∀ held : Nat,
      (held < s.pins.gpioFilter.getD (s.cfgNat 9 10 1) 384 → ∀ b, exec (.mainsGpioEdge b held) s = .next s)
      ∧ (s.pins.gpioFilter.getD (s.cfgNat 9 10 1) 384 ≤ held →
        (w.mainsLow = false → ∃ t, exec (.mainsGpioEdge false held) s = .next t ∧ only t ∧ t.pwr.mainsLow = true
          ∧ t.pwr.saved = some (w.policy, w.deepest) ∧ t.pwr.change = some (1, s.cfgNat 9 3 1) ∧ (deep → t.pwr.waking = true))
        ∧ (w.mainsLow = true → ∃ t, exec (.mainsGpioEdge true held) s = .next t ∧ only t ∧ t.pwr.mainsLow = false ∧ t.pwr.change = w.saved)))
    ∧ (s.cfgNat 9 10 1 = 0xFF → ∀ b held, exec (.mainsGpioEdge b held) s = .next s)
    ∧ (∀ (p : PowerSt) (edges at_ : Nat), w.entering = some p →
      ∃ t, exec (.powerStateEntryDone edges at_) s = .next t ∧ t.pwr.st = p ∧ t.pwr.entering = none ∧ t.cfg = s.cfg
        ∧ t.links.tags = s.links.tags ∧ t.links.waiting = s.links.waiting ∧ t.mem.refresh = true ∧ (s.clk.stopped = false → at_ ≤ t.dtime)
        ∧ (p = .easy → t.dir.keys = [] ∧ ∀ n : Fin 384, (t.inst n).power = if easyOn n = true then (s.inst n).power else 1)
        ∧ (p = .feather ∨ p = .ashore → t.dir.keys = [] ∧ (∀ n : Fin 384, (t.inst n).power = 0)
            ∧ (∀ (a : Nat) (n : Fin 384), s.place a = .inst n.val → (s.inst n).power ≠ 0 → readCell (fun _ => 0) t.mem.cells a = 0)
            ∧ ∀ i, i < 5 → t.chainIs i .sleep = true ∨ t.chainIs i .fault = true)
        ∧ (p = .ashore → t.clk.stopped = true ∧ t.clk.ashore.dtimeEntry = t.dtime ∧ t.clk.ashore.aonEntry = t.clk.aon.toNat
            ∧ t.boot.sramCopy = some s.sramCells))
    ∧ (w.waking = true → s.clk.stopped = false →
      ∃ t, exec .wakeExitDone s = .next t ∧ (t.pwr.st = .row ∨ t.pwr.st = .paddle) ∧ t.pwr.waking = false
        ∧ (t.pwr.entering = none → t.links.ready = true) ∧ (∀ n : Fin 384, (t.inst n).power = 2) ∧ t.cfg = s.cfg
        ∧ (w.st = .feather ∨ w.st = .ashore → t.synIs 0 .locked = true ∧ t.synIs 1 .locked = true ∧ t.synIs 2 .locked = true
            ∧ t.mem.refresh = false))

/-- R441, R443, R446, R447: vigil sends a pair to RECEIVE for its listen interval or a scan and ends it when the last interval does; a change
of VDD_CORE is complete within 15 mV of its target, repeated once, then held with a flag fall. -/
def Obligations.VigilAndVoltage : Prop :=
  ∀ s : State,
    let w := s.pwr
    let on := w.policy = 1 ∧ (w.st = .row ∨ w.st = .paddle) ∧ w.entering = none
    let moved (t : State) : Prop := t.cfg = s.cfg ∧ t.mem.cells = s.mem.cells ∧ t.dir = s.dir
    (on → ∀ l : Bool,
      (∀ t0, s.listenStart (b2n l) = some t0 → ∃ t, exec (.vigilListenStart l) s = .next t ∧ moved t
        ∧ t.pwr = (if l = true then { w with listenL := true } else { w with listenH := true })
        ∧ (s.clk.stopped = false → t0 - s.chainLead (b2n l) ≤ t.dtime))
      ∧ (s.listenStart (b2n l) = none → exec (.vigilListenStart l) s = .next s)
      ∧ ((if l = true then w.listenL else w.listenH) = true → ∃ t, exec (.vigilListenEnd l) s = .next t ∧ moved t
        ∧ (if l = true then t.pwr.listenL else t.pwr.listenH) = false
        ∧ (s.clk.stopped = false → ∀ e ∈ s.vigilEntries (b2n l), s.listenFrom e ≤ s.dtime → s.dtime < listenTo e → listenTo e ≤ t.dtime)))
    ∧ (on → s.cfgNat 9 16 2 ≠ 0 → ∃ t, exec .vigilScan s = .next t ∧ moved t ∧ t.pwr.listenH = true ∧ t.pwr.listenL = true
        ∧ t.pwr.scanAt = t.dtime
        ∧ t.pwr.scanTill = some (t.dtime + (if s.cfgNat 9 18 2 = 0 then 60 else s.cfgNat 9 18 2) * 38400000)
        ∧ (s.clk.stopped = false → w.scanAt + s.cfgNat 9 16 2 * 60 * 38400000 ≤ t.dtime))
    ∧ (¬ on → exec .vigilScan s = .next s ∧ ∀ l, exec (.vigilListenStart l) s = .next s ∧ exec (.vigilListenEnd l) s = .next s)
    ∧ (∀ target tries (read : Nat) (status : U8), w.vChange = some (target, tries) →
      (status = 0 → read ≤ target + 15 → target ≤ read + 15 → ∃ t, exec (.vddSettleExpiry read status) s = .next t
        ∧ t = { s with pwr := { w with vChange := none, coreMv := target } })
      ∧ (status ≠ 0 ∨ target + 15 < read ∨ read + 15 < target →
        (tries = 0 → ∃ t, exec (.vddSettleExpiry read status) s = .next t ∧ t = { s with pwr := t.pwr } ∧ t.pwr.vChange = some (target, 1)
          ∧ t.pwr.coreMv = w.coreMv ∧ ∃ sent, t.pwr.pmbus = sent ++ w.pmbus ∧ (0x03, 0) ∈ sent ∧ (0x21, voutWord w.voutExp target) ∈ sent)
        ∧ (tries ≠ 0 → s.links.events.length < 256 → ∃ t, exec (.vddSettleExpiry read status) s = .next t ∧ t.pwr.vChange = none
          ∧ t.pwr.i2cFail = true ∧ t.pwr.coreMv = w.coreMv ∧ t.announced 0x800A (le 1 2 ++ le 3 0 ++ le 4 s.pmicAddr))))
    ∧ (∀ a : BitVec 7, s.links.events.length < 256 → ∃ t, exec (.i2cFlagFall a) s = .next t ∧ t.pwr = { w with vChange := none, i2cFail := true }
        ∧ t.announced 0x800A (le 1 2 ++ le 3 0 ++ le 4 a.toNat))

/-! ### Customer crews -/

/-- R26, R36, R41, R360, R460, R464, R466, R467: the chunks of a CREW_LOAD are staged and a commit makes the verified package current;
CREW_START clears and loads the crew of a held package and waits for the catch, CREW_STOP waits for it, each behind the commands on
the crew that came before; a crew without an accepted STK_DONE for 4,000 strokes is FAULTED; a stroke owed four strokes back is withdrawn and counted. -/
def Obligations.CustomerCrews : Prop :=
  ∀ (h : Hdr) (e : TagEntry) (c : Fin 8) (s : State),
    let x := s.crew c
    let b8 := BitVec.ofNat 8 c.val
    let free := x.starting = none ∧ x.stopping = none ∧ x.waits = []
    let idle := findT s.boot.crewCommit c.val = none
    let load := findT s.boot.crewLoad c.val
    let waits (t : State) (op : Nat) (j : CrewJob) : Prop := t.holds s h op ∧ t.crew c = { x with waits := x.waits ++ [(h.tag, j)] }
    let mine (t : State) : Prop := t.cfg = s.cfg ∧ t.dir = s.dir ∧ t.boot = s.boot ∧ ∀ j, j ≠ c.val → t.crew j = s.crew j
    (6 ≤ c.val → s.crewBusy c = true →
      (s.takes h 0x00A1 = true → h.len = 4 → ∃ t, exec (.crewStart h b8 0) s = .next t ∧ mine t ∧ waits t 0x00A1 .start)
      ∧ (s.takes h 0x00A2 = true → h.len = 4 → ∃ t, exec (.crewStop h b8 0) s = .next t ∧ mine t ∧ waits t 0x00A2 .stop))
    ∧ (6 ≤ c.val → free →
      (s.takes h 0x00A1 = true → h.len = 4 → idle →
        ((s.crewMine c = false ∨ (s.crewIs c .customerLoaded = false ∧ s.crewIs c .faulted = false) ∨ s.package c = none) →
          ∃ t, exec (.crewStart h b8 0) s = .next t ∧ mine t ∧ t.answered s h 0x00A1 .locked [] ∧ t.crew c = x ∧ t.mem = s.mem)
        ∧ (∀ p, s.crewMine c = true → (s.crewIs c .customerLoaded = true ∨ s.crewIs c .faulted = true) → s.package c = some p →
          (pkgHash p = false → ∃ t, exec (.crewStart h b8 0) s = .next t ∧ mine t ∧ t.answered s h 0x00A1 .authFail [] ∧ t.crew c = x
            ∧ t.mem = s.mem)
          ∧ (pkgHash p = true → ∃ t, exec (.crewStart h b8 0) s = .next t ∧ mine t ∧ t.holds s h 0x00A1
            ∧ t.crew c = { x with starting := some h.tag } ∧ (∀ i, i < 8 → t.scull (8 * c.val + i) = {})
            ∧ ∀ n ∈ crewInsts c, (t.inst n).power = 2)))
      ∧ (s.takes h 0x00A2 = true → h.len = 4 → idle →
        (s.crewIs c .customerRunning = false → ∃ t, exec (.crewStop h b8 0) s = .next t ∧ mine t ∧ t.answered s h 0x00A2 .locked [] ∧ t.crew c = x)
        ∧ (s.crewIs c .customerRunning = true → ∃ t, exec (.crewStop h b8 0) s = .next t ∧ mine t ∧ t.holds s h 0x00A2
          ∧ t.crew c = { x with stopping := some h.tag })))
    ∧ (c.val < 6 → s.takes h 0x00A2 = true → h.len = 4 → exec (.crewStop h b8 0) s = s.turnedAway h 0x00A2 .range [])
    ∧ (6 ≤ c.val → s.takes h 0x00A0 = true → free → idle → ∀ (chunk : U16) (len : U32) (data : Bytes),
      (h.len = 8 + data.length → len.toNat ≤ 524288 → data.length ≤ len.toNat →
        (∀ st, s.crewRefuse c = some st → exec (.crewLoadChunk h b8 0 0 len data) s = s.turnedAway h 0x00A0 st [])
        ∧ (∀ step : U8, 1 < step.toNat → exec (.crewLoadChunk h b8 step chunk len data) s = s.turnedAway h 0x00A0 .range [])
        ∧ (s.crewRefuse c = none → ∃ t, exec (.crewLoadChunk h b8 0 0 len data) s = .next t ∧ t.answered s h 0x00A0 .ok [] ∧ t.arr = s.arr
          ∧ findT t.boot.crewLoad c.val = some { pkgLen := len.toNat, chunkLen := data.length, next := 1, got := data.length }
          ∧ ∀ i, i < data.length → t.memByte (crewWindow c + i) = data.getD i 0)
        ∧ (∀ l, s.crewRefuse c = none → load = some l → l.next = chunk.toNat → l.pkgLen = len.toNat → data.length ≤ l.chunkLen →
            l.got = l.next * l.chunkLen → l.got + data.length ≤ l.pkgLen → chunk ≠ 0 →
          ∃ t, exec (.crewLoadChunk h b8 0 chunk len data) s = .next t ∧ t.answered s h 0x00A0 .ok [] ∧ t.arr = s.arr
            ∧ findT t.boot.crewLoad c.val = some { l with next := l.next + 1, got := l.got + data.length }
            ∧ ∀ i, i < data.length → t.memByte (crewWindow c + l.got + i) = data.getD i 0))
      ∧ (∀ l, h.len = 8 → load = some l → l.pkgLen = len.toNat → l.got = len.toNat → s.crewRefuse c = none →
        ∃ t, exec (.crewLoadCommit h b8 chunk len) s = .next t ∧ t.queuedFor s h 0x00A0 true (2 * ((len.toNat + 65535) / 65536))
          ∧ findT t.boot.crewCommit c.val = some (h.tag, len.toNat) ∧ findT t.boot.crewLoad c.val = none ∧ t.mem = s.mem ∧ t.arr = s.arr))
    ∧ (∀ n, 6 ≤ c.val → findT s.boot.crewCommit c.val = some (e.tag, n) → free → s.outstanding e.tag = some e → s.reachable e.src = true →
        s.boot.pkg6.length = 2 → s.boot.pkg7.length = 2 →
      let p := s.memRead (crewWindow c) n
      let st := s.pkgCheck c p
      ∃ t, exec (.crewCommitDone c) s = .next t ∧ t.outstanding e.tag = none ∧ findT t.boot.crewCommit c.val = none ∧ t.mem = s.mem
        ∧ (∃ m ∈ t.links.waiting, m.tag = e.tag ∧ m.status = st.code ∧ m.payload = if st = .ok then le 4 (fieldAt 8 4 p) else [])
        ∧ t.package c = (if st = .ok then some p else s.package c)
        ∧ (st = .ok → s.crewIs c .off = true ∨ s.crewIs c .faulted = true → t.crewIs c .customerLoaded = true))
    ∧ (s.crewIs c .customerRunning = true → x.doneAt + 4000 ≤ s.stroke → free → s.links.events.length < 255 →
      ∃ t, exec (.crewFlagFall c) s = .next t ∧ t.crewIs c .faulted = true ∧ t.announced 0x800A (le 1 6 ++ le 3 0 ++ le 4 c.val)
        ∧ ∀ i, i < 8 → (t.scull (8 * c.val + i)).run = false ∧ (t.scull (8 * c.val + i)).halted = true)
    ∧ (s.crewIs c .customerRunning = false ∨ s.stroke < x.doneAt + 4000 → exec (.crewFlagFall c) s = .next s)
    ∧ (s.crewIs c .customerRunning = true → x.owes + 4 ≤ s.stroke → s.declared c x.owes = false → s.cnt.crewMissed.length = 8 →
      ∃ t, exec (.crewMissedStroke c) s = .next t ∧ t.crew c = { x with owes := x.owes + 1 }
        ∧ t.cnt.crewMissed.getD c.val 0 = s.cnt.crewMissed.getD c.val 0 + 1
        ∧ ∀ i, i < 8 → let y := s.scull (8 * c.val + i)
            t.scull (8 * c.val + i) = { y with missed := true, ipr := y.ipr ||| 4#8, missedCnt := if y.missedCnt = 65535 then 65535 else y.missedCnt + 1 })

/-! ### Firmware update and field access -/

/-- R46, R455, R460 to R462, R471, R472: FW_UPDATE writes the slot that did not boot, RANGE for a step beyond 1, and commits it pending with
three trials; the reset follows its
reply by a second, and 60 s after READY a trial is confirmed. A field challenge carries a nonce and the serial number and is BUSY
while one is open; a response consumes it and opens its scope for the signed time; challenge and scope close at their time. -/
def Obligations.FirmwareAndFieldAccess : Prop :=
  ∀ (h : Hdr) (e : TagEntry) (s : State),
    let x := s.fwTarget
    let b := s.boot
    (s.takes h 0x00D0 = true →
      (∀ (len : U32) (data : Bytes), h.len = 8 + data.length → len.toNat ≤ 6291456 → data.length ≤ len.toNat →
        (∀ st, s.fwRefuse = some st → exec (.fwUpdateChunk h 0 0 0 len data) s = s.turnedAway h 0x00D0 st [])
        ∧ (∀ (step : U8) (chunk : U16), 1 < step.toNat → exec (.fwUpdateChunk h 0 step chunk len data) s = s.turnedAway h 0x00D0 .range [])
        ∧ (s.fwRefuse = none → ∃ t, exec (.fwUpdateChunk h 0 0 0 len data) s = .next t ∧ t = { s with links := t.links, boot := t.boot }
          ∧ t.answered s h 0x00D0 .ok [] ∧ t.boot.fwLoad = some { pkgLen := len.toNat, chunkLen := data.length, next := 1, got := data.length }
          ∧ (t.boot.slot x).bytes.take data.length = data ∧ t.boot.slot (!x) = b.slot (!x)))
      ∧ (∀ (len : U32) (chunk : U16) (l : Load), h.len = 8 → b.fwLoad = some l → l.pkgLen = len.toNat → l.got = len.toNat → s.fwRefuse = none →
        ∃ t, exec (.fwUpdateCommit h 0 chunk len) s = .next t ∧ t = { s with links := t.links, boot := { b with fwCommit := some (h.tag, len.toNat), fwLoad := none } }
          ∧ t.queuedFor s h 0x00D0 true ((fieldAt 4 4 (b.slot x).bytes + 65535) / 65536 + 1)))
    ∧ (∀ n, b.fwCommit = some (e.tag, n) → s.outstanding e.tag = some e → s.reachable e.src = true →
      let img := slice 0 n (b.slot x).bytes
      let st := s.fwCheck img
      ∃ t, exec .fwCommitDone s = .next t ∧ t = { s with links := t.links, boot := t.boot } ∧ t.outstanding e.tag = none
        ∧ t.boot.fwCommit = none ∧ t.boot.fwLoad = b.fwLoad
        ∧ (∃ m ∈ t.links.waiting, m.tag = e.tag ∧ m.status = st.code ∧ m.payload = if st = .ok then le 4 (fieldAt 8 4 img) else [])
        ∧ (st = .ok → t.boot.pendingS = some x ∧ t.boot.trials = 3 ∧ t.boot.resetDue = some s.dtime ∧ (t.boot.slot x).failed = false)
        ∧ (st ≠ .ok → t.boot.pendingS = b.pendingS ∧ t.boot.trials = b.trials ∧ t.boot.resetDue = b.resetDue))
    ∧ (∀ t0, b.resetDue = some t0 → ∃ t, exec .fwUpdateReset s = .next t ∧ t.boot.cause = .fwUpdate ∧ t.links.ready = false ∧ t.boot.slotA = b.slotA
        ∧ t.boot.slotB = b.slotB ∧ t.boot.rollback = b.rollback)
    ∧ (b.trial = true → s.links.ready = true → ∃ t, exec .fwTrialConfirm s = .next t ∧ t = { s with dtime := t.dtime, boot := t.boot }
        ∧ t.boot = { b with trial := false, confirmed := b.booted, pendingS := none, trials := 0, rollback := max b.rollback b.secVersion.toNat }
        ∧ (s.clk.stopped = false → b.readyAt + 2304000000 ≤ t.dtime))
    ∧ (s.takes h 0x00E0 = true → h.len = 4 → ∀ (scope : U8) (mins : U16),
      (scope.toNat < 1 ∨ 3 < scope.toNat ∨ mins = 0 ∨ 1440 < mins.toNat → exec (.fieldChallenge h scope 0 mins) s = s.turnedAway h 0x00E0 .range [])
      ∧ (1 ≤ scope.toNat → scope.toNat ≤ 3 → mins ≠ 0 → mins.toNat ≤ 1440 →
        (s.openChallenge.isSome = true → exec (.fieldChallenge h scope 0 mins) s = s.turnedAway h 0x00E0 .busy [])
        ∧ (s.openChallenge = none → ∃ t, ∃ p, exec (.fieldChallenge h scope 0 mins) s = .next t ∧ t.answered s h 0x00E0 .ok p ∧ p.length = 24
          ∧ p.drop 16 = le 8 b.serial.toNat ∧ t.boot = { b with challenge := some (scope.toNat, p.take 16, mins.toNat, s.dtime) })))
    ∧ (s.takes h 0x00E1 = true → h.len = 64 → ∀ sig : Bytes, sig.length = 64 →
      (s.openChallenge = none → exec (.fieldResponse h sig) s = s.turnedAway h 0x00E1 .notFound [])
      ∧ (∀ (scope : Nat) (nonce : Bytes) (mins : Nat), s.openChallenge = some (scope, nonce, mins) →
        let good := s.signedFor scope sig (nonce ++ le 8 b.serial.toNat ++ le 1 scope ++ le 1 0 ++ le 2 mins ++ le 4 0x46414331)
        ∃ t, exec (.fieldResponse h sig) s = .next t ∧ t = { s with links := t.links, boot := t.boot } ∧ t.boot.challenge = none
          ∧ (good = true → findT t.boot.scopes scope = some (s.dtime + mins * 2304000000) ∧ t.answered s h 0x00E1 .ok (le 8 (s.dtime + mins * 2304000000)))
          ∧ (good = false → t.boot.scopes = b.scopes ∧ t.answered s h 0x00E1 .authFail [])))
    ∧ (∀ ch, b.challenge = some ch → ∃ t, exec .fieldChallengeExpiry s = .next t ∧ t = { s with dtime := t.dtime, boot := { b with challenge := none } }
        ∧ (s.clk.stopped = false → ch.2.2.2 + 11520000000 ≤ t.dtime))
    ∧ (∀ (k : Fin 4) (t0 : Nat), findT b.scopes k.val = some t0 → ∃ t, exec (.fieldScopeClose k) s = .next t ∧ findT t.boot.scopes k.val = none
        ∧ t = { s with dtime := t.dtime, boot := { b with scopes := t.boot.scopes } } ∧ (s.clk.stopped = false → t0 ≤ t.dtime))

/-! ### Resets and boot -/

/-- R4, R7, R35, R36, R119, R121, R124, R137, R411, R456, R458, R459, R462, R481, R484: each cause of reset resets the device, keeping what
the flash, the fuses and PD_AON hold; RESET_N below 500 ns does nothing; the release of reset starts the boot sequence, which ends in READY, a reset, or recovery mode; a step that exceeds its
limit fails its slot, resets, or is reported later; leaving EXTEST, CLAMP or HIGHZ resets, and IDCODE captures the
identification register; ASHORE is left with DTIME carried over, or the watchdog resets where the copy of the memories does not hold. -/
def Obligations.ResetsAndBoot : Prop :=
  ∀ s : State,
    let b := s.boot
    let wiped (t : State) (c : ResetCause) : Prop :=
      t.boot.cause = c ∧ t.dtime = 0 ∧ t.stroke = 0 ∧ t.links.ready = false ∧ t.links.tags = [] ∧ t.links.waiting = [] ∧ t.links.events = []
        ∧ t.links.inFifo = [] ∧ t.dlv = State.reset.dlv ∧ t.cfg = State.reset.cfg ∧ t.rx = State.reset.rx ∧ t.dir.entries = [] ∧ t.arr = State.reset.arr
        ∧ t.pwr.st = .row ∧ t.time = State.reset.time ∧ t.boot.slotA.bytes = b.slotA.bytes ∧ t.boot.slotB.bytes = b.slotB.bytes
        ∧ t.boot.rollback = b.rollback ∧ t.boot.rootKey = b.rootKey ∧ t.boot.pkg6 = b.pkg6 ∧ t.boot.pkg7 = b.pkg7 ∧ t.tx.card = s.tx.card
    let kept (t : State) : Prop := t.trim.values = s.trim.values ∧ t.clk.aon = s.clk.aon ∧ t.boot.held = false ∧ t.boot.step = 1
    let booting := b.step ≠ 0 ∧ b.held = false ∧ b.testMode = false
    (∀ ns : Nat, ns < 500 → exec (.resetNLow ns) s = .next s)
    ∧ (∀ ns : Nat, 2000 ≤ ns → ∃ t, exec (.resetNLow ns) s = .next t ∧ wiped t .resetN ∧ t.boot.held = true ∧ t.pins.resetLow = true ∧ t.trim.values = s.trim.values)
    ∧ (∃ t, exec .overTempReset s = .next t ∧ wiped t .overTemp ∧ t.boot.held = true ∧ t.trim.values = s.trim.values)
    ∧ (∀ tcxo, ∃ t, exec (.powerOnReset tcxo) s = .next t ∧ wiped t .powerOn ∧ t.boot.held = true ∧ t.trim.values = [] ∧ t.clk.aon = 0
        ∧ t.clk.tcxo = tcxo ∧ t.tx.duty = State.reset.tx.duty ∧ t.boot.fails = 0)
    ∧ (b.held = false →
      (s.clk.stopped = false → ∃ t, exec .refLossReset s = .next t ∧ wiped t .refLoss ∧ kept t)
      ∧ (s.pwr.st ≠ .feather → s.pwr.st ≠ .ashore → ∃ t, exec .coreSupplyReset s = .next t ∧ wiped t .coreSupply ∧ kept t)
      ∧ (∀ code, (b.ir = 0x00 ∨ b.ir = 0x04 ∨ b.ir = 0x05) → code ≠ b.ir → ∃ t, exec (.testPortInstruction code) s = .next t ∧ wiped t .testPort
          ∧ kept t ∧ t.boot.ir = code))
    ∧ (s.clk.stopped = true → exec .refLossReset s = .next s)
    ∧ (s.pwr.st = .feather ∨ s.pwr.st = .ashore → exec .coreSupplyReset s = .next s)
    ∧ (∀ code, b.ir ≠ 0x00 → b.ir ≠ 0x04 → b.ir ≠ 0x05 → ∃ t, exec (.testPortInstruction code) s = .next t
        ∧ t = { s with fresh := t.fresh, boot := { b with ir := code, dr := t.boot.dr } }
        ∧ (code = 0x01 → t.boot.dr = (List.range 32).map b.idReg.getLsbD) ∧ (code ≠ 0x00 → code ≠ 0x01 → code ≠ 0x02 → code ≠ 0x10 → t.boot.dr = [false]))
    ∧ ((s.synth 2).lostAt.isSome = true → ∃ t, exec .synDLostReset s = .next t ∧ wiped t .watchdog ∧ kept t)
    ∧ (b.held = true → ∃ t, exec .reset s = .next t ∧ t.dtime = 0 ∧ t.stroke = 0 ∧ t.boot = { b with held := false, step := 1, testMode := s.pins.testEn }
        ∧ t.pins.resetLow = false ∧ t.links = s.links ∧ t.cfg = s.cfg)
    ∧ (∀ aon, s.clk.stopped = true → s.pwr.waking = true →
      (b.sramCopy = some s.dramCopy → aon < 2 ^ 48 → s.clk.ashore.aonEntry ≤ aon → ∃ t, exec (.ashoreExit aon) s = .next t ∧ t.clk.stopped = false
        ∧ t.dtime = s.clk.ashore.dtimeEntry + (aon - s.clk.ashore.aonEntry) * s.clk.ashore.ratio / 2 ^ 20 ∧ t.stroke = t.dtime / 9600
        ∧ t.links = s.links ∧ t.cfg = s.cfg ∧ t.mem = s.loadSram.mem ∧ t.clk.ashore.aonExit = aon ∧ t.clk.ashore.dtimeExit = t.dtime)
      ∧ (b.sramCopy ≠ some s.dramCopy → ∃ t, exec (.ashoreExit aon) s = .next t ∧ wiped t .watchdog))
    ∧ (booting →
      (s.slotOk b.pick = true →
        (b.devId = 0x7216 → b.stepping = 0xB1 → ∃ t, exec .bootReady s = .next t ∧ t.links.ready = true ∧ t.boot.step = 0 ∧ t.boot.recovery = b.recovery
          ∧ t.boot.booted = b.pick ∧ t.boot.fails = 0)
        ∧ (b.devId ≠ 0x7216 ∨ b.stepping ≠ 0xB1 → ∃ t, exec .bootReady s = .next t ∧ wiped t .watchdog ∧ (t.boot.slot b.pick).failed = true))
      ∧ (s.slotOk b.pick = false → s.slotOk (!b.pick) = false → ∃ t, exec .bootReady s = .next t ∧ t.boot.recovery = true ∧ t.boot.step = 0
          ∧ t.links.ready = true ∧ (t.boot.slot false).failed = true ∧ (t.boot.slot true).failed = true ∧ t.cfg = s.cfg)
      ∧ (∀ n : Fin 8,
        (n.val ≤ 2 → (b.slot b.pick).failed = false → ∃ t, exec (.bootStepFlagFall n) s = .next t ∧ (t.boot.slot b.pick).failed = true
          ∧ t.boot.recovery = ((b.slot (!b.pick)).failed || b.recovery))
        ∧ (n.val = 3 → (b.slot b.pick).failed = false → ∃ t, exec (.bootStepFlagFall n) s = .next t ∧ wiped t .watchdog
          ∧ (t.boot.slot b.pick).failed = true)
        ∧ (n.val = 4 → ∃ t, exec (.bootStepFlagFall n) s = .next t ∧ t.boot.cause = .watchdog ∧ t.boot.fails = (if 2 ≤ b.fails then 0 else b.fails + 1)
          ∧ t.boot.recovery = decide (2 ≤ b.fails))
        ∧ (n.val = 5 ∨ n.val = 6 → ∃ t, exec (.bootStepFlagFall n) s = .next t ∧ n.val + 1 ∈ t.boot.lateFalls
          ∧ t = { s with dtime := t.dtime, boot := { b with lateFalls := t.boot.lateFalls } })
        ∧ (n.val = 7 → exec (.bootStepFlagFall n) s = .next s)))

/-! ### Diagnostics, patrol and the catch -/

/-- R14, R46, R84, R389, R396, R404 to R408, R471: DIAG_PEEK answers with the bytes of mapped addresses and DIAG_POKE stores its bytes there,
reserved ones as zero, and nowhere else, both LOCKED without the diagnostic scope; the patrol borrows the windows of every ON instance and tests them, content kept, a failing
word recorded, a disturbed window retried. -/
def Obligations.DiagnosticsAndPatrol : Prop :=
  ∀ (h : Hdr) (s : State),
    (∀ (addr : U32) (n : U16), s.takes h 0x00F0 = true → h.len = 6 →
      (s.scopeOpen 1 = false → n ≠ 0 → n.toNat ≤ 1444 → s.mapped addr.toNat n.toNat = true → exec (.diagPeek h addr n) s = s.turnedAway h 0x00F0 .locked [])
      ∧ (s.mapped addr.toNat n.toNat = false ∨ n = 0 ∨ 4088 < n.toNat → exec (.diagPeek h addr n) s = s.turnedAway h 0x00F0 .range [])
      ∧ (s.scopeOpen 1 = true → n ≠ 0 → n.toNat ≤ 1444 → s.mapped addr.toNat n.toNat = true → (∀ i : Fin 384, (s.inst i).power ≠ 1) →
        ∃ t, exec (.diagPeek h addr n) s = .next t ∧ t = { s with links := t.links }
          ∧ t.answered s h 0x00F0 .ok (le 4 addr.toNat ++ le 2 n.toNat ++ le 2 0 ++ (List.range n.toNat).map fun i => s.sysByte (addr.toNat + i))))
    ∧ (∀ (addr : U32) (data : Bytes), s.takes h 0x00F1 = true → h.len = 8 + data.length → data.length ≤ 4088 →
        s.mapped addr.toNat data.length = true →
      let n := BitVec.ofNat 16 data.length
      (s.scopeOpen 1 = false → exec (.diagPoke h addr n 0 data) s = s.turnedAway h 0x00F1 .locked [])
      ∧ (s.scopeOpen 1 = true → (∀ i : Fin 384, (s.inst i).power ≠ 1) →
        ((∀ i, i < data.length → s.place (addr.toNat + i) = .diag) → ∃ t, exec (.diagPoke h addr n 0 data) s = .next t
          ∧ t = { s with links := t.links } ∧ t.answered s h 0x00F1 .ok [])
        ∧ ((∀ i, i < data.length → s.place (addr.toNat + i) = .coxSram ∨ ∃ k : Fin 384, s.place (addr.toNat + i) = .inst k.val ∧ (s.inst k).power = 2) →
          ∃ t, exec (.diagPoke h addr n 0 data) s = .next t ∧ t = { s with links := t.links, mem := t.mem } ∧ t.answered s h 0x00F1 .ok []
            ∧ ∀ a, t.memByte a = if addr.toNat ≤ a ∧ a < addr.toNat + data.length then data.getD (a - addr.toNat) 0 &&& ~~~(s.reservedAt a)
              else s.memByte a)))
    ∧ (∀ t0, s.mem.nextSweep = some t0 → s.mem.sweep = none → (s.pwr.st = .row ∨ s.pwr.st = .paddle) → (s.inst 0).power = 2 →
      ∃ t, exec .patrolSweepStart s = .next t ∧ t.mem.cells = s.mem.cells ∧ t.mem.nextSweep = none
        ∧ t.mem.sweep = some (0, (((List.range 384).filter fun n => (s.inst n).power == 2).map fun n => instSize n / 2048).sum, t.dtime)
        ∧ (t.engine 0).now = some (0x04000000, false) ∧ (s.clk.stopped = false → t0 ≤ t.dtime))
    ∧ (s.mem.nextSweep = none → exec .patrolSweepStart s = .next s)
    ∧ (∀ (k : Fin 9) (w : Nat), s.mem.counters.length = 10 →
      ((s.engine k).now = some (w, false) → ∃ t, exec (.patrolWindowDone k none false) s = .next t ∧ t.mem.cells = s.mem.cells
          ∧ t.mem.counters.getD 5 0 = s.mem.counters.getD 5 0 + 1 ∧ t.mem.lastFail = s.mem.lastFail ∧ t.cfg = s.cfg)
      ∧ (∀ (n : Fin 384) (word : Nat), (s.engine k).now = some (w, false) → s.place w = .inst n.val → word < 256 →
        ∃ t, exec (.patrolWindowDone k (some word) false) s = .next t ∧ t.mem.cells = s.mem.cells ∧ (t.inst n).failed = true
          ∧ t.mem.lastFail = BitVec.ofNat 32 (w + 8 * word) ∧ t.mem.counters.getD 8 0 = s.mem.counters.getD 8 0 + 1
          ∧ t.trim.ledger.patrolFails = s.trim.ledger.patrolFails + 1)
      ∧ ((s.engine k).now = some (w, true) → ∃ t, exec (.patrolWriteBackDone k) s = .next t ∧ t.mem.cells = s.mem.cells
          ∧ t.mem.counters.getD 6 0 = s.mem.counters.getD 6 0 + 1 ∧ t.cfg = s.cfg)
      ∧ ((s.engine k).now = none → exec (.patrolWindowDone k none false) s = .next s ∧ exec (.patrolWriteBackDone k) s = .next s))

/-- R7, R9, R20, R47, R75, R357: while DTIME counts and the device is not held in reset, a catch begins the next stroke at 9,600 cycles of DTIME a
stroke, signals the running sculls, and a castling that is due makes the shadow set active and advances the generation. -/
def Obligations.CatchAndCastling : Prop :=
  ∀ (i : CatchIn) (s : State),
    let counting := s.boot.held = false ∧ s.clk.stopped = false
    (counting → ∃ t, exec (.strokeCatch i) s = .next t ∧ t.stroke = s.stroke + 1 ∧ t.dtime = max s.dtime (9600 * (s.stroke + 1))
      ∧ t.trim.dieTemp = i.dieTemp ∧ ((s.crew 6).waits = [] → (s.crew 7).waits = [] → t.boot = s.boot)
      ∧ t.clk.aon = (if s.clk.aonLost = true then s.clk.aon else s.clk.aon + BitVec.ofNat 48 i.aonEdges)
      ∧ (∀ c : Fin 64, (findT s.arr.sculls c.val).isSome = true → (s.scull c).halted = false → (s.scull c).dead = false → c.val < 48 →
          (t.scull c).stkLo = BitVec.ofNat 32 (s.stroke + 1) ∧ (t.scull c).ipr = (s.scull c).ipr ||| 2))
    ∧ (¬ counting → exec (.strokeCatch i) s = .next s ∧ exec .castling s = .next s)
    ∧ (∀ tag k late, s.cfg.castle = .armed tag k late → counting →
      (k = s.stroke + 1 → s.links.events.length < 200 → ∃ t, exec .castling s = .next t ∧ t.stroke = k ∧ t.dtime = max s.dtime (9600 * k)
        ∧ t.cfg.active = s.cfg.shadow ∧ t.cfg.shadow = s.cfg.shadow ∧ t.cfg.genAct = s.cfg.genAct + 1 ∧ t.cfg.direct = [])
      ∧ (k ≠ s.stroke + 1 → exec .castling s = .next s))
    ∧ (s.cfg.castle = .idle → exec .castling s = .next s)

/-! ### Encodings and the invariant of the byte stores -/

/-- R362 to R388: the word of every scull instruction, with every operand at every value and its reserved fields zero, is read as that
instruction, but for BR AL, LR, whose word is RET; and every word that is read as an instruction with its reserved fields zero is that
instruction's word. -/
def Obligations.ScullWordRoundTrip : Prop :=
  ∀ (c : Fin 64) (i : Instr) (w : U32),
    (issuer i = some c → rsvClear i = true → scullWord i = some w → i ≠ .br c 0 0x44 false → scullInstr c w = some i)
    ∧ (scullInstr c w = some i → issuer i = some c)
    ∧ (scullInstr c w = some i → rsvClear i = true → scullWord i = some w)

/-- The byte stores of the machine at reset are in canonical form. -/
def Obligations.StoresWfAtReset : Prop := State.reset.storesWf = true

/-- Every step keeps the byte stores, plain memory and the two configuration sets, in canonical form: addresses strictly rising and no
entry equal to what an unlisted address reads as, so that equal contents are equal data. -/
def Obligations.StoresWfInvariant : Prop :=
  ∀ s t : State, s.storesWf = true → step s = .next t → t.storesWf = true
end

