-- ==== Sys2Proof/Laws/Crypto.lean ====
section
/-! SUPPORT. AES-256 decryption by tables of the byte operations, equal to the definition of Machine/Crypto.lean: the form in which a
key unwrap can be evaluated. -/

namespace Sys2Proof.Laws

open Sys2Proof Sys2Proof.Machine

/-- Byte `b` of a table of 256 bytes, least significant first. -/
def byteAt (t : Nat) (b : U8) : U8 := BitVec.ofNat 8 (t >>> (8 * b.toNat))

/-- The square of every byte in the field of AES. -/
def sqTab : Nat :=
  0x1312171603020706535257564342474608090c0d18191c1d48494c4d58595c5d7f7e7b7a6f6e6b6a3f3e3b3a2f2e2b2a64656061747570712425202134353031b8b9bcbda8a9acadf8f9fcfde8e9eceda3a2a7a6b3b2b7b6e3e2e7e6f3f2f7f6d4d5d0d1c4c5c0c19495909184858081cfcecbcadfdedbda8f8e8b8a9f9e9b9a89888d8c99989d9cc9c8cdccd9d8dddc9293969782838687d2d3d6d7c2c3c6c7e5e4e1e0f5f4f1f0a5a4a1a0b5b4b1b0fefffafbeeefeaebbebfbabbaeafaaab2223262732333637626366677273767739383d3c29282d2c79787d7c69686d6c4e4f4a4b5e5f5a5b0e0f0a0b1e1f1a1b55545150454441401514111005040100
/-- The inverse substitution of every byte. -/
def invSubTab : Nat :=
  0x7d0c2155631469e126d677ba7e042b17619953833cbbebc8b0f52aae4d3be0a0ef9cc9939f7ae52d0d4ab519a97f51605fec8027591012b131c7078833a8dd1ff45acd78fec0db9a2079d2c64b3e56fc1bbe18aa0e62b76f89c5291d711af1476edf751ce837f9e28535ade72274ac9673e6b4f0cecff297eadc674f4111913a6b8a130103bdafc1020f3fca8f1e2cd00645b3b80558e4f70ad3bc8c00abd890849d8da75746155edab9edfd5048706c92b6655dcc5ca4d41698688664f6f87225d18b6d49a25b76b224d92866a12e084ec3fa420b954cee3d23c2a632947b54cbe9dec444438e3487ff2f9b8239e37cfbd7f3819ea340bf38a53630d56a0952
/-- The product of every byte with 9. -/
def mul9Tab : Nat :=
  0x464f545d626b70790e071c152a233831d6dfc4cdf2fbe0e99e978c85bab3a8a17d746f6659504b42353c272e1118030aede4fff6c9c0dbd2a5acb7be8188939a3039222b141d060f78716a635c554e47a0a9b2bb848d969fe8e1faf3ccc5ded70b0219102f263d34434a5158676e757c9b928980bfb6ada4d3dac1c8f7fee5ecaaa3b8b18e879c95e2ebf0f9c6cfd4dd3a3328211e170c05727b6069565f444d9198838ab5bca7aed9d0cbc2fdf4efe60108131a252c373e49405b526d647f76dcd5cec7f8f1eae3949d868fb0b9a2ab4c455e5768617a73040d161f2029323be7eef5fcc3cad1d8afa6bdb48b829990777e656c535a41483f362d241b120900
/-- The product of every byte with 11. -/
def mul11Tab : Nat :=
  0xa3a8b5be8f849992fbf0ede6d7dcc1ca1318050e3f3429224b405d56676c717ad8d3cec5f4ffe2e9808b969daca7bab168637e75444f5259303b262d1c170a01555e434879726f640d061b10212a373ce5eef3f8c9c2dfd4bdb6aba0919a878c2e2538330209141f767d606b5a514c479e958883b2b9a4afc6cdd0dbeae1fcf7545f424978736e650c071a11202b363de4eff2f9c8c3ded5bcb7aaa1909b868d2f2439320308151e777c616a5b504d469f948982b3b8a5aec7ccd1daebe0fdf6a2a9b4bf8e859893faf1ece7d6ddc0cb1219040f3e3528234a415c57666d707bd9d2cfc4f5fee3e8818a979cada6bbb069627f74454e5358313a272c1d160b00
/-- The product of every byte with 13. -/
def mul13Tab : Nat :=
  0x979a8d80a3aeb9b4fff2e5e8cbc6d1dc474a5d50737e69642f2235381b16010c2c21363b1815020f44495e53707d6a67fcf1e6ebc8c5d2df94998e83a0adbab7faf7e0edcec3d4d9929f8885a6abbcb12a27303d1e130409424f5855767b6c61414c5b5675786f622924333e1d10070a919c8b86a5a8bfb2f9f4e3eecdc0d7da4d40575a7974636e25283f32111c0b069d90878aa9a4b3bef5f8efe2c1ccdbd6f6fbece1c2cfd8d59e938489aaa7b0bd262b3c31121f08054e4354597a77606d202d3a3714190e034845525f7c71666bf0fdeae7c4c9ded39895828faca1b6bb9b96818cafa2b5b8f3fee9e4c7caddd04b46515c7f726568232e3934171a0d00
/-- The product of every byte with 14. -/
def mul14Tab : Nat :=
  0x8d83919fb5bba9a7fdf3e1efc5cbd9d76d63717f555b49471d13010f252b393756584a446e60727c26283a341e10020cb6b8aaa48e80929cc6c8dad4fef0e2ec202e3c321816040a505e4c426866747ac0cedcd2f8f6e4eab0beaca28886949afbf5e7e9c3cddfd18b859799b3bdafa11b150709232d3f316b657779535d4f41ccc2d0def4fae8e6bcb2a0ae848a98962c22303e141a08065c52404e646a787617190b052f21333d67697b755f51434df7f9ebe5cfc1d3dd87899b95bfb1a3ad616f7d735957454b111f0d032927353b818f9d93b9b7a5abf1ffede3c9c7d5dbbab4a6a8828c9e90cac4d6d8f2fceee05a544648626c7e702a243638121c0e00

theorem square_fin : ∀ n : Fin 256, gmul (BitVec.ofFin n) (BitVec.ofFin n) = byteAt sqTab (BitVec.ofFin n) := by decide +kernel
/-- A square by its table. -/
theorem square_table (b : U8) : gmul b b = byteAt sqTab b := square_fin b.toFin

/-- The inverse with its squares by table. -/
def invByTable (a : U8) : U8 :=
  let a2 := byteAt sqTab a
  let a4 := byteAt sqTab a2
  let a8 := byteAt sqTab a4
  let a16 := byteAt sqTab a8
  let a32 := byteAt sqTab a16
  let a64 := byteAt sqTab a32
  gmul (byteAt sqTab a64) (gmul a64 (gmul a32 (gmul a16 (gmul a8 (gmul a4 a2)))))
theorem inverse_table (a : U8) : ginv a = invByTable a := by simp only [ginv, invByTable, square_table]

theorem invSub_fin : ∀ n : Fin 256,
    invByTable ((BitVec.ofFin n : U8).rotateLeft 1 ^^^ (BitVec.ofFin n : U8).rotateLeft 3 ^^^ (BitVec.ofFin n : U8).rotateLeft 6 ^^^ 0x05#8)
      = byteAt invSubTab (BitVec.ofFin n) := by
  decide +kernel
/-- The inverse substitution by its table. -/
theorem invSub_table : invSubByte = byteAt invSubTab := by
  funext b
  rw [invSubByte, inverse_table]
  exact invSub_fin b.toFin

theorem mul9_fin : ∀ n : Fin 256, gmul (BitVec.ofFin n) 9 = byteAt mul9Tab (BitVec.ofFin n) := by decide +kernel
/-- The product with 9 by its table. -/
theorem mul9_table (b : U8) : gmul b 9 = byteAt mul9Tab b := mul9_fin b.toFin
theorem mul11_fin : ∀ n : Fin 256, gmul (BitVec.ofFin n) 11 = byteAt mul11Tab (BitVec.ofFin n) := by decide +kernel
/-- The product with 11 by its table. -/
theorem mul11_table (b : U8) : gmul b 11 = byteAt mul11Tab b := mul11_fin b.toFin
theorem mul13_fin : ∀ n : Fin 256, gmul (BitVec.ofFin n) 13 = byteAt mul13Tab (BitVec.ofFin n) := by decide +kernel
/-- The product with 13 by its table. -/
theorem mul13_table (b : U8) : gmul b 13 = byteAt mul13Tab b := mul13_fin b.toFin
theorem mul14_fin : ∀ n : Fin 256, gmul (BitVec.ofFin n) 14 = byteAt mul14Tab (BitVec.ofFin n) := by decide +kernel
/-- The product with 14 by its table. -/
theorem mul14_table (b : U8) : gmul b 14 = byteAt mul14Tab b := mul14_fin b.toFin

/-- The inverse column mix by tables. -/
def mixByTable : Bytes → Bytes
  | [a, b, c, d] =>
    [byteAt mul14Tab a ^^^ byteAt mul11Tab b ^^^ byteAt mul13Tab c ^^^ byteAt mul9Tab d,
     byteAt mul9Tab a ^^^ byteAt mul14Tab b ^^^ byteAt mul11Tab c ^^^ byteAt mul13Tab d,
     byteAt mul13Tab a ^^^ byteAt mul9Tab b ^^^ byteAt mul14Tab c ^^^ byteAt mul11Tab d,
     byteAt mul11Tab a ^^^ byteAt mul13Tab b ^^^ byteAt mul9Tab c ^^^ byteAt mul14Tab d]
  | l => l
theorem invMixCol_table : invMixCol = mixByTable := by
  funext l
  unfold invMixCol mixByTable
  split <;> simp only [mul9_table, mul11_table, mul13_table, mul14_table]

/-- The decryption rounds by tables. -/
def roundsByTable : List Bytes → Bytes → Bytes
  | [], s => s
  | [k], s => xorB ((invShift s).map (byteAt invSubTab)) k
  | k :: ks, s => roundsByTable ks (((chunks 4 4 (xorB ((invShift s).map (byteAt invSubTab)) k)).map mixByTable).flatten)
theorem decRounds_table : ∀ (ks : List Bytes) (s : Bytes), decRounds ks s = roundsByTable ks s
  | [], _ => rfl
  | [_], _ => by simp only [decRounds, roundsByTable, invSub_table]
  | _ :: _ :: _, _ => by
    rw [decRounds, roundsByTable, invSub_table, invMixCol_table]
    · exact decRounds_table _ _
    all_goals simp

/-- The decryption of a block by tables, from its round keys. -/
def decryptByTable : List Bytes → Bytes → Bytes
  | [], blk => blk
  | k :: ks, blk => roundsByTable ks (xorB blk k)
theorem aesDecrypt_table (key blk : Bytes) : aesDecrypt key blk = decryptByTable (roundKeys key) blk := by
  unfold aesDecrypt
  split <;> simp only [*, decryptByTable, decRounds_table]

/-- The steps of a key unwrap by tables. -/
def unwrapByTable (ks : List Bytes) : (t : Nat) → (a r1 r2 : Bytes) → Bytes × Bytes × Bytes
  | 0, a, r1, r2 => (a, r1, r2)
  | t + 1, a, r1, r2 =>
    let a1 := xorB a (List.replicate 7 0 ++ [BitVec.ofNat 8 (t + 1)])
    let b := decryptByTable ks (a1 ++ if t % 2 == 0 then r1 else r2)
    if t % 2 == 0 then unwrapByTable ks t (b.take 8) (b.drop 8) r2 else unwrapByTable ks t (b.take 8) r1 (b.drop 8)
theorem unwrapSteps_table (key : Bytes) : ∀ (t : Nat) (a r1 r2 : Bytes), unwrapSteps key t a r1 r2 = unwrapByTable (roundKeys key) t a r1 r2
  | 0, _, _, _ => rfl
  | t + 1, _, _, _ => by simp only [unwrapSteps, unwrapByTable, aesDecrypt_table, unwrapSteps_table key t]

/-- A key unwraps when the integrity register ends with the default value of RFC 3394. -/
theorem unwrapKey_isSome (kek wkey : Bytes) :
    (unwrapKey kek wkey).isSome
      = ((unwrapByTable (roundKeys kek) 12 (wkey.take 8) ((wkey.drop 8).take 8) ((wkey.drop 16).take 8)).1 == List.replicate 8 0xA6) := by
  simp only [unwrapKey, unwrapSteps_table]
  split <;> simp_all

end Sys2Proof.Laws
end

