-- ==== Sys2Proof/Laws/Tables.lean ====
section
/-! SUPPORT. Keyed tables and byte stores: a read after a write, and that every write keeps the canonical form. -/

namespace Sys2Proof.Machine

/-! ### Keyed tables -/

@[simp] theorem getT_putT {α : Type} (d : α) (t : Tab α) (i : Nat) (v : α) : getT d (putT t i v) i = v := by
  induction t with
  | nil => simp [putT, getT]
  | cons p t ih =>
    obtain ⟨k, w⟩ := p
    unfold putT
    split
    · simp [getT]
    · split <;> simp_all [getT]

theorem getT_putT_ne {α : Type} (d : α) (t : Tab α) (i : Nat) (v : α) (j : Nat) (h : j ≠ i) : getT d (putT t i v) j = getT d t j := by
  induction t with
  | nil => simp [putT, getT, h.symm]
  | cons p t ih =>
    obtain ⟨k, w⟩ := p
    unfold putT
    split
    · simp [getT, h.symm]
    · split
      · next hk => simp only [beq_iff_eq] at hk; subst hk; simp [getT, h.symm]
      · simp [getT, ih]

@[simp] theorem putT_putT {α : Type} (t : Tab α) (i : Nat) (v w : α) : putT (putT t i v) i w = putT t i w := by
  induction t with
  | nil => simp [putT]
  | cons p t ih =>
    obtain ⟨k, u⟩ := p
    by_cases h1 : i < k
    · simp [putT, h1]
    · by_cases h2 : k = i
      · simp [putT, h2]
      · simp [putT, h1, h2, ih]

/-! ### Byte stores -/

theorem readCell_writeCell (d : Nat → U8) (m : List Host.Cell) (lo a : Nat) (b : U8) (h : cellsFrom d lo m = true) :
    readCell d (writeCell d m a b) a = b := by
  induction m generalizing lo with
  | nil => by_cases hb : b = d a <;> simp [writeCell, readCell, hb]
  | cons p t ih =>
    obtain ⟨k, v⟩ := p
    simp only [cellsFrom, Bool.and_eq_true, decide_eq_true_eq] at h
    have low : ∀ (t : List Host.Cell) (x lo : Nat), cellsFrom d lo t = true → x < lo → readCell d t x = d x := by
      intro t
      induction t with
      | nil => intros; rfl
      | cons q t iq =>
        intro x lo hq hx
        obtain ⟨k, v⟩ := q
        simp only [cellsFrom, Bool.and_eq_true, decide_eq_true_eq] at hq
        have : k ≠ x := by omega
        simp only [readCell, beq_iff_eq, this, if_false]
        exact iq x (k + 1) hq.2 (by omega)
    unfold writeCell
    split
    · split
      · next hb =>
        have hk : k ≠ a := by omega
        simp only [beq_iff_eq] at hb
        simp only [readCell, beq_iff_eq, hk, if_false, hb]
        exact low t a (k + 1) h.2 (by omega)
      · simp [readCell]
    · split
      · next hk =>
        simp only [beq_iff_eq] at hk
        split
        · next hb =>
          simp only [beq_iff_eq] at hb
          rw [hb]
          exact low t a (k + 1) h.2 (by omega)
        · simp [readCell]
      · next hk =>
        have hk' : k ≠ a := by simpa using hk
        simp only [readCell, beq_iff_eq, hk', if_false]
        exact ih (k + 1) h.2

theorem readCell_writeCell_ne (d : Nat → U8) (m : List Host.Cell) (a x : Nat) (b : U8) (hx : x ≠ a) :
    readCell d (writeCell d m a b) x = readCell d m x := by
  induction m with
  | nil => by_cases hb : b = d a <;> simp [writeCell, readCell, hb, hx.symm]
  | cons p t ih =>
    obtain ⟨k, v⟩ := p
    unfold writeCell
    split
    · split <;> simp [readCell, hx.symm]
    · split
      · next hk =>
        simp only [beq_iff_eq] at hk
        subst hk
        split <;> simp [readCell, hx.symm]
      · simp [readCell, ih]

theorem cellsFrom_mono (d : Nat → U8) (m : List Host.Cell) (lo hi : Nat) (h : cellsFrom d hi m = true) (hl : lo ≤ hi) :
    cellsFrom d lo m = true := by
  cases m with
  | nil => rfl
  | cons p t =>
    obtain ⟨k, v⟩ := p
    simp only [cellsFrom, Bool.and_eq_true, decide_eq_true_eq] at h ⊢
    exact ⟨⟨by omega, h.1.2⟩, h.2⟩

theorem cellsFrom_writeCell (d : Nat → U8) (m : List Host.Cell) (lo a : Nat) (b : U8) (h : cellsFrom d lo m = true) (ha : lo ≤ a) :
    cellsFrom d lo (writeCell d m a b) = true := by
  induction m generalizing lo with
  | nil => by_cases hb : b = d a <;> simp [writeCell, cellsFrom, hb, ha]
  | cons p t ih =>
    obtain ⟨k, v⟩ := p
    have h' := h
    simp only [cellsFrom, Bool.and_eq_true, decide_eq_true_eq] at h
    unfold writeCell
    split
    · split
      · exact h'
      · next hb =>
        have : b ≠ d a := by simpa using hb
        simp only [cellsFrom, Bool.and_eq_true, decide_eq_true_eq]
        exact ⟨⟨ha, by simpa using this⟩, ⟨⟨by omega, h.1.2⟩, h.2⟩⟩
    · split
      · next hk =>
        simp only [beq_iff_eq] at hk
        split
        · exact cellsFrom_mono d t lo (k + 1) h.2 (by omega)
        · next hb =>
          have : b ≠ d a := by simpa using hb
          simp only [cellsFrom, Bool.and_eq_true, decide_eq_true_eq]
          exact ⟨⟨ha, by simpa using this⟩, by rw [← hk]; exact h.2⟩
      · next h1 hk =>
        have : k ≠ a := by simpa using hk
        simp only [cellsFrom, Bool.and_eq_true, decide_eq_true_eq]
        exact ⟨h.1, ih (k + 1) h.2 (by omega)⟩

/-- A write keeps the canonical form. -/
theorem cellsWf_writeCell (d : Nat → U8) (m : List Host.Cell) (a : Nat) (b : U8) (h : cellsWf d m = true) :
    cellsWf d (writeCell d m a b) = true := cellsFrom_writeCell d m 0 a b h (Nat.zero_le a)

/-- Writes of several bytes keep the canonical form. -/
theorem cellsWf_writeCells (d : Nat → U8) (bs : Bytes) (m : List Host.Cell) (a : Nat) (h : cellsWf d m = true) :
    cellsWf d (writeCells d m a bs) = true := by
  induction bs generalizing m a with
  | nil => exact h
  | cons b bs ih => exact ih _ _ (cellsWf_writeCell d m a b h)

theorem cellsFrom_filter (d : Nat → U8) (m : List Host.Cell) (lo : Nat) (p : Host.Cell → Bool) (h : cellsFrom d lo m = true) :
    cellsFrom d lo (m.filter p) = true := by
  induction m generalizing lo with
  | nil => rfl
  | cons c t ih =>
    obtain ⟨k, v⟩ := c
    have h' := h
    simp only [cellsFrom, Bool.and_eq_true, decide_eq_true_eq] at h
    simp only [List.filter]
    split
    · simp only [cellsFrom, Bool.and_eq_true, decide_eq_true_eq]
      exact ⟨h.1, ih (k + 1) h.2⟩
    · exact cellsFrom_mono d _ lo (k + 1) (ih (k + 1) h.2) (by omega)

/-- Cells taken out keep the canonical form. -/
theorem cellsWf_filter (d : Nat → U8) (m : List Host.Cell) (p : Host.Cell → Bool) (h : cellsWf d m = true) :
    cellsWf d (m.filter p) = true := cellsFrom_filter d m 0 p h

end Sys2Proof.Machine
end

