-- ==== Sys2Proof/Laws/State.lean ====
section
/-! SUPPORT. What each update of one part of the state does to every part: itself, and nothing else. -/

namespace Sys2Proof.Machine

/-! ### onLinks -/

@[simp] theorem State.onLinks_pending (s : State) (f : Links → Links) : (s.onLinks f).pending = s.pending := rfl
@[simp] theorem State.onLinks_dtime (s : State) (f : Links → Links) : (s.onLinks f).dtime = s.dtime := rfl
@[simp] theorem State.onLinks_stroke (s : State) (f : Links → Links) : (s.onLinks f).stroke = s.stroke := rfl
@[simp] theorem State.onLinks_fresh (s : State) (f : Links → Links) : (s.onLinks f).fresh = s.fresh := rfl
@[simp] theorem State.onLinks_links (s : State) (f : Links → Links) : (s.onLinks f).links = f s.links := rfl
@[simp] theorem State.onLinks_cnt (s : State) (f : Links → Links) : (s.onLinks f).cnt = s.cnt := rfl
@[simp] theorem State.onLinks_dlv (s : State) (f : Links → Links) : (s.onLinks f).dlv = s.dlv := rfl
@[simp] theorem State.onLinks_cfg (s : State) (f : Links → Links) : (s.onLinks f).cfg = s.cfg := rfl
@[simp] theorem State.onLinks_chains (s : State) (f : Links → Links) : (s.onLinks f).chains = s.chains := rfl
@[simp] theorem State.onLinks_gains (s : State) (f : Links → Links) : (s.onLinks f).gains = s.gains := rfl
@[simp] theorem State.onLinks_synths (s : State) (f : Links → Links) : (s.onLinks f).synths = s.synths := rfl
@[simp] theorem State.onLinks_clk (s : State) (f : Links → Links) : (s.onLinks f).clk = s.clk := rfl
@[simp] theorem State.onLinks_rx (s : State) (f : Links → Links) : (s.onLinks f).rx = s.rx := rfl
@[simp] theorem State.onLinks_dir (s : State) (f : Links → Links) : (s.onLinks f).dir = s.dir := rfl
@[simp] theorem State.onLinks_tx (s : State) (f : Links → Links) : (s.onLinks f).tx = s.tx := rfl
@[simp] theorem State.onLinks_bc (s : State) (f : Links → Links) : (s.onLinks f).bc = s.bc := rfl
@[simp] theorem State.onLinks_time (s : State) (f : Links → Links) : (s.onLinks f).time = s.time := rfl
@[simp] theorem State.onLinks_str (s : State) (f : Links → Links) : (s.onLinks f).str = s.str := rfl
@[simp] theorem State.onLinks_arr (s : State) (f : Links → Links) : (s.onLinks f).arr = s.arr := rfl
@[simp] theorem State.onLinks_mem (s : State) (f : Links → Links) : (s.onLinks f).mem = s.mem := rfl
@[simp] theorem State.onLinks_trim (s : State) (f : Links → Links) : (s.onLinks f).trim = s.trim := rfl
@[simp] theorem State.onLinks_pwr (s : State) (f : Links → Links) : (s.onLinks f).pwr = s.pwr := rfl
@[simp] theorem State.onLinks_boot (s : State) (f : Links → Links) : (s.onLinks f).boot = s.boot := rfl
@[simp] theorem State.onLinks_pins (s : State) (f : Links → Links) : (s.onLinks f).pins = s.pins := rfl

/-! ### onCnt -/

@[simp] theorem State.onCnt_pending (s : State) (f : Counters → Counters) : (s.onCnt f).pending = s.pending := rfl
@[simp] theorem State.onCnt_dtime (s : State) (f : Counters → Counters) : (s.onCnt f).dtime = s.dtime := rfl
@[simp] theorem State.onCnt_stroke (s : State) (f : Counters → Counters) : (s.onCnt f).stroke = s.stroke := rfl
@[simp] theorem State.onCnt_fresh (s : State) (f : Counters → Counters) : (s.onCnt f).fresh = s.fresh := rfl
@[simp] theorem State.onCnt_links (s : State) (f : Counters → Counters) : (s.onCnt f).links = s.links := rfl
@[simp] theorem State.onCnt_cnt (s : State) (f : Counters → Counters) : (s.onCnt f).cnt = f s.cnt := rfl
@[simp] theorem State.onCnt_dlv (s : State) (f : Counters → Counters) : (s.onCnt f).dlv = s.dlv := rfl
@[simp] theorem State.onCnt_cfg (s : State) (f : Counters → Counters) : (s.onCnt f).cfg = s.cfg := rfl
@[simp] theorem State.onCnt_chains (s : State) (f : Counters → Counters) : (s.onCnt f).chains = s.chains := rfl
@[simp] theorem State.onCnt_gains (s : State) (f : Counters → Counters) : (s.onCnt f).gains = s.gains := rfl
@[simp] theorem State.onCnt_synths (s : State) (f : Counters → Counters) : (s.onCnt f).synths = s.synths := rfl
@[simp] theorem State.onCnt_clk (s : State) (f : Counters → Counters) : (s.onCnt f).clk = s.clk := rfl
@[simp] theorem State.onCnt_rx (s : State) (f : Counters → Counters) : (s.onCnt f).rx = s.rx := rfl
@[simp] theorem State.onCnt_dir (s : State) (f : Counters → Counters) : (s.onCnt f).dir = s.dir := rfl
@[simp] theorem State.onCnt_tx (s : State) (f : Counters → Counters) : (s.onCnt f).tx = s.tx := rfl
@[simp] theorem State.onCnt_bc (s : State) (f : Counters → Counters) : (s.onCnt f).bc = s.bc := rfl
@[simp] theorem State.onCnt_time (s : State) (f : Counters → Counters) : (s.onCnt f).time = s.time := rfl
@[simp] theorem State.onCnt_str (s : State) (f : Counters → Counters) : (s.onCnt f).str = s.str := rfl
@[simp] theorem State.onCnt_arr (s : State) (f : Counters → Counters) : (s.onCnt f).arr = s.arr := rfl
@[simp] theorem State.onCnt_mem (s : State) (f : Counters → Counters) : (s.onCnt f).mem = s.mem := rfl
@[simp] theorem State.onCnt_trim (s : State) (f : Counters → Counters) : (s.onCnt f).trim = s.trim := rfl
@[simp] theorem State.onCnt_pwr (s : State) (f : Counters → Counters) : (s.onCnt f).pwr = s.pwr := rfl
@[simp] theorem State.onCnt_boot (s : State) (f : Counters → Counters) : (s.onCnt f).boot = s.boot := rfl
@[simp] theorem State.onCnt_pins (s : State) (f : Counters → Counters) : (s.onCnt f).pins = s.pins := rfl

/-! ### onDlv -/

@[simp] theorem State.onDlv_pending (s : State) (f : Delivery → Delivery) : (s.onDlv f).pending = s.pending := rfl
@[simp] theorem State.onDlv_dtime (s : State) (f : Delivery → Delivery) : (s.onDlv f).dtime = s.dtime := rfl
@[simp] theorem State.onDlv_stroke (s : State) (f : Delivery → Delivery) : (s.onDlv f).stroke = s.stroke := rfl
@[simp] theorem State.onDlv_fresh (s : State) (f : Delivery → Delivery) : (s.onDlv f).fresh = s.fresh := rfl
@[simp] theorem State.onDlv_links (s : State) (f : Delivery → Delivery) : (s.onDlv f).links = s.links := rfl
@[simp] theorem State.onDlv_cnt (s : State) (f : Delivery → Delivery) : (s.onDlv f).cnt = s.cnt := rfl
@[simp] theorem State.onDlv_dlv (s : State) (f : Delivery → Delivery) : (s.onDlv f).dlv = f s.dlv := rfl
@[simp] theorem State.onDlv_cfg (s : State) (f : Delivery → Delivery) : (s.onDlv f).cfg = s.cfg := rfl
@[simp] theorem State.onDlv_chains (s : State) (f : Delivery → Delivery) : (s.onDlv f).chains = s.chains := rfl
@[simp] theorem State.onDlv_gains (s : State) (f : Delivery → Delivery) : (s.onDlv f).gains = s.gains := rfl
@[simp] theorem State.onDlv_synths (s : State) (f : Delivery → Delivery) : (s.onDlv f).synths = s.synths := rfl
@[simp] theorem State.onDlv_clk (s : State) (f : Delivery → Delivery) : (s.onDlv f).clk = s.clk := rfl
@[simp] theorem State.onDlv_rx (s : State) (f : Delivery → Delivery) : (s.onDlv f).rx = s.rx := rfl
@[simp] theorem State.onDlv_dir (s : State) (f : Delivery → Delivery) : (s.onDlv f).dir = s.dir := rfl
@[simp] theorem State.onDlv_tx (s : State) (f : Delivery → Delivery) : (s.onDlv f).tx = s.tx := rfl
@[simp] theorem State.onDlv_bc (s : State) (f : Delivery → Delivery) : (s.onDlv f).bc = s.bc := rfl
@[simp] theorem State.onDlv_time (s : State) (f : Delivery → Delivery) : (s.onDlv f).time = s.time := rfl
@[simp] theorem State.onDlv_str (s : State) (f : Delivery → Delivery) : (s.onDlv f).str = s.str := rfl
@[simp] theorem State.onDlv_arr (s : State) (f : Delivery → Delivery) : (s.onDlv f).arr = s.arr := rfl
@[simp] theorem State.onDlv_mem (s : State) (f : Delivery → Delivery) : (s.onDlv f).mem = s.mem := rfl
@[simp] theorem State.onDlv_trim (s : State) (f : Delivery → Delivery) : (s.onDlv f).trim = s.trim := rfl
@[simp] theorem State.onDlv_pwr (s : State) (f : Delivery → Delivery) : (s.onDlv f).pwr = s.pwr := rfl
@[simp] theorem State.onDlv_boot (s : State) (f : Delivery → Delivery) : (s.onDlv f).boot = s.boot := rfl
@[simp] theorem State.onDlv_pins (s : State) (f : Delivery → Delivery) : (s.onDlv f).pins = s.pins := rfl

/-! ### onCfg -/

@[simp] theorem State.onCfg_pending (s : State) (f : ConfigSets → ConfigSets) : (s.onCfg f).pending = s.pending := rfl
@[simp] theorem State.onCfg_dtime (s : State) (f : ConfigSets → ConfigSets) : (s.onCfg f).dtime = s.dtime := rfl
@[simp] theorem State.onCfg_stroke (s : State) (f : ConfigSets → ConfigSets) : (s.onCfg f).stroke = s.stroke := rfl
@[simp] theorem State.onCfg_fresh (s : State) (f : ConfigSets → ConfigSets) : (s.onCfg f).fresh = s.fresh := rfl
@[simp] theorem State.onCfg_links (s : State) (f : ConfigSets → ConfigSets) : (s.onCfg f).links = s.links := rfl
@[simp] theorem State.onCfg_cnt (s : State) (f : ConfigSets → ConfigSets) : (s.onCfg f).cnt = s.cnt := rfl
@[simp] theorem State.onCfg_dlv (s : State) (f : ConfigSets → ConfigSets) : (s.onCfg f).dlv = s.dlv := rfl
@[simp] theorem State.onCfg_cfg (s : State) (f : ConfigSets → ConfigSets) : (s.onCfg f).cfg = f s.cfg := rfl
@[simp] theorem State.onCfg_chains (s : State) (f : ConfigSets → ConfigSets) : (s.onCfg f).chains = s.chains := rfl
@[simp] theorem State.onCfg_gains (s : State) (f : ConfigSets → ConfigSets) : (s.onCfg f).gains = s.gains := rfl
@[simp] theorem State.onCfg_synths (s : State) (f : ConfigSets → ConfigSets) : (s.onCfg f).synths = s.synths := rfl
@[simp] theorem State.onCfg_clk (s : State) (f : ConfigSets → ConfigSets) : (s.onCfg f).clk = s.clk := rfl
@[simp] theorem State.onCfg_rx (s : State) (f : ConfigSets → ConfigSets) : (s.onCfg f).rx = s.rx := rfl
@[simp] theorem State.onCfg_dir (s : State) (f : ConfigSets → ConfigSets) : (s.onCfg f).dir = s.dir := rfl
@[simp] theorem State.onCfg_tx (s : State) (f : ConfigSets → ConfigSets) : (s.onCfg f).tx = s.tx := rfl
@[simp] theorem State.onCfg_bc (s : State) (f : ConfigSets → ConfigSets) : (s.onCfg f).bc = s.bc := rfl
@[simp] theorem State.onCfg_time (s : State) (f : ConfigSets → ConfigSets) : (s.onCfg f).time = s.time := rfl
@[simp] theorem State.onCfg_str (s : State) (f : ConfigSets → ConfigSets) : (s.onCfg f).str = s.str := rfl
@[simp] theorem State.onCfg_arr (s : State) (f : ConfigSets → ConfigSets) : (s.onCfg f).arr = s.arr := rfl
@[simp] theorem State.onCfg_mem (s : State) (f : ConfigSets → ConfigSets) : (s.onCfg f).mem = s.mem := rfl
@[simp] theorem State.onCfg_trim (s : State) (f : ConfigSets → ConfigSets) : (s.onCfg f).trim = s.trim := rfl
@[simp] theorem State.onCfg_pwr (s : State) (f : ConfigSets → ConfigSets) : (s.onCfg f).pwr = s.pwr := rfl
@[simp] theorem State.onCfg_boot (s : State) (f : ConfigSets → ConfigSets) : (s.onCfg f).boot = s.boot := rfl
@[simp] theorem State.onCfg_pins (s : State) (f : ConfigSets → ConfigSets) : (s.onCfg f).pins = s.pins := rfl

/-! ### onRx -/

@[simp] theorem State.onRx_pending (s : State) (f : Reception → Reception) : (s.onRx f).pending = s.pending := rfl
@[simp] theorem State.onRx_dtime (s : State) (f : Reception → Reception) : (s.onRx f).dtime = s.dtime := rfl
@[simp] theorem State.onRx_stroke (s : State) (f : Reception → Reception) : (s.onRx f).stroke = s.stroke := rfl
@[simp] theorem State.onRx_fresh (s : State) (f : Reception → Reception) : (s.onRx f).fresh = s.fresh := rfl
@[simp] theorem State.onRx_links (s : State) (f : Reception → Reception) : (s.onRx f).links = s.links := rfl
@[simp] theorem State.onRx_cnt (s : State) (f : Reception → Reception) : (s.onRx f).cnt = s.cnt := rfl
@[simp] theorem State.onRx_dlv (s : State) (f : Reception → Reception) : (s.onRx f).dlv = s.dlv := rfl
@[simp] theorem State.onRx_cfg (s : State) (f : Reception → Reception) : (s.onRx f).cfg = s.cfg := rfl
@[simp] theorem State.onRx_chains (s : State) (f : Reception → Reception) : (s.onRx f).chains = s.chains := rfl
@[simp] theorem State.onRx_gains (s : State) (f : Reception → Reception) : (s.onRx f).gains = s.gains := rfl
@[simp] theorem State.onRx_synths (s : State) (f : Reception → Reception) : (s.onRx f).synths = s.synths := rfl
@[simp] theorem State.onRx_clk (s : State) (f : Reception → Reception) : (s.onRx f).clk = s.clk := rfl
@[simp] theorem State.onRx_rx (s : State) (f : Reception → Reception) : (s.onRx f).rx = f s.rx := rfl
@[simp] theorem State.onRx_dir (s : State) (f : Reception → Reception) : (s.onRx f).dir = s.dir := rfl
@[simp] theorem State.onRx_tx (s : State) (f : Reception → Reception) : (s.onRx f).tx = s.tx := rfl
@[simp] theorem State.onRx_bc (s : State) (f : Reception → Reception) : (s.onRx f).bc = s.bc := rfl
@[simp] theorem State.onRx_time (s : State) (f : Reception → Reception) : (s.onRx f).time = s.time := rfl
@[simp] theorem State.onRx_str (s : State) (f : Reception → Reception) : (s.onRx f).str = s.str := rfl
@[simp] theorem State.onRx_arr (s : State) (f : Reception → Reception) : (s.onRx f).arr = s.arr := rfl
@[simp] theorem State.onRx_mem (s : State) (f : Reception → Reception) : (s.onRx f).mem = s.mem := rfl
@[simp] theorem State.onRx_trim (s : State) (f : Reception → Reception) : (s.onRx f).trim = s.trim := rfl
@[simp] theorem State.onRx_pwr (s : State) (f : Reception → Reception) : (s.onRx f).pwr = s.pwr := rfl
@[simp] theorem State.onRx_boot (s : State) (f : Reception → Reception) : (s.onRx f).boot = s.boot := rfl
@[simp] theorem State.onRx_pins (s : State) (f : Reception → Reception) : (s.onRx f).pins = s.pins := rfl

/-! ### onDir -/

@[simp] theorem State.onDir_pending (s : State) (f : Directory → Directory) : (s.onDir f).pending = s.pending := rfl
@[simp] theorem State.onDir_dtime (s : State) (f : Directory → Directory) : (s.onDir f).dtime = s.dtime := rfl
@[simp] theorem State.onDir_stroke (s : State) (f : Directory → Directory) : (s.onDir f).stroke = s.stroke := rfl
@[simp] theorem State.onDir_fresh (s : State) (f : Directory → Directory) : (s.onDir f).fresh = s.fresh := rfl
@[simp] theorem State.onDir_links (s : State) (f : Directory → Directory) : (s.onDir f).links = s.links := rfl
@[simp] theorem State.onDir_cnt (s : State) (f : Directory → Directory) : (s.onDir f).cnt = s.cnt := rfl
@[simp] theorem State.onDir_dlv (s : State) (f : Directory → Directory) : (s.onDir f).dlv = s.dlv := rfl
@[simp] theorem State.onDir_cfg (s : State) (f : Directory → Directory) : (s.onDir f).cfg = s.cfg := rfl
@[simp] theorem State.onDir_chains (s : State) (f : Directory → Directory) : (s.onDir f).chains = s.chains := rfl
@[simp] theorem State.onDir_gains (s : State) (f : Directory → Directory) : (s.onDir f).gains = s.gains := rfl
@[simp] theorem State.onDir_synths (s : State) (f : Directory → Directory) : (s.onDir f).synths = s.synths := rfl
@[simp] theorem State.onDir_clk (s : State) (f : Directory → Directory) : (s.onDir f).clk = s.clk := rfl
@[simp] theorem State.onDir_rx (s : State) (f : Directory → Directory) : (s.onDir f).rx = s.rx := rfl
@[simp] theorem State.onDir_dir (s : State) (f : Directory → Directory) : (s.onDir f).dir = f s.dir := rfl
@[simp] theorem State.onDir_tx (s : State) (f : Directory → Directory) : (s.onDir f).tx = s.tx := rfl
@[simp] theorem State.onDir_bc (s : State) (f : Directory → Directory) : (s.onDir f).bc = s.bc := rfl
@[simp] theorem State.onDir_time (s : State) (f : Directory → Directory) : (s.onDir f).time = s.time := rfl
@[simp] theorem State.onDir_str (s : State) (f : Directory → Directory) : (s.onDir f).str = s.str := rfl
@[simp] theorem State.onDir_arr (s : State) (f : Directory → Directory) : (s.onDir f).arr = s.arr := rfl
@[simp] theorem State.onDir_mem (s : State) (f : Directory → Directory) : (s.onDir f).mem = s.mem := rfl
@[simp] theorem State.onDir_trim (s : State) (f : Directory → Directory) : (s.onDir f).trim = s.trim := rfl
@[simp] theorem State.onDir_pwr (s : State) (f : Directory → Directory) : (s.onDir f).pwr = s.pwr := rfl
@[simp] theorem State.onDir_boot (s : State) (f : Directory → Directory) : (s.onDir f).boot = s.boot := rfl
@[simp] theorem State.onDir_pins (s : State) (f : Directory → Directory) : (s.onDir f).pins = s.pins := rfl

/-! ### onTx -/

@[simp] theorem State.onTx_pending (s : State) (f : Transmit → Transmit) : (s.onTx f).pending = s.pending := rfl
@[simp] theorem State.onTx_dtime (s : State) (f : Transmit → Transmit) : (s.onTx f).dtime = s.dtime := rfl
@[simp] theorem State.onTx_stroke (s : State) (f : Transmit → Transmit) : (s.onTx f).stroke = s.stroke := rfl
@[simp] theorem State.onTx_fresh (s : State) (f : Transmit → Transmit) : (s.onTx f).fresh = s.fresh := rfl
@[simp] theorem State.onTx_links (s : State) (f : Transmit → Transmit) : (s.onTx f).links = s.links := rfl
@[simp] theorem State.onTx_cnt (s : State) (f : Transmit → Transmit) : (s.onTx f).cnt = s.cnt := rfl
@[simp] theorem State.onTx_dlv (s : State) (f : Transmit → Transmit) : (s.onTx f).dlv = s.dlv := rfl
@[simp] theorem State.onTx_cfg (s : State) (f : Transmit → Transmit) : (s.onTx f).cfg = s.cfg := rfl
@[simp] theorem State.onTx_chains (s : State) (f : Transmit → Transmit) : (s.onTx f).chains = s.chains := rfl
@[simp] theorem State.onTx_gains (s : State) (f : Transmit → Transmit) : (s.onTx f).gains = s.gains := rfl
@[simp] theorem State.onTx_synths (s : State) (f : Transmit → Transmit) : (s.onTx f).synths = s.synths := rfl
@[simp] theorem State.onTx_clk (s : State) (f : Transmit → Transmit) : (s.onTx f).clk = s.clk := rfl
@[simp] theorem State.onTx_rx (s : State) (f : Transmit → Transmit) : (s.onTx f).rx = s.rx := rfl
@[simp] theorem State.onTx_dir (s : State) (f : Transmit → Transmit) : (s.onTx f).dir = s.dir := rfl
@[simp] theorem State.onTx_tx (s : State) (f : Transmit → Transmit) : (s.onTx f).tx = f s.tx := rfl
@[simp] theorem State.onTx_bc (s : State) (f : Transmit → Transmit) : (s.onTx f).bc = s.bc := rfl
@[simp] theorem State.onTx_time (s : State) (f : Transmit → Transmit) : (s.onTx f).time = s.time := rfl
@[simp] theorem State.onTx_str (s : State) (f : Transmit → Transmit) : (s.onTx f).str = s.str := rfl
@[simp] theorem State.onTx_arr (s : State) (f : Transmit → Transmit) : (s.onTx f).arr = s.arr := rfl
@[simp] theorem State.onTx_mem (s : State) (f : Transmit → Transmit) : (s.onTx f).mem = s.mem := rfl
@[simp] theorem State.onTx_trim (s : State) (f : Transmit → Transmit) : (s.onTx f).trim = s.trim := rfl
@[simp] theorem State.onTx_pwr (s : State) (f : Transmit → Transmit) : (s.onTx f).pwr = s.pwr := rfl
@[simp] theorem State.onTx_boot (s : State) (f : Transmit → Transmit) : (s.onTx f).boot = s.boot := rfl
@[simp] theorem State.onTx_pins (s : State) (f : Transmit → Transmit) : (s.onTx f).pins = s.pins := rfl

/-! ### onBc -/

@[simp] theorem State.onBc_pending (s : State) (f : Broadcast → Broadcast) : (s.onBc f).pending = s.pending := rfl
@[simp] theorem State.onBc_dtime (s : State) (f : Broadcast → Broadcast) : (s.onBc f).dtime = s.dtime := rfl
@[simp] theorem State.onBc_stroke (s : State) (f : Broadcast → Broadcast) : (s.onBc f).stroke = s.stroke := rfl
@[simp] theorem State.onBc_fresh (s : State) (f : Broadcast → Broadcast) : (s.onBc f).fresh = s.fresh := rfl
@[simp] theorem State.onBc_links (s : State) (f : Broadcast → Broadcast) : (s.onBc f).links = s.links := rfl
@[simp] theorem State.onBc_cnt (s : State) (f : Broadcast → Broadcast) : (s.onBc f).cnt = s.cnt := rfl
@[simp] theorem State.onBc_dlv (s : State) (f : Broadcast → Broadcast) : (s.onBc f).dlv = s.dlv := rfl
@[simp] theorem State.onBc_cfg (s : State) (f : Broadcast → Broadcast) : (s.onBc f).cfg = s.cfg := rfl
@[simp] theorem State.onBc_chains (s : State) (f : Broadcast → Broadcast) : (s.onBc f).chains = s.chains := rfl
@[simp] theorem State.onBc_gains (s : State) (f : Broadcast → Broadcast) : (s.onBc f).gains = s.gains := rfl
@[simp] theorem State.onBc_synths (s : State) (f : Broadcast → Broadcast) : (s.onBc f).synths = s.synths := rfl
@[simp] theorem State.onBc_clk (s : State) (f : Broadcast → Broadcast) : (s.onBc f).clk = s.clk := rfl
@[simp] theorem State.onBc_rx (s : State) (f : Broadcast → Broadcast) : (s.onBc f).rx = s.rx := rfl
@[simp] theorem State.onBc_dir (s : State) (f : Broadcast → Broadcast) : (s.onBc f).dir = s.dir := rfl
@[simp] theorem State.onBc_tx (s : State) (f : Broadcast → Broadcast) : (s.onBc f).tx = s.tx := rfl
@[simp] theorem State.onBc_bc (s : State) (f : Broadcast → Broadcast) : (s.onBc f).bc = f s.bc := rfl
@[simp] theorem State.onBc_time (s : State) (f : Broadcast → Broadcast) : (s.onBc f).time = s.time := rfl
@[simp] theorem State.onBc_str (s : State) (f : Broadcast → Broadcast) : (s.onBc f).str = s.str := rfl
@[simp] theorem State.onBc_arr (s : State) (f : Broadcast → Broadcast) : (s.onBc f).arr = s.arr := rfl
@[simp] theorem State.onBc_mem (s : State) (f : Broadcast → Broadcast) : (s.onBc f).mem = s.mem := rfl
@[simp] theorem State.onBc_trim (s : State) (f : Broadcast → Broadcast) : (s.onBc f).trim = s.trim := rfl
@[simp] theorem State.onBc_pwr (s : State) (f : Broadcast → Broadcast) : (s.onBc f).pwr = s.pwr := rfl
@[simp] theorem State.onBc_boot (s : State) (f : Broadcast → Broadcast) : (s.onBc f).boot = s.boot := rfl
@[simp] theorem State.onBc_pins (s : State) (f : Broadcast → Broadcast) : (s.onBc f).pins = s.pins := rfl

/-! ### onTime -/

@[simp] theorem State.onTime_pending (s : State) (f : TimeD → TimeD) : (s.onTime f).pending = s.pending := rfl
@[simp] theorem State.onTime_dtime (s : State) (f : TimeD → TimeD) : (s.onTime f).dtime = s.dtime := rfl
@[simp] theorem State.onTime_stroke (s : State) (f : TimeD → TimeD) : (s.onTime f).stroke = s.stroke := rfl
@[simp] theorem State.onTime_fresh (s : State) (f : TimeD → TimeD) : (s.onTime f).fresh = s.fresh := rfl
@[simp] theorem State.onTime_links (s : State) (f : TimeD → TimeD) : (s.onTime f).links = s.links := rfl
@[simp] theorem State.onTime_cnt (s : State) (f : TimeD → TimeD) : (s.onTime f).cnt = s.cnt := rfl
@[simp] theorem State.onTime_dlv (s : State) (f : TimeD → TimeD) : (s.onTime f).dlv = s.dlv := rfl
@[simp] theorem State.onTime_cfg (s : State) (f : TimeD → TimeD) : (s.onTime f).cfg = s.cfg := rfl
@[simp] theorem State.onTime_chains (s : State) (f : TimeD → TimeD) : (s.onTime f).chains = s.chains := rfl
@[simp] theorem State.onTime_gains (s : State) (f : TimeD → TimeD) : (s.onTime f).gains = s.gains := rfl
@[simp] theorem State.onTime_synths (s : State) (f : TimeD → TimeD) : (s.onTime f).synths = s.synths := rfl
@[simp] theorem State.onTime_clk (s : State) (f : TimeD → TimeD) : (s.onTime f).clk = s.clk := rfl
@[simp] theorem State.onTime_rx (s : State) (f : TimeD → TimeD) : (s.onTime f).rx = s.rx := rfl
@[simp] theorem State.onTime_dir (s : State) (f : TimeD → TimeD) : (s.onTime f).dir = s.dir := rfl
@[simp] theorem State.onTime_tx (s : State) (f : TimeD → TimeD) : (s.onTime f).tx = s.tx := rfl
@[simp] theorem State.onTime_bc (s : State) (f : TimeD → TimeD) : (s.onTime f).bc = s.bc := rfl
@[simp] theorem State.onTime_time (s : State) (f : TimeD → TimeD) : (s.onTime f).time = f s.time := rfl
@[simp] theorem State.onTime_str (s : State) (f : TimeD → TimeD) : (s.onTime f).str = s.str := rfl
@[simp] theorem State.onTime_arr (s : State) (f : TimeD → TimeD) : (s.onTime f).arr = s.arr := rfl
@[simp] theorem State.onTime_mem (s : State) (f : TimeD → TimeD) : (s.onTime f).mem = s.mem := rfl
@[simp] theorem State.onTime_trim (s : State) (f : TimeD → TimeD) : (s.onTime f).trim = s.trim := rfl
@[simp] theorem State.onTime_pwr (s : State) (f : TimeD → TimeD) : (s.onTime f).pwr = s.pwr := rfl
@[simp] theorem State.onTime_boot (s : State) (f : TimeD → TimeD) : (s.onTime f).boot = s.boot := rfl
@[simp] theorem State.onTime_pins (s : State) (f : TimeD → TimeD) : (s.onTime f).pins = s.pins := rfl

/-! ### onMem -/

@[simp] theorem State.onMem_pending (s : State) (f : Mems → Mems) : (s.onMem f).pending = s.pending := rfl
@[simp] theorem State.onMem_dtime (s : State) (f : Mems → Mems) : (s.onMem f).dtime = s.dtime := rfl
@[simp] theorem State.onMem_stroke (s : State) (f : Mems → Mems) : (s.onMem f).stroke = s.stroke := rfl
@[simp] theorem State.onMem_fresh (s : State) (f : Mems → Mems) : (s.onMem f).fresh = s.fresh := rfl
@[simp] theorem State.onMem_links (s : State) (f : Mems → Mems) : (s.onMem f).links = s.links := rfl
@[simp] theorem State.onMem_cnt (s : State) (f : Mems → Mems) : (s.onMem f).cnt = s.cnt := rfl
@[simp] theorem State.onMem_dlv (s : State) (f : Mems → Mems) : (s.onMem f).dlv = s.dlv := rfl
@[simp] theorem State.onMem_cfg (s : State) (f : Mems → Mems) : (s.onMem f).cfg = s.cfg := rfl
@[simp] theorem State.onMem_chains (s : State) (f : Mems → Mems) : (s.onMem f).chains = s.chains := rfl
@[simp] theorem State.onMem_gains (s : State) (f : Mems → Mems) : (s.onMem f).gains = s.gains := rfl
@[simp] theorem State.onMem_synths (s : State) (f : Mems → Mems) : (s.onMem f).synths = s.synths := rfl
@[simp] theorem State.onMem_clk (s : State) (f : Mems → Mems) : (s.onMem f).clk = s.clk := rfl
@[simp] theorem State.onMem_rx (s : State) (f : Mems → Mems) : (s.onMem f).rx = s.rx := rfl
@[simp] theorem State.onMem_dir (s : State) (f : Mems → Mems) : (s.onMem f).dir = s.dir := rfl
@[simp] theorem State.onMem_tx (s : State) (f : Mems → Mems) : (s.onMem f).tx = s.tx := rfl
@[simp] theorem State.onMem_bc (s : State) (f : Mems → Mems) : (s.onMem f).bc = s.bc := rfl
@[simp] theorem State.onMem_time (s : State) (f : Mems → Mems) : (s.onMem f).time = s.time := rfl
@[simp] theorem State.onMem_str (s : State) (f : Mems → Mems) : (s.onMem f).str = s.str := rfl
@[simp] theorem State.onMem_arr (s : State) (f : Mems → Mems) : (s.onMem f).arr = s.arr := rfl
@[simp] theorem State.onMem_mem (s : State) (f : Mems → Mems) : (s.onMem f).mem = f s.mem := rfl
@[simp] theorem State.onMem_trim (s : State) (f : Mems → Mems) : (s.onMem f).trim = s.trim := rfl
@[simp] theorem State.onMem_pwr (s : State) (f : Mems → Mems) : (s.onMem f).pwr = s.pwr := rfl
@[simp] theorem State.onMem_boot (s : State) (f : Mems → Mems) : (s.onMem f).boot = s.boot := rfl
@[simp] theorem State.onMem_pins (s : State) (f : Mems → Mems) : (s.onMem f).pins = s.pins := rfl

/-! ### onTrim -/

@[simp] theorem State.onTrim_pending (s : State) (f : Trim → Trim) : (s.onTrim f).pending = s.pending := rfl
@[simp] theorem State.onTrim_dtime (s : State) (f : Trim → Trim) : (s.onTrim f).dtime = s.dtime := rfl
@[simp] theorem State.onTrim_stroke (s : State) (f : Trim → Trim) : (s.onTrim f).stroke = s.stroke := rfl
@[simp] theorem State.onTrim_fresh (s : State) (f : Trim → Trim) : (s.onTrim f).fresh = s.fresh := rfl
@[simp] theorem State.onTrim_links (s : State) (f : Trim → Trim) : (s.onTrim f).links = s.links := rfl
@[simp] theorem State.onTrim_cnt (s : State) (f : Trim → Trim) : (s.onTrim f).cnt = s.cnt := rfl
@[simp] theorem State.onTrim_dlv (s : State) (f : Trim → Trim) : (s.onTrim f).dlv = s.dlv := rfl
@[simp] theorem State.onTrim_cfg (s : State) (f : Trim → Trim) : (s.onTrim f).cfg = s.cfg := rfl
@[simp] theorem State.onTrim_chains (s : State) (f : Trim → Trim) : (s.onTrim f).chains = s.chains := rfl
@[simp] theorem State.onTrim_gains (s : State) (f : Trim → Trim) : (s.onTrim f).gains = s.gains := rfl
@[simp] theorem State.onTrim_synths (s : State) (f : Trim → Trim) : (s.onTrim f).synths = s.synths := rfl
@[simp] theorem State.onTrim_clk (s : State) (f : Trim → Trim) : (s.onTrim f).clk = s.clk := rfl
@[simp] theorem State.onTrim_rx (s : State) (f : Trim → Trim) : (s.onTrim f).rx = s.rx := rfl
@[simp] theorem State.onTrim_dir (s : State) (f : Trim → Trim) : (s.onTrim f).dir = s.dir := rfl
@[simp] theorem State.onTrim_tx (s : State) (f : Trim → Trim) : (s.onTrim f).tx = s.tx := rfl
@[simp] theorem State.onTrim_bc (s : State) (f : Trim → Trim) : (s.onTrim f).bc = s.bc := rfl
@[simp] theorem State.onTrim_time (s : State) (f : Trim → Trim) : (s.onTrim f).time = s.time := rfl
@[simp] theorem State.onTrim_str (s : State) (f : Trim → Trim) : (s.onTrim f).str = s.str := rfl
@[simp] theorem State.onTrim_arr (s : State) (f : Trim → Trim) : (s.onTrim f).arr = s.arr := rfl
@[simp] theorem State.onTrim_mem (s : State) (f : Trim → Trim) : (s.onTrim f).mem = s.mem := rfl
@[simp] theorem State.onTrim_trim (s : State) (f : Trim → Trim) : (s.onTrim f).trim = f s.trim := rfl
@[simp] theorem State.onTrim_pwr (s : State) (f : Trim → Trim) : (s.onTrim f).pwr = s.pwr := rfl
@[simp] theorem State.onTrim_boot (s : State) (f : Trim → Trim) : (s.onTrim f).boot = s.boot := rfl
@[simp] theorem State.onTrim_pins (s : State) (f : Trim → Trim) : (s.onTrim f).pins = s.pins := rfl

/-! ### onPwr -/

@[simp] theorem State.onPwr_pending (s : State) (f : Power → Power) : (s.onPwr f).pending = s.pending := rfl
@[simp] theorem State.onPwr_dtime (s : State) (f : Power → Power) : (s.onPwr f).dtime = s.dtime := rfl
@[simp] theorem State.onPwr_stroke (s : State) (f : Power → Power) : (s.onPwr f).stroke = s.stroke := rfl
@[simp] theorem State.onPwr_fresh (s : State) (f : Power → Power) : (s.onPwr f).fresh = s.fresh := rfl
@[simp] theorem State.onPwr_links (s : State) (f : Power → Power) : (s.onPwr f).links = s.links := rfl
@[simp] theorem State.onPwr_cnt (s : State) (f : Power → Power) : (s.onPwr f).cnt = s.cnt := rfl
@[simp] theorem State.onPwr_dlv (s : State) (f : Power → Power) : (s.onPwr f).dlv = s.dlv := rfl
@[simp] theorem State.onPwr_cfg (s : State) (f : Power → Power) : (s.onPwr f).cfg = s.cfg := rfl
@[simp] theorem State.onPwr_chains (s : State) (f : Power → Power) : (s.onPwr f).chains = s.chains := rfl
@[simp] theorem State.onPwr_gains (s : State) (f : Power → Power) : (s.onPwr f).gains = s.gains := rfl
@[simp] theorem State.onPwr_synths (s : State) (f : Power → Power) : (s.onPwr f).synths = s.synths := rfl
@[simp] theorem State.onPwr_clk (s : State) (f : Power → Power) : (s.onPwr f).clk = s.clk := rfl
@[simp] theorem State.onPwr_rx (s : State) (f : Power → Power) : (s.onPwr f).rx = s.rx := rfl
@[simp] theorem State.onPwr_dir (s : State) (f : Power → Power) : (s.onPwr f).dir = s.dir := rfl
@[simp] theorem State.onPwr_tx (s : State) (f : Power → Power) : (s.onPwr f).tx = s.tx := rfl
@[simp] theorem State.onPwr_bc (s : State) (f : Power → Power) : (s.onPwr f).bc = s.bc := rfl
@[simp] theorem State.onPwr_time (s : State) (f : Power → Power) : (s.onPwr f).time = s.time := rfl
@[simp] theorem State.onPwr_str (s : State) (f : Power → Power) : (s.onPwr f).str = s.str := rfl
@[simp] theorem State.onPwr_arr (s : State) (f : Power → Power) : (s.onPwr f).arr = s.arr := rfl
@[simp] theorem State.onPwr_mem (s : State) (f : Power → Power) : (s.onPwr f).mem = s.mem := rfl
@[simp] theorem State.onPwr_trim (s : State) (f : Power → Power) : (s.onPwr f).trim = s.trim := rfl
@[simp] theorem State.onPwr_pwr (s : State) (f : Power → Power) : (s.onPwr f).pwr = f s.pwr := rfl
@[simp] theorem State.onPwr_boot (s : State) (f : Power → Power) : (s.onPwr f).boot = s.boot := rfl
@[simp] theorem State.onPwr_pins (s : State) (f : Power → Power) : (s.onPwr f).pins = s.pins := rfl

/-! ### onBoot -/

@[simp] theorem State.onBoot_pending (s : State) (f : Boot → Boot) : (s.onBoot f).pending = s.pending := rfl
@[simp] theorem State.onBoot_dtime (s : State) (f : Boot → Boot) : (s.onBoot f).dtime = s.dtime := rfl
@[simp] theorem State.onBoot_stroke (s : State) (f : Boot → Boot) : (s.onBoot f).stroke = s.stroke := rfl
@[simp] theorem State.onBoot_fresh (s : State) (f : Boot → Boot) : (s.onBoot f).fresh = s.fresh := rfl
@[simp] theorem State.onBoot_links (s : State) (f : Boot → Boot) : (s.onBoot f).links = s.links := rfl
@[simp] theorem State.onBoot_cnt (s : State) (f : Boot → Boot) : (s.onBoot f).cnt = s.cnt := rfl
@[simp] theorem State.onBoot_dlv (s : State) (f : Boot → Boot) : (s.onBoot f).dlv = s.dlv := rfl
@[simp] theorem State.onBoot_cfg (s : State) (f : Boot → Boot) : (s.onBoot f).cfg = s.cfg := rfl
@[simp] theorem State.onBoot_chains (s : State) (f : Boot → Boot) : (s.onBoot f).chains = s.chains := rfl
@[simp] theorem State.onBoot_gains (s : State) (f : Boot → Boot) : (s.onBoot f).gains = s.gains := rfl
@[simp] theorem State.onBoot_synths (s : State) (f : Boot → Boot) : (s.onBoot f).synths = s.synths := rfl
@[simp] theorem State.onBoot_clk (s : State) (f : Boot → Boot) : (s.onBoot f).clk = s.clk := rfl
@[simp] theorem State.onBoot_rx (s : State) (f : Boot → Boot) : (s.onBoot f).rx = s.rx := rfl
@[simp] theorem State.onBoot_dir (s : State) (f : Boot → Boot) : (s.onBoot f).dir = s.dir := rfl
@[simp] theorem State.onBoot_tx (s : State) (f : Boot → Boot) : (s.onBoot f).tx = s.tx := rfl
@[simp] theorem State.onBoot_bc (s : State) (f : Boot → Boot) : (s.onBoot f).bc = s.bc := rfl
@[simp] theorem State.onBoot_time (s : State) (f : Boot → Boot) : (s.onBoot f).time = s.time := rfl
@[simp] theorem State.onBoot_str (s : State) (f : Boot → Boot) : (s.onBoot f).str = s.str := rfl
@[simp] theorem State.onBoot_arr (s : State) (f : Boot → Boot) : (s.onBoot f).arr = s.arr := rfl
@[simp] theorem State.onBoot_mem (s : State) (f : Boot → Boot) : (s.onBoot f).mem = s.mem := rfl
@[simp] theorem State.onBoot_trim (s : State) (f : Boot → Boot) : (s.onBoot f).trim = s.trim := rfl
@[simp] theorem State.onBoot_pwr (s : State) (f : Boot → Boot) : (s.onBoot f).pwr = s.pwr := rfl
@[simp] theorem State.onBoot_boot (s : State) (f : Boot → Boot) : (s.onBoot f).boot = f s.boot := rfl
@[simp] theorem State.onBoot_pins (s : State) (f : Boot → Boot) : (s.onBoot f).pins = s.pins := rfl

/-! ### onPins -/

@[simp] theorem State.onPins_pending (s : State) (f : Pins → Pins) : (s.onPins f).pending = s.pending := rfl
@[simp] theorem State.onPins_dtime (s : State) (f : Pins → Pins) : (s.onPins f).dtime = s.dtime := rfl
@[simp] theorem State.onPins_stroke (s : State) (f : Pins → Pins) : (s.onPins f).stroke = s.stroke := rfl
@[simp] theorem State.onPins_fresh (s : State) (f : Pins → Pins) : (s.onPins f).fresh = s.fresh := rfl
@[simp] theorem State.onPins_links (s : State) (f : Pins → Pins) : (s.onPins f).links = s.links := rfl
@[simp] theorem State.onPins_cnt (s : State) (f : Pins → Pins) : (s.onPins f).cnt = s.cnt := rfl
@[simp] theorem State.onPins_dlv (s : State) (f : Pins → Pins) : (s.onPins f).dlv = s.dlv := rfl
@[simp] theorem State.onPins_cfg (s : State) (f : Pins → Pins) : (s.onPins f).cfg = s.cfg := rfl
@[simp] theorem State.onPins_chains (s : State) (f : Pins → Pins) : (s.onPins f).chains = s.chains := rfl
@[simp] theorem State.onPins_gains (s : State) (f : Pins → Pins) : (s.onPins f).gains = s.gains := rfl
@[simp] theorem State.onPins_synths (s : State) (f : Pins → Pins) : (s.onPins f).synths = s.synths := rfl
@[simp] theorem State.onPins_clk (s : State) (f : Pins → Pins) : (s.onPins f).clk = s.clk := rfl
@[simp] theorem State.onPins_rx (s : State) (f : Pins → Pins) : (s.onPins f).rx = s.rx := rfl
@[simp] theorem State.onPins_dir (s : State) (f : Pins → Pins) : (s.onPins f).dir = s.dir := rfl
@[simp] theorem State.onPins_tx (s : State) (f : Pins → Pins) : (s.onPins f).tx = s.tx := rfl
@[simp] theorem State.onPins_bc (s : State) (f : Pins → Pins) : (s.onPins f).bc = s.bc := rfl
@[simp] theorem State.onPins_time (s : State) (f : Pins → Pins) : (s.onPins f).time = s.time := rfl
@[simp] theorem State.onPins_str (s : State) (f : Pins → Pins) : (s.onPins f).str = s.str := rfl
@[simp] theorem State.onPins_arr (s : State) (f : Pins → Pins) : (s.onPins f).arr = s.arr := rfl
@[simp] theorem State.onPins_mem (s : State) (f : Pins → Pins) : (s.onPins f).mem = s.mem := rfl
@[simp] theorem State.onPins_trim (s : State) (f : Pins → Pins) : (s.onPins f).trim = s.trim := rfl
@[simp] theorem State.onPins_pwr (s : State) (f : Pins → Pins) : (s.onPins f).pwr = s.pwr := rfl
@[simp] theorem State.onPins_boot (s : State) (f : Pins → Pins) : (s.onPins f).boot = s.boot := rfl
@[simp] theorem State.onPins_pins (s : State) (f : Pins → Pins) : (s.onPins f).pins = f s.pins := rfl

/-! ### onClk -/

@[simp] theorem State.onClk_pending (s : State) (f : Clocks → Clocks) : (s.onClk f).pending = s.pending := rfl
@[simp] theorem State.onClk_dtime (s : State) (f : Clocks → Clocks) : (s.onClk f).dtime = s.dtime := rfl
@[simp] theorem State.onClk_stroke (s : State) (f : Clocks → Clocks) : (s.onClk f).stroke = s.stroke := rfl
@[simp] theorem State.onClk_fresh (s : State) (f : Clocks → Clocks) : (s.onClk f).fresh = s.fresh := rfl
@[simp] theorem State.onClk_links (s : State) (f : Clocks → Clocks) : (s.onClk f).links = s.links := rfl
@[simp] theorem State.onClk_cnt (s : State) (f : Clocks → Clocks) : (s.onClk f).cnt = s.cnt := rfl
@[simp] theorem State.onClk_dlv (s : State) (f : Clocks → Clocks) : (s.onClk f).dlv = s.dlv := rfl
@[simp] theorem State.onClk_cfg (s : State) (f : Clocks → Clocks) : (s.onClk f).cfg = s.cfg := rfl
@[simp] theorem State.onClk_chains (s : State) (f : Clocks → Clocks) : (s.onClk f).chains = s.chains := rfl
@[simp] theorem State.onClk_gains (s : State) (f : Clocks → Clocks) : (s.onClk f).gains = s.gains := rfl
@[simp] theorem State.onClk_synths (s : State) (f : Clocks → Clocks) : (s.onClk f).synths = s.synths := rfl
@[simp] theorem State.onClk_clk (s : State) (f : Clocks → Clocks) : (s.onClk f).clk = f s.clk := rfl
@[simp] theorem State.onClk_rx (s : State) (f : Clocks → Clocks) : (s.onClk f).rx = s.rx := rfl
@[simp] theorem State.onClk_dir (s : State) (f : Clocks → Clocks) : (s.onClk f).dir = s.dir := rfl
@[simp] theorem State.onClk_tx (s : State) (f : Clocks → Clocks) : (s.onClk f).tx = s.tx := rfl
@[simp] theorem State.onClk_bc (s : State) (f : Clocks → Clocks) : (s.onClk f).bc = s.bc := rfl
@[simp] theorem State.onClk_time (s : State) (f : Clocks → Clocks) : (s.onClk f).time = s.time := rfl
@[simp] theorem State.onClk_str (s : State) (f : Clocks → Clocks) : (s.onClk f).str = s.str := rfl
@[simp] theorem State.onClk_arr (s : State) (f : Clocks → Clocks) : (s.onClk f).arr = s.arr := rfl
@[simp] theorem State.onClk_mem (s : State) (f : Clocks → Clocks) : (s.onClk f).mem = s.mem := rfl
@[simp] theorem State.onClk_trim (s : State) (f : Clocks → Clocks) : (s.onClk f).trim = s.trim := rfl
@[simp] theorem State.onClk_pwr (s : State) (f : Clocks → Clocks) : (s.onClk f).pwr = s.pwr := rfl
@[simp] theorem State.onClk_boot (s : State) (f : Clocks → Clocks) : (s.onClk f).boot = s.boot := rfl
@[simp] theorem State.onClk_pins (s : State) (f : Clocks → Clocks) : (s.onClk f).pins = s.pins := rfl

/-! ### setChain -/

@[simp] theorem State.setChain_pending (s : State) (i : Nat) (x : Chain) : (s.setChain i x).pending = s.pending := rfl
@[simp] theorem State.setChain_dtime (s : State) (i : Nat) (x : Chain) : (s.setChain i x).dtime = s.dtime := rfl
@[simp] theorem State.setChain_stroke (s : State) (i : Nat) (x : Chain) : (s.setChain i x).stroke = s.stroke := rfl
@[simp] theorem State.setChain_fresh (s : State) (i : Nat) (x : Chain) : (s.setChain i x).fresh = s.fresh := rfl
@[simp] theorem State.setChain_links (s : State) (i : Nat) (x : Chain) : (s.setChain i x).links = s.links := rfl
@[simp] theorem State.setChain_cnt (s : State) (i : Nat) (x : Chain) : (s.setChain i x).cnt = s.cnt := rfl
@[simp] theorem State.setChain_dlv (s : State) (i : Nat) (x : Chain) : (s.setChain i x).dlv = s.dlv := rfl
@[simp] theorem State.setChain_cfg (s : State) (i : Nat) (x : Chain) : (s.setChain i x).cfg = s.cfg := rfl
@[simp] theorem State.setChain_gains (s : State) (i : Nat) (x : Chain) : (s.setChain i x).gains = s.gains := rfl
@[simp] theorem State.setChain_synths (s : State) (i : Nat) (x : Chain) : (s.setChain i x).synths = s.synths := rfl
@[simp] theorem State.setChain_clk (s : State) (i : Nat) (x : Chain) : (s.setChain i x).clk = s.clk := rfl
@[simp] theorem State.setChain_rx (s : State) (i : Nat) (x : Chain) : (s.setChain i x).rx = s.rx := rfl
@[simp] theorem State.setChain_dir (s : State) (i : Nat) (x : Chain) : (s.setChain i x).dir = s.dir := rfl
@[simp] theorem State.setChain_tx (s : State) (i : Nat) (x : Chain) : (s.setChain i x).tx = s.tx := rfl
@[simp] theorem State.setChain_bc (s : State) (i : Nat) (x : Chain) : (s.setChain i x).bc = s.bc := rfl
@[simp] theorem State.setChain_time (s : State) (i : Nat) (x : Chain) : (s.setChain i x).time = s.time := rfl
@[simp] theorem State.setChain_str (s : State) (i : Nat) (x : Chain) : (s.setChain i x).str = s.str := rfl
@[simp] theorem State.setChain_arr (s : State) (i : Nat) (x : Chain) : (s.setChain i x).arr = s.arr := rfl
@[simp] theorem State.setChain_mem (s : State) (i : Nat) (x : Chain) : (s.setChain i x).mem = s.mem := rfl
@[simp] theorem State.setChain_trim (s : State) (i : Nat) (x : Chain) : (s.setChain i x).trim = s.trim := rfl
@[simp] theorem State.setChain_pwr (s : State) (i : Nat) (x : Chain) : (s.setChain i x).pwr = s.pwr := rfl
@[simp] theorem State.setChain_boot (s : State) (i : Nat) (x : Chain) : (s.setChain i x).boot = s.boot := rfl
@[simp] theorem State.setChain_pins (s : State) (i : Nat) (x : Chain) : (s.setChain i x).pins = s.pins := rfl
@[simp] theorem State.chain_setChain (s : State) (i : Nat) (x : Chain) : (s.setChain i x).chain i = x := getT_putT _ _ _ _
theorem State.chain_setChain_ne (s : State) (i j : Nat) (x : Chain) (h : j ≠ i) : (s.setChain i x).chain j = s.chain j := getT_putT_ne _ _ _ _ _ h
@[simp] theorem State.setChain_setChain (s : State) (i : Nat) (x y : Chain) : (s.setChain i x).setChain i y = s.setChain i y := by
  simp [State.setChain]

/-! ### setGain -/

@[simp] theorem State.setGain_pending (s : State) (i : Nat) (x : Gain) : (s.setGain i x).pending = s.pending := rfl
@[simp] theorem State.setGain_dtime (s : State) (i : Nat) (x : Gain) : (s.setGain i x).dtime = s.dtime := rfl
@[simp] theorem State.setGain_stroke (s : State) (i : Nat) (x : Gain) : (s.setGain i x).stroke = s.stroke := rfl
@[simp] theorem State.setGain_fresh (s : State) (i : Nat) (x : Gain) : (s.setGain i x).fresh = s.fresh := rfl
@[simp] theorem State.setGain_links (s : State) (i : Nat) (x : Gain) : (s.setGain i x).links = s.links := rfl
@[simp] theorem State.setGain_cnt (s : State) (i : Nat) (x : Gain) : (s.setGain i x).cnt = s.cnt := rfl
@[simp] theorem State.setGain_dlv (s : State) (i : Nat) (x : Gain) : (s.setGain i x).dlv = s.dlv := rfl
@[simp] theorem State.setGain_cfg (s : State) (i : Nat) (x : Gain) : (s.setGain i x).cfg = s.cfg := rfl
@[simp] theorem State.setGain_chains (s : State) (i : Nat) (x : Gain) : (s.setGain i x).chains = s.chains := rfl
@[simp] theorem State.setGain_synths (s : State) (i : Nat) (x : Gain) : (s.setGain i x).synths = s.synths := rfl
@[simp] theorem State.setGain_clk (s : State) (i : Nat) (x : Gain) : (s.setGain i x).clk = s.clk := rfl
@[simp] theorem State.setGain_rx (s : State) (i : Nat) (x : Gain) : (s.setGain i x).rx = s.rx := rfl
@[simp] theorem State.setGain_dir (s : State) (i : Nat) (x : Gain) : (s.setGain i x).dir = s.dir := rfl
@[simp] theorem State.setGain_tx (s : State) (i : Nat) (x : Gain) : (s.setGain i x).tx = s.tx := rfl
@[simp] theorem State.setGain_bc (s : State) (i : Nat) (x : Gain) : (s.setGain i x).bc = s.bc := rfl
@[simp] theorem State.setGain_time (s : State) (i : Nat) (x : Gain) : (s.setGain i x).time = s.time := rfl
@[simp] theorem State.setGain_str (s : State) (i : Nat) (x : Gain) : (s.setGain i x).str = s.str := rfl
@[simp] theorem State.setGain_arr (s : State) (i : Nat) (x : Gain) : (s.setGain i x).arr = s.arr := rfl
@[simp] theorem State.setGain_mem (s : State) (i : Nat) (x : Gain) : (s.setGain i x).mem = s.mem := rfl
@[simp] theorem State.setGain_trim (s : State) (i : Nat) (x : Gain) : (s.setGain i x).trim = s.trim := rfl
@[simp] theorem State.setGain_pwr (s : State) (i : Nat) (x : Gain) : (s.setGain i x).pwr = s.pwr := rfl
@[simp] theorem State.setGain_boot (s : State) (i : Nat) (x : Gain) : (s.setGain i x).boot = s.boot := rfl
@[simp] theorem State.setGain_pins (s : State) (i : Nat) (x : Gain) : (s.setGain i x).pins = s.pins := rfl
@[simp] theorem State.gain_setGain (s : State) (i : Nat) (x : Gain) : (s.setGain i x).gain i = x := getT_putT _ _ _ _
theorem State.gain_setGain_ne (s : State) (i j : Nat) (x : Gain) (h : j ≠ i) : (s.setGain i x).gain j = s.gain j := getT_putT_ne _ _ _ _ _ h
@[simp] theorem State.setGain_setGain (s : State) (i : Nat) (x y : Gain) : (s.setGain i x).setGain i y = s.setGain i y := by
  simp [State.setGain]

/-! ### setSynth -/

@[simp] theorem State.setSynth_pending (s : State) (i : Nat) (x : Synth) : (s.setSynth i x).pending = s.pending := rfl
@[simp] theorem State.setSynth_dtime (s : State) (i : Nat) (x : Synth) : (s.setSynth i x).dtime = s.dtime := rfl
@[simp] theorem State.setSynth_stroke (s : State) (i : Nat) (x : Synth) : (s.setSynth i x).stroke = s.stroke := rfl
@[simp] theorem State.setSynth_fresh (s : State) (i : Nat) (x : Synth) : (s.setSynth i x).fresh = s.fresh := rfl
@[simp] theorem State.setSynth_links (s : State) (i : Nat) (x : Synth) : (s.setSynth i x).links = s.links := rfl
@[simp] theorem State.setSynth_cnt (s : State) (i : Nat) (x : Synth) : (s.setSynth i x).cnt = s.cnt := rfl
@[simp] theorem State.setSynth_dlv (s : State) (i : Nat) (x : Synth) : (s.setSynth i x).dlv = s.dlv := rfl
@[simp] theorem State.setSynth_cfg (s : State) (i : Nat) (x : Synth) : (s.setSynth i x).cfg = s.cfg := rfl
@[simp] theorem State.setSynth_chains (s : State) (i : Nat) (x : Synth) : (s.setSynth i x).chains = s.chains := rfl
@[simp] theorem State.setSynth_gains (s : State) (i : Nat) (x : Synth) : (s.setSynth i x).gains = s.gains := rfl
@[simp] theorem State.setSynth_clk (s : State) (i : Nat) (x : Synth) : (s.setSynth i x).clk = s.clk := rfl
@[simp] theorem State.setSynth_rx (s : State) (i : Nat) (x : Synth) : (s.setSynth i x).rx = s.rx := rfl
@[simp] theorem State.setSynth_dir (s : State) (i : Nat) (x : Synth) : (s.setSynth i x).dir = s.dir := rfl
@[simp] theorem State.setSynth_tx (s : State) (i : Nat) (x : Synth) : (s.setSynth i x).tx = s.tx := rfl
@[simp] theorem State.setSynth_bc (s : State) (i : Nat) (x : Synth) : (s.setSynth i x).bc = s.bc := rfl
@[simp] theorem State.setSynth_time (s : State) (i : Nat) (x : Synth) : (s.setSynth i x).time = s.time := rfl
@[simp] theorem State.setSynth_str (s : State) (i : Nat) (x : Synth) : (s.setSynth i x).str = s.str := rfl
@[simp] theorem State.setSynth_arr (s : State) (i : Nat) (x : Synth) : (s.setSynth i x).arr = s.arr := rfl
@[simp] theorem State.setSynth_mem (s : State) (i : Nat) (x : Synth) : (s.setSynth i x).mem = s.mem := rfl
@[simp] theorem State.setSynth_trim (s : State) (i : Nat) (x : Synth) : (s.setSynth i x).trim = s.trim := rfl
@[simp] theorem State.setSynth_pwr (s : State) (i : Nat) (x : Synth) : (s.setSynth i x).pwr = s.pwr := rfl
@[simp] theorem State.setSynth_boot (s : State) (i : Nat) (x : Synth) : (s.setSynth i x).boot = s.boot := rfl
@[simp] theorem State.setSynth_pins (s : State) (i : Nat) (x : Synth) : (s.setSynth i x).pins = s.pins := rfl
@[simp] theorem State.synth_setSynth (s : State) (i : Nat) (x : Synth) : (s.setSynth i x).synth i = x := getT_putT _ _ _ _
theorem State.synth_setSynth_ne (s : State) (i j : Nat) (x : Synth) (h : j ≠ i) : (s.setSynth i x).synth j = s.synth j := getT_putT_ne _ _ _ _ _ h
@[simp] theorem State.setSynth_setSynth (s : State) (i : Nat) (x y : Synth) : (s.setSynth i x).setSynth i y = s.setSynth i y := by
  simp [State.setSynth]

/-! ### setLane -/

@[simp] theorem State.setLane_pending (s : State) (i : Nat) (x : Lane) : (s.setLane i x).pending = s.pending := rfl
@[simp] theorem State.setLane_dtime (s : State) (i : Nat) (x : Lane) : (s.setLane i x).dtime = s.dtime := rfl
@[simp] theorem State.setLane_stroke (s : State) (i : Nat) (x : Lane) : (s.setLane i x).stroke = s.stroke := rfl
@[simp] theorem State.setLane_fresh (s : State) (i : Nat) (x : Lane) : (s.setLane i x).fresh = s.fresh := rfl
@[simp] theorem State.setLane_links (s : State) (i : Nat) (x : Lane) : (s.setLane i x).links = s.links := rfl
@[simp] theorem State.setLane_cnt (s : State) (i : Nat) (x : Lane) : (s.setLane i x).cnt = s.cnt := rfl
@[simp] theorem State.setLane_dlv (s : State) (i : Nat) (x : Lane) : (s.setLane i x).dlv = s.dlv := rfl
@[simp] theorem State.setLane_cfg (s : State) (i : Nat) (x : Lane) : (s.setLane i x).cfg = s.cfg := rfl
@[simp] theorem State.setLane_chains (s : State) (i : Nat) (x : Lane) : (s.setLane i x).chains = s.chains := rfl
@[simp] theorem State.setLane_gains (s : State) (i : Nat) (x : Lane) : (s.setLane i x).gains = s.gains := rfl
@[simp] theorem State.setLane_synths (s : State) (i : Nat) (x : Lane) : (s.setLane i x).synths = s.synths := rfl
@[simp] theorem State.setLane_clk (s : State) (i : Nat) (x : Lane) : (s.setLane i x).clk = s.clk := rfl
@[simp] theorem State.setLane_dir (s : State) (i : Nat) (x : Lane) : (s.setLane i x).dir = s.dir := rfl
@[simp] theorem State.setLane_tx (s : State) (i : Nat) (x : Lane) : (s.setLane i x).tx = s.tx := rfl
@[simp] theorem State.setLane_bc (s : State) (i : Nat) (x : Lane) : (s.setLane i x).bc = s.bc := rfl
@[simp] theorem State.setLane_time (s : State) (i : Nat) (x : Lane) : (s.setLane i x).time = s.time := rfl
@[simp] theorem State.setLane_str (s : State) (i : Nat) (x : Lane) : (s.setLane i x).str = s.str := rfl
@[simp] theorem State.setLane_arr (s : State) (i : Nat) (x : Lane) : (s.setLane i x).arr = s.arr := rfl
@[simp] theorem State.setLane_mem (s : State) (i : Nat) (x : Lane) : (s.setLane i x).mem = s.mem := rfl
@[simp] theorem State.setLane_trim (s : State) (i : Nat) (x : Lane) : (s.setLane i x).trim = s.trim := rfl
@[simp] theorem State.setLane_pwr (s : State) (i : Nat) (x : Lane) : (s.setLane i x).pwr = s.pwr := rfl
@[simp] theorem State.setLane_boot (s : State) (i : Nat) (x : Lane) : (s.setLane i x).boot = s.boot := rfl
@[simp] theorem State.setLane_pins (s : State) (i : Nat) (x : Lane) : (s.setLane i x).pins = s.pins := rfl
@[simp] theorem State.lane_setLane (s : State) (i : Nat) (x : Lane) : (s.setLane i x).lane i = x := getT_putT _ _ _ _
theorem State.lane_setLane_ne (s : State) (i j : Nat) (x : Lane) (h : j ≠ i) : (s.setLane i x).lane j = s.lane j := getT_putT_ne _ _ _ _ _ h
@[simp] theorem State.setLane_setLane (s : State) (i : Nat) (x y : Lane) : (s.setLane i x).setLane i y = s.setLane i y := by
  simp [State.setLane]

/-! ### setCtx -/

@[simp] theorem State.setCtx_pending (s : State) (i : Nat) (x : Ctx) : (s.setCtx i x).pending = s.pending := rfl
@[simp] theorem State.setCtx_dtime (s : State) (i : Nat) (x : Ctx) : (s.setCtx i x).dtime = s.dtime := rfl
@[simp] theorem State.setCtx_stroke (s : State) (i : Nat) (x : Ctx) : (s.setCtx i x).stroke = s.stroke := rfl
@[simp] theorem State.setCtx_fresh (s : State) (i : Nat) (x : Ctx) : (s.setCtx i x).fresh = s.fresh := rfl
@[simp] theorem State.setCtx_links (s : State) (i : Nat) (x : Ctx) : (s.setCtx i x).links = s.links := rfl
@[simp] theorem State.setCtx_cnt (s : State) (i : Nat) (x : Ctx) : (s.setCtx i x).cnt = s.cnt := rfl
@[simp] theorem State.setCtx_dlv (s : State) (i : Nat) (x : Ctx) : (s.setCtx i x).dlv = s.dlv := rfl
@[simp] theorem State.setCtx_cfg (s : State) (i : Nat) (x : Ctx) : (s.setCtx i x).cfg = s.cfg := rfl
@[simp] theorem State.setCtx_chains (s : State) (i : Nat) (x : Ctx) : (s.setCtx i x).chains = s.chains := rfl
@[simp] theorem State.setCtx_gains (s : State) (i : Nat) (x : Ctx) : (s.setCtx i x).gains = s.gains := rfl
@[simp] theorem State.setCtx_synths (s : State) (i : Nat) (x : Ctx) : (s.setCtx i x).synths = s.synths := rfl
@[simp] theorem State.setCtx_clk (s : State) (i : Nat) (x : Ctx) : (s.setCtx i x).clk = s.clk := rfl
@[simp] theorem State.setCtx_dir (s : State) (i : Nat) (x : Ctx) : (s.setCtx i x).dir = s.dir := rfl
@[simp] theorem State.setCtx_tx (s : State) (i : Nat) (x : Ctx) : (s.setCtx i x).tx = s.tx := rfl
@[simp] theorem State.setCtx_bc (s : State) (i : Nat) (x : Ctx) : (s.setCtx i x).bc = s.bc := rfl
@[simp] theorem State.setCtx_time (s : State) (i : Nat) (x : Ctx) : (s.setCtx i x).time = s.time := rfl
@[simp] theorem State.setCtx_str (s : State) (i : Nat) (x : Ctx) : (s.setCtx i x).str = s.str := rfl
@[simp] theorem State.setCtx_arr (s : State) (i : Nat) (x : Ctx) : (s.setCtx i x).arr = s.arr := rfl
@[simp] theorem State.setCtx_mem (s : State) (i : Nat) (x : Ctx) : (s.setCtx i x).mem = s.mem := rfl
@[simp] theorem State.setCtx_trim (s : State) (i : Nat) (x : Ctx) : (s.setCtx i x).trim = s.trim := rfl
@[simp] theorem State.setCtx_pwr (s : State) (i : Nat) (x : Ctx) : (s.setCtx i x).pwr = s.pwr := rfl
@[simp] theorem State.setCtx_boot (s : State) (i : Nat) (x : Ctx) : (s.setCtx i x).boot = s.boot := rfl
@[simp] theorem State.setCtx_pins (s : State) (i : Nat) (x : Ctx) : (s.setCtx i x).pins = s.pins := rfl
@[simp] theorem State.ctx_setCtx (s : State) (i : Nat) (x : Ctx) : (s.setCtx i x).ctx i = x := getT_putT _ _ _ _
theorem State.ctx_setCtx_ne (s : State) (i j : Nat) (x : Ctx) (h : j ≠ i) : (s.setCtx i x).ctx j = s.ctx j := getT_putT_ne _ _ _ _ _ h
@[simp] theorem State.setCtx_setCtx (s : State) (i : Nat) (x y : Ctx) : (s.setCtx i x).setCtx i y = s.setCtx i y := by
  simp [State.setCtx]

/-! ### setGroup -/

@[simp] theorem State.setGroup_pending (s : State) (i : Nat) (x : Group) : (s.setGroup i x).pending = s.pending := rfl
@[simp] theorem State.setGroup_dtime (s : State) (i : Nat) (x : Group) : (s.setGroup i x).dtime = s.dtime := rfl
@[simp] theorem State.setGroup_stroke (s : State) (i : Nat) (x : Group) : (s.setGroup i x).stroke = s.stroke := rfl
@[simp] theorem State.setGroup_fresh (s : State) (i : Nat) (x : Group) : (s.setGroup i x).fresh = s.fresh := rfl
@[simp] theorem State.setGroup_links (s : State) (i : Nat) (x : Group) : (s.setGroup i x).links = s.links := rfl
@[simp] theorem State.setGroup_cnt (s : State) (i : Nat) (x : Group) : (s.setGroup i x).cnt = s.cnt := rfl
@[simp] theorem State.setGroup_dlv (s : State) (i : Nat) (x : Group) : (s.setGroup i x).dlv = s.dlv := rfl
@[simp] theorem State.setGroup_cfg (s : State) (i : Nat) (x : Group) : (s.setGroup i x).cfg = s.cfg := rfl
@[simp] theorem State.setGroup_chains (s : State) (i : Nat) (x : Group) : (s.setGroup i x).chains = s.chains := rfl
@[simp] theorem State.setGroup_gains (s : State) (i : Nat) (x : Group) : (s.setGroup i x).gains = s.gains := rfl
@[simp] theorem State.setGroup_synths (s : State) (i : Nat) (x : Group) : (s.setGroup i x).synths = s.synths := rfl
@[simp] theorem State.setGroup_clk (s : State) (i : Nat) (x : Group) : (s.setGroup i x).clk = s.clk := rfl
@[simp] theorem State.setGroup_rx (s : State) (i : Nat) (x : Group) : (s.setGroup i x).rx = s.rx := rfl
@[simp] theorem State.setGroup_dir (s : State) (i : Nat) (x : Group) : (s.setGroup i x).dir = s.dir := rfl
@[simp] theorem State.setGroup_tx (s : State) (i : Nat) (x : Group) : (s.setGroup i x).tx = s.tx := rfl
@[simp] theorem State.setGroup_bc (s : State) (i : Nat) (x : Group) : (s.setGroup i x).bc = s.bc := rfl
@[simp] theorem State.setGroup_time (s : State) (i : Nat) (x : Group) : (s.setGroup i x).time = s.time := rfl
@[simp] theorem State.setGroup_arr (s : State) (i : Nat) (x : Group) : (s.setGroup i x).arr = s.arr := rfl
@[simp] theorem State.setGroup_mem (s : State) (i : Nat) (x : Group) : (s.setGroup i x).mem = s.mem := rfl
@[simp] theorem State.setGroup_trim (s : State) (i : Nat) (x : Group) : (s.setGroup i x).trim = s.trim := rfl
@[simp] theorem State.setGroup_pwr (s : State) (i : Nat) (x : Group) : (s.setGroup i x).pwr = s.pwr := rfl
@[simp] theorem State.setGroup_boot (s : State) (i : Nat) (x : Group) : (s.setGroup i x).boot = s.boot := rfl
@[simp] theorem State.setGroup_pins (s : State) (i : Nat) (x : Group) : (s.setGroup i x).pins = s.pins := rfl
@[simp] theorem State.group_setGroup (s : State) (i : Nat) (x : Group) : (s.setGroup i x).group i = x := getT_putT _ _ _ _
theorem State.group_setGroup_ne (s : State) (i j : Nat) (x : Group) (h : j ≠ i) : (s.setGroup i x).group j = s.group j := getT_putT_ne _ _ _ _ _ h
@[simp] theorem State.setGroup_setGroup (s : State) (i : Nat) (x y : Group) : (s.setGroup i x).setGroup i y = s.setGroup i y := by
  simp [State.setGroup]

/-! ### setCircuit -/

@[simp] theorem State.setCircuit_pending (s : State) (i : Nat) (x : Circuit) : (s.setCircuit i x).pending = s.pending := rfl
@[simp] theorem State.setCircuit_dtime (s : State) (i : Nat) (x : Circuit) : (s.setCircuit i x).dtime = s.dtime := rfl
@[simp] theorem State.setCircuit_stroke (s : State) (i : Nat) (x : Circuit) : (s.setCircuit i x).stroke = s.stroke := rfl
@[simp] theorem State.setCircuit_fresh (s : State) (i : Nat) (x : Circuit) : (s.setCircuit i x).fresh = s.fresh := rfl
@[simp] theorem State.setCircuit_links (s : State) (i : Nat) (x : Circuit) : (s.setCircuit i x).links = s.links := rfl
@[simp] theorem State.setCircuit_cnt (s : State) (i : Nat) (x : Circuit) : (s.setCircuit i x).cnt = s.cnt := rfl
@[simp] theorem State.setCircuit_dlv (s : State) (i : Nat) (x : Circuit) : (s.setCircuit i x).dlv = s.dlv := rfl
@[simp] theorem State.setCircuit_cfg (s : State) (i : Nat) (x : Circuit) : (s.setCircuit i x).cfg = s.cfg := rfl
@[simp] theorem State.setCircuit_chains (s : State) (i : Nat) (x : Circuit) : (s.setCircuit i x).chains = s.chains := rfl
@[simp] theorem State.setCircuit_gains (s : State) (i : Nat) (x : Circuit) : (s.setCircuit i x).gains = s.gains := rfl
@[simp] theorem State.setCircuit_synths (s : State) (i : Nat) (x : Circuit) : (s.setCircuit i x).synths = s.synths := rfl
@[simp] theorem State.setCircuit_clk (s : State) (i : Nat) (x : Circuit) : (s.setCircuit i x).clk = s.clk := rfl
@[simp] theorem State.setCircuit_rx (s : State) (i : Nat) (x : Circuit) : (s.setCircuit i x).rx = s.rx := rfl
@[simp] theorem State.setCircuit_dir (s : State) (i : Nat) (x : Circuit) : (s.setCircuit i x).dir = s.dir := rfl
@[simp] theorem State.setCircuit_tx (s : State) (i : Nat) (x : Circuit) : (s.setCircuit i x).tx = s.tx := rfl
@[simp] theorem State.setCircuit_bc (s : State) (i : Nat) (x : Circuit) : (s.setCircuit i x).bc = s.bc := rfl
@[simp] theorem State.setCircuit_time (s : State) (i : Nat) (x : Circuit) : (s.setCircuit i x).time = s.time := rfl
@[simp] theorem State.setCircuit_arr (s : State) (i : Nat) (x : Circuit) : (s.setCircuit i x).arr = s.arr := rfl
@[simp] theorem State.setCircuit_mem (s : State) (i : Nat) (x : Circuit) : (s.setCircuit i x).mem = s.mem := rfl
@[simp] theorem State.setCircuit_trim (s : State) (i : Nat) (x : Circuit) : (s.setCircuit i x).trim = s.trim := rfl
@[simp] theorem State.setCircuit_pwr (s : State) (i : Nat) (x : Circuit) : (s.setCircuit i x).pwr = s.pwr := rfl
@[simp] theorem State.setCircuit_boot (s : State) (i : Nat) (x : Circuit) : (s.setCircuit i x).boot = s.boot := rfl
@[simp] theorem State.setCircuit_pins (s : State) (i : Nat) (x : Circuit) : (s.setCircuit i x).pins = s.pins := rfl
@[simp] theorem State.circuit_setCircuit (s : State) (i : Nat) (x : Circuit) : (s.setCircuit i x).circuit i = x := getT_putT _ _ _ _
theorem State.circuit_setCircuit_ne (s : State) (i j : Nat) (x : Circuit) (h : j ≠ i) : (s.setCircuit i x).circuit j = s.circuit j := getT_putT_ne _ _ _ _ _ h
@[simp] theorem State.setCircuit_setCircuit (s : State) (i : Nat) (x y : Circuit) : (s.setCircuit i x).setCircuit i y = s.setCircuit i y := by
  simp [State.setCircuit]

/-! ### setScull -/

@[simp] theorem State.setScull_pending (s : State) (i : Nat) (x : Scull) : (s.setScull i x).pending = s.pending := rfl
@[simp] theorem State.setScull_dtime (s : State) (i : Nat) (x : Scull) : (s.setScull i x).dtime = s.dtime := rfl
@[simp] theorem State.setScull_stroke (s : State) (i : Nat) (x : Scull) : (s.setScull i x).stroke = s.stroke := rfl
@[simp] theorem State.setScull_fresh (s : State) (i : Nat) (x : Scull) : (s.setScull i x).fresh = s.fresh := rfl
@[simp] theorem State.setScull_links (s : State) (i : Nat) (x : Scull) : (s.setScull i x).links = s.links := rfl
@[simp] theorem State.setScull_cnt (s : State) (i : Nat) (x : Scull) : (s.setScull i x).cnt = s.cnt := rfl
@[simp] theorem State.setScull_dlv (s : State) (i : Nat) (x : Scull) : (s.setScull i x).dlv = s.dlv := rfl
@[simp] theorem State.setScull_cfg (s : State) (i : Nat) (x : Scull) : (s.setScull i x).cfg = s.cfg := rfl
@[simp] theorem State.setScull_chains (s : State) (i : Nat) (x : Scull) : (s.setScull i x).chains = s.chains := rfl
@[simp] theorem State.setScull_gains (s : State) (i : Nat) (x : Scull) : (s.setScull i x).gains = s.gains := rfl
@[simp] theorem State.setScull_synths (s : State) (i : Nat) (x : Scull) : (s.setScull i x).synths = s.synths := rfl
@[simp] theorem State.setScull_clk (s : State) (i : Nat) (x : Scull) : (s.setScull i x).clk = s.clk := rfl
@[simp] theorem State.setScull_rx (s : State) (i : Nat) (x : Scull) : (s.setScull i x).rx = s.rx := rfl
@[simp] theorem State.setScull_dir (s : State) (i : Nat) (x : Scull) : (s.setScull i x).dir = s.dir := rfl
@[simp] theorem State.setScull_tx (s : State) (i : Nat) (x : Scull) : (s.setScull i x).tx = s.tx := rfl
@[simp] theorem State.setScull_bc (s : State) (i : Nat) (x : Scull) : (s.setScull i x).bc = s.bc := rfl
@[simp] theorem State.setScull_time (s : State) (i : Nat) (x : Scull) : (s.setScull i x).time = s.time := rfl
@[simp] theorem State.setScull_str (s : State) (i : Nat) (x : Scull) : (s.setScull i x).str = s.str := rfl
@[simp] theorem State.setScull_mem (s : State) (i : Nat) (x : Scull) : (s.setScull i x).mem = s.mem := rfl
@[simp] theorem State.setScull_trim (s : State) (i : Nat) (x : Scull) : (s.setScull i x).trim = s.trim := rfl
@[simp] theorem State.setScull_pwr (s : State) (i : Nat) (x : Scull) : (s.setScull i x).pwr = s.pwr := rfl
@[simp] theorem State.setScull_boot (s : State) (i : Nat) (x : Scull) : (s.setScull i x).boot = s.boot := rfl
@[simp] theorem State.setScull_pins (s : State) (i : Nat) (x : Scull) : (s.setScull i x).pins = s.pins := rfl
@[simp] theorem State.scull_setScull (s : State) (i : Nat) (x : Scull) : (s.setScull i x).scull i = x := getT_putT _ _ _ _
theorem State.scull_setScull_ne (s : State) (i j : Nat) (x : Scull) (h : j ≠ i) : (s.setScull i x).scull j = s.scull j := getT_putT_ne _ _ _ _ _ h
@[simp] theorem State.setScull_setScull (s : State) (i : Nat) (x y : Scull) : (s.setScull i x).setScull i y = s.setScull i y := by
  simp [State.setScull]

/-! ### setCrew -/

@[simp] theorem State.setCrew_pending (s : State) (i : Nat) (x : Crew) : (s.setCrew i x).pending = s.pending := rfl
@[simp] theorem State.setCrew_dtime (s : State) (i : Nat) (x : Crew) : (s.setCrew i x).dtime = s.dtime := rfl
@[simp] theorem State.setCrew_stroke (s : State) (i : Nat) (x : Crew) : (s.setCrew i x).stroke = s.stroke := rfl
@[simp] theorem State.setCrew_fresh (s : State) (i : Nat) (x : Crew) : (s.setCrew i x).fresh = s.fresh := rfl
@[simp] theorem State.setCrew_links (s : State) (i : Nat) (x : Crew) : (s.setCrew i x).links = s.links := rfl
@[simp] theorem State.setCrew_cnt (s : State) (i : Nat) (x : Crew) : (s.setCrew i x).cnt = s.cnt := rfl
@[simp] theorem State.setCrew_dlv (s : State) (i : Nat) (x : Crew) : (s.setCrew i x).dlv = s.dlv := rfl
@[simp] theorem State.setCrew_cfg (s : State) (i : Nat) (x : Crew) : (s.setCrew i x).cfg = s.cfg := rfl
@[simp] theorem State.setCrew_chains (s : State) (i : Nat) (x : Crew) : (s.setCrew i x).chains = s.chains := rfl
@[simp] theorem State.setCrew_gains (s : State) (i : Nat) (x : Crew) : (s.setCrew i x).gains = s.gains := rfl
@[simp] theorem State.setCrew_synths (s : State) (i : Nat) (x : Crew) : (s.setCrew i x).synths = s.synths := rfl
@[simp] theorem State.setCrew_clk (s : State) (i : Nat) (x : Crew) : (s.setCrew i x).clk = s.clk := rfl
@[simp] theorem State.setCrew_rx (s : State) (i : Nat) (x : Crew) : (s.setCrew i x).rx = s.rx := rfl
@[simp] theorem State.setCrew_dir (s : State) (i : Nat) (x : Crew) : (s.setCrew i x).dir = s.dir := rfl
@[simp] theorem State.setCrew_tx (s : State) (i : Nat) (x : Crew) : (s.setCrew i x).tx = s.tx := rfl
@[simp] theorem State.setCrew_bc (s : State) (i : Nat) (x : Crew) : (s.setCrew i x).bc = s.bc := rfl
@[simp] theorem State.setCrew_time (s : State) (i : Nat) (x : Crew) : (s.setCrew i x).time = s.time := rfl
@[simp] theorem State.setCrew_str (s : State) (i : Nat) (x : Crew) : (s.setCrew i x).str = s.str := rfl
@[simp] theorem State.setCrew_mem (s : State) (i : Nat) (x : Crew) : (s.setCrew i x).mem = s.mem := rfl
@[simp] theorem State.setCrew_trim (s : State) (i : Nat) (x : Crew) : (s.setCrew i x).trim = s.trim := rfl
@[simp] theorem State.setCrew_pwr (s : State) (i : Nat) (x : Crew) : (s.setCrew i x).pwr = s.pwr := rfl
@[simp] theorem State.setCrew_boot (s : State) (i : Nat) (x : Crew) : (s.setCrew i x).boot = s.boot := rfl
@[simp] theorem State.setCrew_pins (s : State) (i : Nat) (x : Crew) : (s.setCrew i x).pins = s.pins := rfl
@[simp] theorem State.crew_setCrew (s : State) (i : Nat) (x : Crew) : (s.setCrew i x).crew i = x := getT_putT _ _ _ _
theorem State.crew_setCrew_ne (s : State) (i j : Nat) (x : Crew) (h : j ≠ i) : (s.setCrew i x).crew j = s.crew j := getT_putT_ne _ _ _ _ _ h
@[simp] theorem State.setCrew_setCrew (s : State) (i : Nat) (x y : Crew) : (s.setCrew i x).setCrew i y = s.setCrew i y := by
  simp [State.setCrew]

/-! ### setInst -/

@[simp] theorem State.setInst_pending (s : State) (i : Nat) (x : Inst) : (s.setInst i x).pending = s.pending := rfl
@[simp] theorem State.setInst_dtime (s : State) (i : Nat) (x : Inst) : (s.setInst i x).dtime = s.dtime := rfl
@[simp] theorem State.setInst_stroke (s : State) (i : Nat) (x : Inst) : (s.setInst i x).stroke = s.stroke := rfl
@[simp] theorem State.setInst_fresh (s : State) (i : Nat) (x : Inst) : (s.setInst i x).fresh = s.fresh := rfl
@[simp] theorem State.setInst_links (s : State) (i : Nat) (x : Inst) : (s.setInst i x).links = s.links := rfl
@[simp] theorem State.setInst_cnt (s : State) (i : Nat) (x : Inst) : (s.setInst i x).cnt = s.cnt := rfl
@[simp] theorem State.setInst_dlv (s : State) (i : Nat) (x : Inst) : (s.setInst i x).dlv = s.dlv := rfl
@[simp] theorem State.setInst_cfg (s : State) (i : Nat) (x : Inst) : (s.setInst i x).cfg = s.cfg := rfl
@[simp] theorem State.setInst_chains (s : State) (i : Nat) (x : Inst) : (s.setInst i x).chains = s.chains := rfl
@[simp] theorem State.setInst_gains (s : State) (i : Nat) (x : Inst) : (s.setInst i x).gains = s.gains := rfl
@[simp] theorem State.setInst_synths (s : State) (i : Nat) (x : Inst) : (s.setInst i x).synths = s.synths := rfl
@[simp] theorem State.setInst_clk (s : State) (i : Nat) (x : Inst) : (s.setInst i x).clk = s.clk := rfl
@[simp] theorem State.setInst_rx (s : State) (i : Nat) (x : Inst) : (s.setInst i x).rx = s.rx := rfl
@[simp] theorem State.setInst_dir (s : State) (i : Nat) (x : Inst) : (s.setInst i x).dir = s.dir := rfl
@[simp] theorem State.setInst_tx (s : State) (i : Nat) (x : Inst) : (s.setInst i x).tx = s.tx := rfl
@[simp] theorem State.setInst_bc (s : State) (i : Nat) (x : Inst) : (s.setInst i x).bc = s.bc := rfl
@[simp] theorem State.setInst_time (s : State) (i : Nat) (x : Inst) : (s.setInst i x).time = s.time := rfl
@[simp] theorem State.setInst_str (s : State) (i : Nat) (x : Inst) : (s.setInst i x).str = s.str := rfl
@[simp] theorem State.setInst_arr (s : State) (i : Nat) (x : Inst) : (s.setInst i x).arr = s.arr := rfl
@[simp] theorem State.setInst_trim (s : State) (i : Nat) (x : Inst) : (s.setInst i x).trim = s.trim := rfl
@[simp] theorem State.setInst_pwr (s : State) (i : Nat) (x : Inst) : (s.setInst i x).pwr = s.pwr := rfl
@[simp] theorem State.setInst_boot (s : State) (i : Nat) (x : Inst) : (s.setInst i x).boot = s.boot := rfl
@[simp] theorem State.setInst_pins (s : State) (i : Nat) (x : Inst) : (s.setInst i x).pins = s.pins := rfl
@[simp] theorem State.inst_setInst (s : State) (i : Nat) (x : Inst) : (s.setInst i x).inst i = x := getT_putT _ _ _ _
theorem State.inst_setInst_ne (s : State) (i j : Nat) (x : Inst) (h : j ≠ i) : (s.setInst i x).inst j = s.inst j := getT_putT_ne _ _ _ _ _ h
@[simp] theorem State.setInst_setInst (s : State) (i : Nat) (x y : Inst) : (s.setInst i x).setInst i y = s.setInst i y := by
  simp [State.setInst]

/-! ### setEntry -/

@[simp] theorem State.setEntry_pending (s : State) (i : Nat) (x : DirEntry) : (s.setEntry i x).pending = s.pending := rfl
@[simp] theorem State.setEntry_dtime (s : State) (i : Nat) (x : DirEntry) : (s.setEntry i x).dtime = s.dtime := rfl
@[simp] theorem State.setEntry_stroke (s : State) (i : Nat) (x : DirEntry) : (s.setEntry i x).stroke = s.stroke := rfl
@[simp] theorem State.setEntry_fresh (s : State) (i : Nat) (x : DirEntry) : (s.setEntry i x).fresh = s.fresh := rfl
@[simp] theorem State.setEntry_links (s : State) (i : Nat) (x : DirEntry) : (s.setEntry i x).links = s.links := rfl
@[simp] theorem State.setEntry_cnt (s : State) (i : Nat) (x : DirEntry) : (s.setEntry i x).cnt = s.cnt := rfl
@[simp] theorem State.setEntry_dlv (s : State) (i : Nat) (x : DirEntry) : (s.setEntry i x).dlv = s.dlv := rfl
@[simp] theorem State.setEntry_cfg (s : State) (i : Nat) (x : DirEntry) : (s.setEntry i x).cfg = s.cfg := rfl
@[simp] theorem State.setEntry_chains (s : State) (i : Nat) (x : DirEntry) : (s.setEntry i x).chains = s.chains := rfl
@[simp] theorem State.setEntry_gains (s : State) (i : Nat) (x : DirEntry) : (s.setEntry i x).gains = s.gains := rfl
@[simp] theorem State.setEntry_synths (s : State) (i : Nat) (x : DirEntry) : (s.setEntry i x).synths = s.synths := rfl
@[simp] theorem State.setEntry_clk (s : State) (i : Nat) (x : DirEntry) : (s.setEntry i x).clk = s.clk := rfl
@[simp] theorem State.setEntry_rx (s : State) (i : Nat) (x : DirEntry) : (s.setEntry i x).rx = s.rx := rfl
@[simp] theorem State.setEntry_tx (s : State) (i : Nat) (x : DirEntry) : (s.setEntry i x).tx = s.tx := rfl
@[simp] theorem State.setEntry_bc (s : State) (i : Nat) (x : DirEntry) : (s.setEntry i x).bc = s.bc := rfl
@[simp] theorem State.setEntry_time (s : State) (i : Nat) (x : DirEntry) : (s.setEntry i x).time = s.time := rfl
@[simp] theorem State.setEntry_str (s : State) (i : Nat) (x : DirEntry) : (s.setEntry i x).str = s.str := rfl
@[simp] theorem State.setEntry_arr (s : State) (i : Nat) (x : DirEntry) : (s.setEntry i x).arr = s.arr := rfl
@[simp] theorem State.setEntry_mem (s : State) (i : Nat) (x : DirEntry) : (s.setEntry i x).mem = s.mem := rfl
@[simp] theorem State.setEntry_trim (s : State) (i : Nat) (x : DirEntry) : (s.setEntry i x).trim = s.trim := rfl
@[simp] theorem State.setEntry_pwr (s : State) (i : Nat) (x : DirEntry) : (s.setEntry i x).pwr = s.pwr := rfl
@[simp] theorem State.setEntry_boot (s : State) (i : Nat) (x : DirEntry) : (s.setEntry i x).boot = s.boot := rfl
@[simp] theorem State.setEntry_pins (s : State) (i : Nat) (x : DirEntry) : (s.setEntry i x).pins = s.pins := rfl
@[simp] theorem State.entry_setEntry (s : State) (i : Nat) (x : DirEntry) : (s.setEntry i x).entry i = x := getT_putT _ _ _ _
theorem State.entry_setEntry_ne (s : State) (i j : Nat) (x : DirEntry) (h : j ≠ i) : (s.setEntry i x).entry j = s.entry j := getT_putT_ne _ _ _ _ _ h
@[simp] theorem State.setEntry_setEntry (s : State) (i : Nat) (x y : DirEntry) : (s.setEntry i x).setEntry i y = s.setEntry i y := by
  simp [State.setEntry]

/-! ### setTdm -/

@[simp] theorem State.setTdm_pending (s : State) (x : Tdm) : (s.setTdm x).pending = s.pending := rfl
@[simp] theorem State.setTdm_dtime (s : State) (x : Tdm) : (s.setTdm x).dtime = s.dtime := rfl
@[simp] theorem State.setTdm_stroke (s : State) (x : Tdm) : (s.setTdm x).stroke = s.stroke := rfl
@[simp] theorem State.setTdm_fresh (s : State) (x : Tdm) : (s.setTdm x).fresh = s.fresh := rfl
@[simp] theorem State.setTdm_links (s : State) (x : Tdm) : (s.setTdm x).links = s.links := rfl
@[simp] theorem State.setTdm_cnt (s : State) (x : Tdm) : (s.setTdm x).cnt = s.cnt := rfl
@[simp] theorem State.setTdm_dlv (s : State) (x : Tdm) : (s.setTdm x).dlv = s.dlv := rfl
@[simp] theorem State.setTdm_cfg (s : State) (x : Tdm) : (s.setTdm x).cfg = s.cfg := rfl
@[simp] theorem State.setTdm_chains (s : State) (x : Tdm) : (s.setTdm x).chains = s.chains := rfl
@[simp] theorem State.setTdm_gains (s : State) (x : Tdm) : (s.setTdm x).gains = s.gains := rfl
@[simp] theorem State.setTdm_synths (s : State) (x : Tdm) : (s.setTdm x).synths = s.synths := rfl
@[simp] theorem State.setTdm_clk (s : State) (x : Tdm) : (s.setTdm x).clk = s.clk := rfl
@[simp] theorem State.setTdm_rx (s : State) (x : Tdm) : (s.setTdm x).rx = s.rx := rfl
@[simp] theorem State.setTdm_dir (s : State) (x : Tdm) : (s.setTdm x).dir = s.dir := rfl
@[simp] theorem State.setTdm_tx (s : State) (x : Tdm) : (s.setTdm x).tx = s.tx := rfl
@[simp] theorem State.setTdm_bc (s : State) (x : Tdm) : (s.setTdm x).bc = s.bc := rfl
@[simp] theorem State.setTdm_time (s : State) (x : Tdm) : (s.setTdm x).time = s.time := rfl
@[simp] theorem State.setTdm_arr (s : State) (x : Tdm) : (s.setTdm x).arr = s.arr := rfl
@[simp] theorem State.setTdm_mem (s : State) (x : Tdm) : (s.setTdm x).mem = s.mem := rfl
@[simp] theorem State.setTdm_trim (s : State) (x : Tdm) : (s.setTdm x).trim = s.trim := rfl
@[simp] theorem State.setTdm_pwr (s : State) (x : Tdm) : (s.setTdm x).pwr = s.pwr := rfl
@[simp] theorem State.setTdm_boot (s : State) (x : Tdm) : (s.setTdm x).boot = s.boot := rfl
@[simp] theorem State.setTdm_pins (s : State) (x : Tdm) : (s.setTdm x).pins = s.pins := rfl
@[simp] theorem State.setTdm_tdm (s : State) (x : Tdm) : (s.setTdm x).str.tdm = x := rfl

/-! ### at, each, when -/

@[simp] theorem State.at_pending (s : State) (t : Nat) : (s.at t).pending = s.pending := by unfold State.at; split <;> rfl
@[simp] theorem State.at_stroke (s : State) (t : Nat) : (s.at t).stroke = s.stroke := by unfold State.at; split <;> rfl
@[simp] theorem State.at_fresh (s : State) (t : Nat) : (s.at t).fresh = s.fresh := by unfold State.at; split <;> rfl
@[simp] theorem State.at_links (s : State) (t : Nat) : (s.at t).links = s.links := by unfold State.at; split <;> rfl
@[simp] theorem State.at_cnt (s : State) (t : Nat) : (s.at t).cnt = s.cnt := by unfold State.at; split <;> rfl
@[simp] theorem State.at_dlv (s : State) (t : Nat) : (s.at t).dlv = s.dlv := by unfold State.at; split <;> rfl
@[simp] theorem State.at_cfg (s : State) (t : Nat) : (s.at t).cfg = s.cfg := by unfold State.at; split <;> rfl
@[simp] theorem State.at_chains (s : State) (t : Nat) : (s.at t).chains = s.chains := by unfold State.at; split <;> rfl
@[simp] theorem State.at_gains (s : State) (t : Nat) : (s.at t).gains = s.gains := by unfold State.at; split <;> rfl
@[simp] theorem State.at_synths (s : State) (t : Nat) : (s.at t).synths = s.synths := by unfold State.at; split <;> rfl
@[simp] theorem State.at_clk (s : State) (t : Nat) : (s.at t).clk = s.clk := by unfold State.at; split <;> rfl
@[simp] theorem State.at_rx (s : State) (t : Nat) : (s.at t).rx = s.rx := by unfold State.at; split <;> rfl
@[simp] theorem State.at_dir (s : State) (t : Nat) : (s.at t).dir = s.dir := by unfold State.at; split <;> rfl
@[simp] theorem State.at_tx (s : State) (t : Nat) : (s.at t).tx = s.tx := by unfold State.at; split <;> rfl
@[simp] theorem State.at_bc (s : State) (t : Nat) : (s.at t).bc = s.bc := by unfold State.at; split <;> rfl
@[simp] theorem State.at_time (s : State) (t : Nat) : (s.at t).time = s.time := by unfold State.at; split <;> rfl
@[simp] theorem State.at_str (s : State) (t : Nat) : (s.at t).str = s.str := by unfold State.at; split <;> rfl
@[simp] theorem State.at_arr (s : State) (t : Nat) : (s.at t).arr = s.arr := by unfold State.at; split <;> rfl
@[simp] theorem State.at_mem (s : State) (t : Nat) : (s.at t).mem = s.mem := by unfold State.at; split <;> rfl
@[simp] theorem State.at_trim (s : State) (t : Nat) : (s.at t).trim = s.trim := by unfold State.at; split <;> rfl
@[simp] theorem State.at_pwr (s : State) (t : Nat) : (s.at t).pwr = s.pwr := by unfold State.at; split <;> rfl
@[simp] theorem State.at_boot (s : State) (t : Nat) : (s.at t).boot = s.boot := by unfold State.at; split <;> rfl
@[simp] theorem State.at_pins (s : State) (t : Nat) : (s.at t).pins = s.pins := by unfold State.at; split <;> rfl
@[simp] theorem State.each_nil {α : Type} (s : State) (f : State → α → State) : s.each [] f = s := rfl
@[simp] theorem State.each_cons {α : Type} (s : State) (a : α) (l : List α) (f : State → α → State) : s.each (a :: l) f = (f s a).each l f := rfl
@[simp] theorem State.when_true (s : State) (f : State → State) : s.when true f = f s := rfl
@[simp] theorem State.when_false (s : State) (f : State → State) : s.when false f = s := rfl

/-- A property that every application keeps holds of the whole fold. -/
theorem State.each_keeps {α : Type} {P : State → Prop} {f : State → α → State} (h : ∀ s a, P s → P (f s a)) :
    ∀ (l : List α) (s : State), P s → P (s.each l f)
  | [], _, hs => hs
  | a :: l, s, hs => State.each_keeps h l (f s a) (h s a hs)

end Sys2Proof.Machine
end

