-- ==== Sys2Proof/Laws/Host.lean ====
section
/-! SUPPORT. What the checks common to host commands do: a command that `State.takes` admits acts on the links as accepted, or is
turned away by its own checks. -/

namespace Sys2Proof.Machine

/-- The parts of `State.takes`. -/
theorem takes_iff (s : State) (h : Hdr) (op : Nat) : s.takes h op = true ↔
    s.links.ready = true ∧ s.reachable h.src = true ∧ hdrClean h = true ∧ h.tag ≠ 0 ∧ s.outstanding h.tag = none ∧ s.cached h op = none
    ∧ s.links.tags.length < 64 ∧ s.boot.recovery = false ∧ s.pwr.st ≠ .easy ∧ s.pwr.entering ≠ some .easy
    ∧ s.links.inFifo.length ≤ 20 + h.len ∧ h.len ≤ payloadLimit h.src := by
  simp [State.takes, and_assoc]

/-- No unknown message waits in an empty FIFO. -/
theorem serveUnknown_empty (s : State) (n : Nat) (h : s.links.inFifo = []) : s.serveUnknown n = s := by
  cases n <;> simp [State.serveUnknown, h, headOf]

/-- A message is taken. -/
theorem receive_eq (s : State) (h : Hdr) (op : Nat) (hf : s.links.inFifo.length ≤ 20 + h.len) :
    s.receive h op = { s with links := s.taken h op } := by
  have hd : s.links.inFifo.drop (20 + h.len) = [] := List.drop_eq_nil_of_le hf
  unfold State.receive State.taken
  cases hs : h.src with
  | udp ip p => simp [State.onLinks]
  | spi =>
    simp only [State.onLinks, beq_self_eq_true, Bool.true_and]
    split
    · rename_i hm
      rw [serveUnknown_empty _ _ (by simp [hd])]
      simp only [hm, if_true, hd]
    · rename_i hm
      simp only [hm]
      rfl

/-- A command that nothing common stops is carried out on the links as accepted, or refused by its own checks. -/
theorem host_takes (s : State) (h : Hdr) (op : Nat) (c : State → Check) (act : State → State) (ht : s.takes h op = true)
    (hop : ∀ x, (c x).op = op) (hform : (c { s with links := s.taken h op }).form = true)
    (hrange : (c { s with links := s.taken h op }).range = true) :
    s.host h op c act = match (c { s with links := s.taken h op }).state with
      | some st => ({ s with links := s.taken h op } : State).answer h op st (c { s with links := s.taken h op }).refusal
      | none => act { s with links := s.accepted h op } := by
  obtain ⟨h1, h2, h3, h4, h5, h6, h7, h8, h9, h10, h11, h12⟩ := (takes_iff s h op).1 ht
  have hk : bitsOf h.flags.toNat 14 2 = 0 := by
    have : h.flags = 0 := by simp [hdrClean] at h3; exact h3.1.2
    simp [this, bitsOf]
  have hr : s.rouse op = s := by simp [State.rouse, h9, h10]
  have ho : ({ s with links := s.taken h op } : State).outstanding h.tag = none := h5
  have hc : ({ s with links := s.taken h op } : State).cached h op = none := h6
  have htags : ({ s with links := s.taken h op } : State).links.tags.length < 64 := h7
  have hcmd : s.host h op c act
      = ({ s with links := s.taken h op } : State).checked h (c { s with links := s.taken h op }) act := by
    have hl : ¬ payloadLimit h.src < h.len := by omega
    simp [State.host, State.arrived, h1, h2, hk, hr, State.command, hl, receive_eq s h op h11]
  rw [hcmd]
  generalize hx : ({ s with links := s.taken h op } : State) = x at *
  have hb : x.boot.recovery = false := by rw [← hx]; exact h8
  have hn : x.noteUdp h.src = { s with links := s.accepted h op } := by
    rw [← hx]
    simp only [State.noteUdp, State.accepted]
    cases h.src <;> rfl
  have h64 : ¬ 64 ≤ x.links.tags.length := by omega
  simp only [State.checked, hop, ho, hc, h3, hform, hrange, hb, hn, if_neg h64]
  have h0 : ¬ h.tag = 0#16 := h4
  cases (c x).state <;> simp [h0]

/-- The final reply, where the transport is on and the tag is not outstanding. -/
theorem answer_eq (s : State) (h : Hdr) (op : Nat) (st : Status) (p : Bytes) (hr : s.reachable h.src = true)
    (ho : s.outstanding h.tag = none) : s.answer h op st p = { s with links := s.links.reply s.dtime h op st p } := by
  have hf : s.links.tags.filter (fun t => t.tag != h.tag) = s.links.tags := by
    apply List.filter_eq_self.2
    intro t ht
    have := (List.find?_eq_none.1 ho) t ht
    simpa using this
  simp [State.answer, State.final, State.post, mkReply, hr, State.onLinks, Links.reply, hf]

end Sys2Proof.Machine
end

