-- ==== Sys2Proof/Laws/Stores.lean ====
section
/-! SUPPORT. The byte stores keep their canonical form: one lemma for every operation and every meaning, each from the lemmas of
what it calls. `F_stores` says that `F` of a state whose stores are in that form is such a state, or answers one. -/

namespace Sys2Proof.Machine

set_option Elab.async false

/-! ### The form, and the updates that leave the stores alone -/

/-- The three byte stores of a state are in their canonical form. -/
structure Stores (cells active shadow : List Host.Cell) : Prop where
  cells  : cellsWf (fun _ => 0) cells = true
  active : cellsWf cfgReset active = true
  shadow : cellsWf cfgReset shadow = true

theorem storesWf_iff (s : State) : s.storesWf = true ↔ Stores s.mem.cells s.cfg.active s.cfg.shadow := by
  simp only [State.storesWf, Mems.wf, Bool.and_eq_true]
  exact ⟨fun h => ⟨h.1.1, h.1.2, h.2⟩, fun h => ⟨⟨h.cells, h.active⟩, h.shadow⟩⟩

/-- The stores of a state are in their canonical form. -/
structure State.Keeps (s : State) : Prop where
  wf : s.storesWf = true

theorem State.Keeps.stores {s : State} (h : s.Keeps) : Stores s.mem.cells s.cfg.active s.cfg.shadow := (storesWf_iff s).1 h.wf
theorem keeps_of {s : State} (h : Stores s.mem.cells s.cfg.active s.cfg.shadow) : s.Keeps := ⟨(storesWf_iff s).2 h⟩

/-- A next state, if an outcome is one, keeps the stores. -/
inductive KeepsOut : Out → Prop
  | next {t : State} (h : t.Keeps) : KeepsOut (.next t)
  | fault (f : Fault) : KeepsOut (.fault f)
  | refused (r : Refusal) : KeepsOut (.refused r)

theorem keeps_next {t : State} (h : t.Keeps) : KeepsOut (.next t) := .next h
theorem keeps_fault {f : Fault} : KeepsOut (.fault f) := .fault f
theorem keeps_refused {r : Refusal} : KeepsOut (.refused r) := .refused r

theorem keeps_ite {c : Prop} [Decidable c] {a b : State} (h : c → a.Keeps) (k : ¬ c → b.Keeps) : (if c then a else b).Keeps := by
  split
  · exact h ‹_›
  · exact k ‹_›
theorem keepsFst_ite {α : Type} {c : Prop} [Decidable c] {a b : State × α} (h : c → a.1.Keeps) (k : ¬ c → b.1.Keeps) :
    (if c then a else b).1.Keeps := by
  split
  · exact h ‹_›
  · exact k ‹_›
theorem keepsOut_ite {c : Prop} [Decidable c] {a b : Out} (h : c → KeepsOut a) (k : ¬ c → KeepsOut b) : KeepsOut (if c then a else b) := by
  split
  · exact h ‹_›
  · exact k ‹_›
theorem keeps_let {x : State} {P : Prop} (h : x.Keeps) (k : x.Keeps → P) : P := k h

theorem State.each_stores {α : Type} {s : State} {l : List α} {f : State → α → State} (h : s.Keeps) (k : ∀ (t : State) (a : α), t.Keeps → (f t a).Keeps) :
    (s.each l f).Keeps := State.each_keeps (P := State.Keeps) k l s h
theorem State.foldl_stores {α : Type} {s : State} {l : List α} {f : State → α → State} (h : s.Keeps) (k : ∀ (t : State) (a : α), t.Keeps → (f t a).Keeps) :
    (l.foldl f s).Keeps := State.each_stores h k
theorem State.when_stores {s : State} {b : Bool} {f : State → State} (h : s.Keeps) (k : ∀ t : State, t.Keeps → (f t).Keeps) :
    (s.when b f).Keeps := by
  cases b
  · exact h
  · exact k s h
theorem State.onMem_stores {s : State} {f : Mems → Mems} (h : s.Keeps) (k : Stores s.mem.cells s.cfg.active s.cfg.shadow → Stores (f s.mem).cells s.cfg.active s.cfg.shadow) :
    (s.onMem f).Keeps := keeps_of (k h.stores)
theorem State.onCfg_stores {s : State} {f : ConfigSets → ConfigSets} (h : s.Keeps)
    (k : Stores s.mem.cells s.cfg.active s.cfg.shadow → Stores s.mem.cells (f s.cfg).active (f s.cfg).shadow) :
    (s.onCfg f).Keeps := keeps_of (k h.stores)
theorem State.setInst_stores {s : State} {i : Nat} {x : Inst} (h : s.Keeps) : (s.setInst i x).Keeps := keeps_of h.stores
theorem State.setTxb_stores {s : State} {b : Band} {x : TxBand} (h : s.Keeps) : (s.setTxb b x).Keeps := by
  cases b <;> exact keeps_of h.stores
theorem State.at_stores {s : State} {t : Nat} (h : s.Keeps) : (s.at t).Keeps := keeps_of (by simpa using h.stores)
theorem State.draw_stores {s : State} (h : s.Keeps) : s.draw.Keeps := keeps_of h.stores
theorem State.setChain_stores {s : State} {i : Nat} {c : Chain} (h : s.Keeps) : (s.setChain i c).Keeps := keeps_of h.stores
theorem State.setGain_stores {s : State} {i : Nat} {g : Gain} (h : s.Keeps) : (s.setGain i g).Keeps := keeps_of h.stores
theorem State.setSynth_stores {s : State} {i : Nat} {x : Synth} (h : s.Keeps) : (s.setSynth i x).Keeps := keeps_of h.stores
theorem State.setLane_stores {s : State} {i : Nat} {x : Lane} (h : s.Keeps) : (s.setLane i x).Keeps := keeps_of h.stores
theorem State.setCtx_stores {s : State} {i : Nat} {x : Ctx} (h : s.Keeps) : (s.setCtx i x).Keeps := keeps_of h.stores
theorem State.setGroup_stores {s : State} {i : Nat} {x : Group} (h : s.Keeps) : (s.setGroup i x).Keeps := keeps_of h.stores
theorem State.setTdm_stores {s : State} {x : Tdm} (h : s.Keeps) : (s.setTdm x).Keeps := keeps_of h.stores
theorem State.setCircuit_stores {s : State} {i : Nat} {x : Circuit} (h : s.Keeps) : (s.setCircuit i x).Keeps := keeps_of h.stores
theorem State.setScull_stores {s : State} {i : Nat} {x : Scull} (h : s.Keeps) : (s.setScull i x).Keeps := keeps_of h.stores
theorem State.setCrew_stores {s : State} {i : Nat} {x : Crew} (h : s.Keeps) : (s.setCrew i x).Keeps := keeps_of h.stores
theorem State.setEntry_stores {s : State} {i : Nat} {x : DirEntry} (h : s.Keeps) : (s.setEntry i x).Keeps := keeps_of h.stores
theorem State.onLinks_stores {s : State} {f : Links → Links} (h : s.Keeps) : (s.onLinks f).Keeps := keeps_of h.stores
theorem State.onCnt_stores {s : State} {f : Counters → Counters} (h : s.Keeps) : (s.onCnt f).Keeps := keeps_of h.stores
theorem State.onDlv_stores {s : State} {f : Delivery → Delivery} (h : s.Keeps) : (s.onDlv f).Keeps := keeps_of h.stores
theorem State.onRx_stores {s : State} {f : Reception → Reception} (h : s.Keeps) : (s.onRx f).Keeps := keeps_of h.stores
theorem State.onDir_stores {s : State} {f : Directory → Directory} (h : s.Keeps) : (s.onDir f).Keeps := keeps_of h.stores
theorem State.onTx_stores {s : State} {f : Transmit → Transmit} (h : s.Keeps) : (s.onTx f).Keeps := keeps_of h.stores
theorem State.onBc_stores {s : State} {f : Broadcast → Broadcast} (h : s.Keeps) : (s.onBc f).Keeps := keeps_of h.stores
theorem State.onTime_stores {s : State} {f : TimeD → TimeD} (h : s.Keeps) : (s.onTime f).Keeps := keeps_of h.stores
theorem State.onTrim_stores {s : State} {f : Trim → Trim} (h : s.Keeps) : (s.onTrim f).Keeps := keeps_of h.stores
theorem State.onPwr_stores {s : State} {f : Power → Power} (h : s.Keeps) : (s.onPwr f).Keeps := keeps_of h.stores
theorem State.onBoot_stores {s : State} {f : Boot → Boot} (h : s.Keeps) : (s.onBoot f).Keeps := keeps_of h.stores
theorem State.onPins_stores {s : State} {f : Pins → Pins} (h : s.Keeps) : (s.onPins f).Keeps := keeps_of h.stores
theorem State.onClk_stores {s : State} {f : Clocks → Clocks} (h : s.Keeps) : (s.onClk f).Keeps := keeps_of h.stores
theorem State.onLeak_stores {s : State} {f : Leak → Leak} (h : s.Keeps) : (s.onLeak f).Keeps := keeps_of h.stores
theorem State.onCap_stores {s : State} {f : CapCounters → CapCounters} (h : s.Keeps) : (s.onCap f).Keeps := keeps_of h.stores
theorem State.onEng_stores {s : State} {f : EngCounters → EngCounters} (h : s.Keeps) : (s.onEng f).Keeps := keeps_of h.stores
theorem State.onLane_stores {s : State} {i : Nat} {f : Lane → Lane} (h : s.Keeps) : (s.onLane i f).Keeps := keeps_of h.stores
theorem State.onCtx_stores {s : State} {i : Nat} {f : Ctx → Ctx} (h : s.Keeps) : (s.onCtx i f).Keeps := keeps_of h.stores
theorem State.onChain_stores {s : State} {i : Nat} {f : Chain → Chain} (h : s.Keeps) : (s.onChain i f).Keeps := keeps_of h.stores
theorem State.onSynth_stores {s : State} {i : Nat} {f : Synth → Synth} (h : s.Keeps) : (s.onSynth i f).Keeps := keeps_of h.stores
theorem State.onGain_stores {s : State} {i : Nat} {f : Gain → Gain} (h : s.Keeps) : (s.onGain i f).Keeps := keeps_of h.stores
theorem State.onGroup_stores {s : State} {i : Nat} {f : Group → Group} (h : s.Keeps) : (s.onGroup i f).Keeps := keeps_of h.stores
theorem State.onTdm_stores {s : State} {f : Tdm → Tdm} (h : s.Keeps) : (s.onTdm f).Keeps := keeps_of h.stores
theorem State.onCircuit_stores {s : State} {i : Nat} {f : Circuit → Circuit} (h : s.Keeps) : (s.onCircuit i f).Keeps := keeps_of h.stores
theorem State.onScull_stores {s : State} {i : Nat} {f : Scull → Scull} (h : s.Keeps) : (s.onScull i f).Keeps := keeps_of h.stores
theorem State.onCrew_stores {s : State} {i : Nat} {f : Crew → Crew} (h : s.Keeps) : (s.onCrew i f).Keeps := keeps_of h.stores
theorem State.onInst_stores {s : State} {i : Nat} {f : Inst → Inst} (h : s.Keeps) : (s.onInst i f).Keeps := State.setInst_stores h
theorem State.onEntry_stores {s : State} {i : Nat} {f : DirEntry → DirEntry} (h : s.Keeps) : (s.onEntry i f).Keeps := keeps_of h.stores
theorem State.onTxb_stores {s : State} {b : Band} {f : TxBand → TxBand} (h : s.Keeps) : (s.onTxb b f).Keeps := State.setTxb_stores h
theorem keeps_mk {pending : List Instr} {dtime : Nat} {stroke : Nat} {fresh : Nat} {links : Links} {cnt : Counters} {dlv : Delivery} {cfg : ConfigSets} {chains : Tab Chain} {gains : Tab Gain} {synths : Tab Synth} {clk : Clocks} {rx : Reception} {dir : Directory} {tx : Transmit} {bc : Broadcast} {time : TimeD} {str : Streams} {arr : Array_} {mem : Mems} {trim : Trim} {pwr : Power} {boot : Boot} {pins : Pins}
    (h : Stores mem.cells cfg.active cfg.shadow) :
    State.Keeps ⟨pending, dtime, stroke, fresh, links, cnt, dlv, cfg, chains, gains, synths, clk, rx, dir, tx, bc, time, str, arr, mem, trim, pwr, boot, pins⟩ := keeps_of h
theorem stores_reset : Stores [] [] [] := ⟨rfl, rfl, rfl⟩
theorem overlay_wf {set direct : List Host.Cell} (h : cellsWf cfgReset set = true) : cellsWf cfgReset (overlay set direct) = true := by
  unfold overlay
  induction direct generalizing set with
  | nil => exact h
  | cons c l ih => exact ih (cellsWf_writeCell _ _ _ _ h)
theorem putSet_wf {set : List Host.Cell} {sec ofs : Nat} {b : Bytes} (h : cellsWf cfgReset set = true) :
    cellsWf cfgReset (putSet set sec ofs b) = true := cellsWf_writeCells _ _ _ _ h
theorem putSets_wf {l : List (Nat × Nat × Bytes)} {set : List Host.Cell} (h : cellsWf cfgReset set = true) :
    cellsWf cfgReset (l.foldl (fun m e => putSet m e.1 e.2.1 e.2.2) set) = true := by
  induction l generalizing set with
  | nil => exact h
  | cons e l ih => exact ih (putSet_wf h)
theorem State.console_stores {s : State} {text : String} (h : s.Keeps) : (State.console s text).Keeps := by
  unfold State.console
  repeat (any_goals (with_reducible first
    | assumption | refine State.onLinks_stores ?_ | refine keeps_ite (fun _ => ?_) (fun _ => ?_)))
theorem State.setWord_stores {s : State} {kind : Nat} {idx : Nat} {w : Word} (h : s.Keeps) : (State.setWord s kind idx w).Keeps := by
  unfold State.setWord
  repeat (any_goals (with_reducible first
    | assumption | refine State.onChain_stores ?_ | refine State.onLane_stores ?_ | refine State.onCrew_stores ?_ | refine State.onTdm_stores ?_
    | refine State.onGroup_stores ?_ | refine State.onSynth_stores ?_ | refine keeps_ite (fun _ => ?_) (fun _ => ?_) | split))
theorem State.pushEvent_stores {s : State} {code : Nat} {kind : Nat} {gen : Nat} {idx : Nat} {fields : Bytes} (h : s.Keeps) :
    (State.pushEvent s code kind gen idx fields).Keeps := by
  unfold State.pushEvent
  repeat (any_goals (with_reducible first
    | assumption | refine State.onLinks_stores ?_ | refine State.onCnt_stores ?_ | refine keeps_ite (fun _ => ?_) (fun _ => ?_)))
theorem State.audit_stores {s : State} {kind : Nat} {idx : Nat} (h : s.Keeps) : (State.audit s kind idx).Keeps := by
  unfold State.audit
  repeat (any_goals (with_reducible first
    | assumption | refine State.setWord_stores ?_ | refine State.pushEvent_stores ?_ | refine keeps_ite (fun _ => ?_) (fun _ => ?_) | split))
theorem State.raise_stores {s : State} {code : Nat} {kind : Nat} {idx : Nat} {fields : Bytes} (h : s.Keeps) :
    (State.raise s code kind idx fields).Keeps := by
  unfold State.raise
  repeat (any_goals (with_reducible first
    | assumption | refine State.audit_stores ?_ | refine State.pushEvent_stores ?_))
theorem State.dropEvent_stores {s : State} (h : s.Keeps) : (State.dropEvent s).Keeps := by
  unfold State.dropEvent
  repeat (any_goals (with_reducible first
    | assumption | refine State.onLinks_stores ?_ | refine State.pushEvent_stores ?_ | refine keeps_ite (fun _ => ?_) (fun _ => ?_)))
theorem State.missedEvent_stores {s : State} (h : s.Keeps) : (State.missedEvent s).Keeps := by
  unfold State.missedEvent
  repeat (any_goals (with_reducible first
    | assumption | refine State.pushEvent_stores ?_ | refine State.onLinks_stores ?_ | refine State.onCnt_stores ?_
    | refine keeps_ite (fun _ => ?_) (fun _ => ?_)))
theorem State.fallLine_stores {s : State} {what : String} (h : s.Keeps) : (State.fallLine s what).Keeps := by
  unfold State.fallLine
  repeat (any_goals (with_reducible first
    | assumption | refine State.console_stores ?_))
theorem State.flagFall_stores {s : State} {source : Nat} {detail : Nat} (h : s.Keeps) : (State.flagFall s source detail).Keeps := by
  unfold State.flagFall
  repeat (any_goals (with_reducible first
    | assumption | refine State.fallLine_stores ?_ | refine State.pushEvent_stores ?_))
theorem State.moveCrew_stores {s : State} {i : Nat} {x : CrewSt} (h : s.Keeps) : (State.moveCrew s i x).Keeps := by
  unfold State.moveCrew
  repeat (any_goals (with_reducible first
    | assumption | refine State.onCrew_stores ?_))
theorem State.moveSyn_stores {s : State} {i : Nat} {x : SynSt} (h : s.Keeps) : (State.moveSyn s i x).Keeps := by
  unfold State.moveSyn
  repeat (any_goals (with_reducible first
    | assumption | refine State.onSynth_stores ?_))
theorem State.moveChain_stores {s : State} {i : Nat} {x : ChainSt} (h : s.Keeps) : (State.moveChain s i x).Keeps := by
  unfold State.moveChain
  repeat (any_goals (with_reducible first
    | assumption | refine State.onChain_stores ?_))
theorem State.moveTdm_stores {s : State} {x : TdmSt} (h : s.Keeps) : (State.moveTdm s x).Keeps := by
  unfold State.moveTdm
  repeat (any_goals (with_reducible first
    | assumption | refine State.onTdm_stores ?_))
theorem State.moveGroup_stores {s : State} {i : Nat} {x : GroupSt} (h : s.Keeps) : (State.moveGroup s i x).Keeps := by
  unfold State.moveGroup
  repeat (any_goals (with_reducible first
    | assumption | refine State.onGroup_stores ?_))
theorem State.eventLine_stores {s : State} {m : OutMsg} (h : s.Keeps) : (State.eventLine s m).Keeps := by
  unfold State.eventLine
  repeat (any_goals (with_reducible first
    | assumption | refine State.console_stores ?_ | refine keeps_ite (fun _ => ?_) (fun _ => ?_)))
theorem State.moveLane_stores {s : State} {i : Nat} {x : LaneSt} (h : s.Keeps) : (State.moveLane s i x).Keeps := by
  unfold State.moveLane
  repeat (any_goals (with_reducible first
    | assumption | refine State.onLane_stores ?_))
theorem State.post_stores {s : State} {m : OutMsg} (h : s.Keeps) : (State.post s m).Keeps := by
  unfold State.post
  repeat (any_goals (with_reducible first
    | assumption | refine State.onLinks_stores ?_ | refine State.onCnt_stores ?_ | refine keeps_ite (fun _ => ?_) (fun _ => ?_)))
theorem State.final_stores {s : State} {src : Src} {op : Nat} {tag : U16} {crc : U32} {st : Status} {payload : Bytes} (h : s.Keeps) :
    (State.final s src op tag crc st payload).Keeps := by
  unfold State.final
  repeat (any_goals (with_reducible first
    | assumption | refine State.onLinks_stores ?_ | refine State.post_stores ?_))
theorem State.refuseUnknown_stores {s : State} {src : Src} {b : Bytes} (h : s.Keeps) : (State.refuseUnknown s src b).Keeps := by
  unfold State.refuseUnknown
  repeat (any_goals (with_reducible first
    | assumption | refine State.post_stores ?_ | refine State.final_stores ?_ | refine keeps_ite (fun _ => ?_) (fun _ => ?_)
    | (intro x; try clear_value x) | lift_lets -underBinder | split))
theorem State.serveUnknown_stores {s : State} {fuel : Nat} (h : s.Keeps) : (State.serveUnknown s fuel).Keeps := by
  induction fuel generalizing s with
  | zero => exact h
  | succ f ih =>
    unfold State.serveUnknown
    repeat (any_goals (with_reducible first
      | assumption | apply ih | refine State.refuseUnknown_stores ?_ | refine State.onLinks_stores ?_ | refine keeps_ite (fun _ => ?_) (fun _ => ?_)
      | split))
theorem State.refreshIrq_stores {s : State} (h : s.Keeps) : (State.refreshIrq s).Keeps := by
  unfold State.refreshIrq
  repeat (any_goals (with_reducible first
    | assumption | refine State.onPins_stores ?_))
theorem State.setIrq_stores {s : State} {bits : U16} (h : s.Keeps) : (State.setIrq s bits).Keeps := by
  unfold State.setIrq
  repeat (any_goals (with_reducible first
    | assumption | refine State.refreshIrq_stores ?_ | refine State.onLinks_stores ?_))
theorem State.scanFifo_stores {s : State} {before : Nat} {endsTxn : Bool} (h : s.Keeps) : (State.scanFifo s before endsTxn).Keeps := by
  unfold State.scanFifo
  repeat (any_goals (with_reducible first
    | assumption | refine State.serveUnknown_stores ?_ | refine State.setIrq_stores ?_ | refine State.onCnt_stores ?_ | refine State.onLinks_stores ?_
    | refine keeps_ite (fun _ => ?_) (fun _ => ?_)))
theorem State.answer_stores {s : State} {x1 : Hdr} {op : Nat} {st : Status} {payload : Bytes} (h : s.Keeps) :
    (State.answer s x1 op st payload).Keeps := by
  unfold State.answer
  repeat (any_goals (with_reducible first
    | assumption | refine State.final_stores ?_))
theorem State.noteUdp_stores {s : State} {src : Src} (h : s.Keeps) : (State.noteUdp s src).Keeps := by
  unfold State.noteUdp
  repeat (any_goals (with_reducible first
    | assumption | refine State.onLinks_stores ?_ | split))
theorem State.checked_stores {s : State} {h : Hdr} {c : Check} {act : State → State} (hs : s.Keeps) (ka : ∀ t : State, t.Keeps → (act t).Keeps) :
    (s.checked h c act).Keeps := by
  unfold State.checked
  repeat (any_goals (with_reducible first
    | assumption | refine ka _ ?_ | refine State.post_stores ?_ | refine State.answer_stores ?_ | refine State.noteUdp_stores ?_
    | refine keeps_ite (fun _ => ?_) (fun _ => ?_) | lift_lets -underBinder | split))
theorem State.discard_stores {s : State} {src : Src} (h : s.Keeps) : (State.discard s src).Keeps := by
  unfold State.discard
  repeat (any_goals (with_reducible first
    | assumption | refine State.onCnt_stores ?_ | refine State.setIrq_stores ?_ | refine State.onLinks_stores ?_
    | (intro x; refine keeps_let (x := x) ?_ ?_; unfold x; rotate_left; intro hx; clear_value x) | lift_lets -underBinder | split))
theorem State.acknowledge_stores {s : State} {p : U32 → Bool} (h : s.Keeps) : (State.acknowledge s p).Keeps := by
  unfold State.acknowledge
  repeat (any_goals (with_reducible first
    | assumption | refine State.onDlv_stores ?_))
theorem State.hold_stores {s : State} {x1 : Hdr} {op : Nat} {long : Bool} (h : s.Keeps) : (State.hold s x1 op long).Keeps := by
  unfold State.hold
  repeat (any_goals (with_reducible first
    | assumption | refine State.onLinks_stores ?_))
theorem State.closeBatch_stores {s : State} (h : s.Keeps) : (State.closeBatch s).Keeps := by
  unfold State.closeBatch
  repeat (any_goals (with_reducible first
    | assumption | refine State.onLinks_stores ?_ | refine State.onDlv_stores ?_ | split))
theorem State.intoBatch_stores {s : State} {dst : Src} {r : Rec} {new : Bool} (h : s.Keeps) : (State.intoBatch s dst r new).Keeps := by
  unfold State.intoBatch
  repeat (any_goals (with_reducible first
    | assumption | refine State.closeBatch_stores ?_ | refine State.onDlv_stores ?_ | refine keeps_ite (fun _ => ?_) (fun _ => ?_)
    | lift_lets -underBinder | split))
theorem State.pump_stores {s : State} (h : s.Keeps) : (State.pump s).Keeps := by
  unfold State.pump
  repeat (any_goals (with_reducible first
    | assumption | refine State.each_stores ?_ ?_ | refine State.intoBatch_stores ?_ | refine State.closeBatch_stores ?_
    | refine keeps_ite (fun _ => ?_) (fun _ => ?_) | (intro x; try clear_value x) | split))
theorem State.receive_stores {s : State} {x1 : Hdr} {op : Nat} (h : s.Keeps) : (State.receive s x1 op).Keeps := by
  unfold State.receive
  repeat (any_goals (with_reducible first
    | assumption | refine State.onLinks_stores ?_ | refine State.serveUnknown_stores ?_ | refine keeps_ite (fun _ => ?_) (fun _ => ?_)
    | (intro x; refine keeps_let (x := x) ?_ ?_; unfold x; rotate_left; intro hx; clear_value x) | lift_lets -underBinder | split))
theorem State.progressEvent_stores {s : State} {tag : U16} {code : Nat} {old : Nat} {new : Nat} {total : Nat} (h : s.Keeps) :
    (State.progressEvent s tag code old new total).Keeps := by
  unfold State.progressEvent
  repeat (any_goals (with_reducible first
    | assumption | refine State.pushEvent_stores ?_ | refine keeps_ite (fun _ => ?_) (fun _ => ?_)))
theorem State.progress_stores {s : State} {tag : U16} {done : Nat} {total : Nat} (h : s.Keeps) :
    (State.progress s tag done total).Keeps := by
  unfold State.progress
  repeat (any_goals (with_reducible first
    | assumption | refine State.onLinks_stores ?_ | refine State.progressEvent_stores ?_ | split))
theorem State.steps_stores {s : State} {tag : U16} {n : Nat} (h : s.Keeps) : (State.steps s tag n).Keeps := by
  induction n generalizing s with
  | zero => exact h
  | succ f ih =>
    unfold State.steps
    repeat (any_goals (with_reducible first
      | assumption | apply ih | refine State.progress_stores ?_ | refine keeps_ite (fun _ => ?_) (fun _ => ?_) | split))
theorem State.lastSteps_stores {s : State} {tag : U16} (h : s.Keeps) : (State.lastSteps s tag).Keeps := by
  unfold State.lastSteps
  repeat (any_goals (with_reducible first
    | assumption | refine State.steps_stores ?_ | split))
theorem State.resendAll_stores {s : State} {p : U32 → Bool} (h : s.Keeps) : (State.resendAll s p).Keeps := by
  unfold State.resendAll
  repeat (any_goals (with_reducible first
    | assumption | refine State.onLinks_stores ?_ | refine State.onDlv_stores ?_))
theorem State.setEndpoint_stores {s : State} {e : Src} (h : s.Keeps) : (State.setEndpoint s e).Keeps := by
  unfold State.setEndpoint
  repeat (any_goals (with_reducible first
    | assumption | refine State.resendAll_stores ?_ | refine State.onLinks_stores ?_ | refine keeps_ite (fun _ => ?_) (fun _ => ?_)))
theorem State.command_stores {s : State} {h : Hdr} {op : Nat} {c : State → Check} {act : State → State} (hs : s.Keeps) (ka : ∀ t : State, t.Keeps → (act t).Keeps) :
    (s.command h op c act).Keeps := by
  unfold State.command
  repeat (any_goals (with_reducible first
    | assumption | refine State.checked_stores ?_ ka | refine State.setIrq_stores ?_ | refine State.onLinks_stores ?_ | refine State.discard_stores ?_
    | refine State.receive_stores ?_ | refine keeps_ite (fun _ => ?_) (fun _ => ?_) | lift_lets -underBinder | split))
theorem State.deliver_stores {s : State} {mk : U32 → Bytes} (h : s.Keeps) : (State.deliver s mk).Keeps := by
  unfold State.deliver
  repeat (any_goals (with_reducible first
    | assumption | refine State.onDlv_stores ?_ | refine State.dropEvent_stores ?_ | refine State.onLinks_stores ?_ | refine State.onCnt_stores ?_
    | refine State.pump_stores ?_ | refine keeps_ite (fun _ => ?_) (fun _ => ?_)))
theorem State.queued_stores {s : State} {x1 : Hdr} {op : Nat} {long : Bool} (h : s.Keeps) : (State.queued s x1 op long).Keeps := by
  unfold State.queued
  repeat (any_goals (with_reducible first
    | assumption | refine State.post_stores ?_ | refine State.hold_stores ?_))
theorem State.sendEth_stores {s : State} {dst : Src} {data : Bytes} (h : s.Keeps) : (State.sendEth s dst data).Keeps := by
  unfold State.sendEth
  repeat (any_goals (with_reducible first
    | assumption | refine State.onLinks_stores ?_))
theorem State.finish_stores {s : State} {tag : U16} {st : Status} {payload : Bytes} (h : s.Keeps) :
    (State.finish s tag st payload).Keeps := by
  unfold State.finish
  repeat (any_goals (with_reducible first
    | assumption | refine State.final_stores ?_ | split))
theorem State.turnLane_stores {s : State} {i : Nat} {run : Bool} {clear : Bool} {arm : Nat} (h : s.Keeps) :
    (State.turnLane s i run clear arm).Keeps := by
  unfold State.turnLane
  repeat (any_goals (with_reducible first
    | assumption | refine State.onLane_stores ?_))
theorem State.restartLane_stores {s : State} {i : Nat} (h : s.Keeps) : (State.restartLane s i).Keeps := by
  unfold State.restartLane
  repeat (any_goals (with_reducible first
    | assumption | refine State.onLane_stores ?_ | refine State.turnLane_stores ?_))
theorem State.followLane_stores {s : State} {i : Nat} (h : s.Keeps) : (State.followLane s i).Keeps := by
  unfold State.followLane
  repeat (any_goals (with_reducible first
    | assumption | refine State.restartLane_stores ?_ | refine State.moveLane_stores ?_ | refine State.turnLane_stores ?_
    | refine keeps_ite (fun _ => ?_) (fun _ => ?_)))
theorem State.followLanes_stores {s : State} {pair : Nat} (h : s.Keeps) : (State.followLanes s pair).Keeps := by
  unfold State.followLanes
  repeat (any_goals (with_reducible first
    | assumption | refine State.each_stores ?_ ?_ | refine State.followLane_stores ?_ | (intro x; try clear_value x)))
theorem State.followAll_stores {s : State} (h : s.Keeps) : (State.followAll s).Keeps := by
  unfold State.followAll
  repeat (any_goals (with_reducible first
    | assumption | refine State.followLanes_stores ?_))
theorem State.cutLanes_stores {s : State} {pair : Nat} (h : s.Keeps) : (State.cutLanes s pair).Keeps := by
  unfold State.cutLanes
  repeat (any_goals (with_reducible first
    | assumption | refine State.each_stores ?_ ?_ | refine State.onLane_stores ?_ | (intro x; try clear_value x)))
theorem State.streamFault_stores {s : State} {idx : Nat} {kind : Nat} {ppm : Int} (h : s.Keeps) :
    (State.streamFault s idx kind ppm).Keeps := by
  unfold State.streamFault
  repeat (any_goals (with_reducible first
    | assumption | refine State.raise_stores ?_))
theorem State.resumeGroup_stores {s : State} {g : Nat} (h : s.Keeps) : (State.resumeGroup s g).Keeps := by
  unfold State.resumeGroup
  repeat (any_goals (with_reducible first
    | assumption | refine State.onGroup_stores ?_ | refine State.moveGroup_stores ?_ | refine State.streamFault_stores ?_))
theorem State.stallGroup_stores {s : State} {g : Nat} (h : s.Keeps) : (State.stallGroup s g).Keeps := by
  unfold State.stallGroup
  repeat (any_goals (with_reducible first
    | assumption | refine State.onGroup_stores ?_ | refine State.moveGroup_stores ?_ | refine State.streamFault_stores ?_))
theorem State.resumeInner_stores {s : State} (h : s.Keeps) : (State.resumeInner s).Keeps := by
  unfold State.resumeInner
  repeat (any_goals (with_reducible first
    | assumption | refine State.each_stores ?_ ?_ | refine State.resumeGroup_stores ?_ | (intro x; try clear_value x)))
theorem State.stallInner_stores {s : State} (h : s.Keeps) : (State.stallInner s).Keeps := by
  unfold State.stallInner
  repeat (any_goals (with_reducible first
    | assumption | refine State.each_stores ?_ ?_ | refine State.stallGroup_stores ?_ | (intro x; try clear_value x)))
theorem State.addDuty_stores {s : State} {rule : Nat} {a : Nat} {b : Nat} (h : s.Keeps) : (State.addDuty s rule a b).Keeps := by
  unfold State.addDuty
  repeat (any_goals (with_reducible first
    | assumption | refine State.onTx_stores ?_))
theorem State.umpireDeny_stores {s : State} {tag : Nat} {rule : Nat} {reason : Nat} (h : s.Keeps) :
    (State.umpireDeny s tag rule reason).Keeps := by
  unfold State.umpireDeny
  repeat (any_goals (with_reducible first
    | assumption | refine State.pushEvent_stores ?_))
theorem State.takeSamples_stores {s : State} (h : s.Keeps) : (State.takeSamples s).Keeps := by
  unfold State.takeSamples
  repeat (any_goals (with_reducible first
    | assumption | refine State.onTime_stores ?_))
theorem State.meterKey_stores {s : State} {index : Nat} (h : s.Keeps) : (State.meterKey s index).1.Keeps := by
  unfold State.meterKey
  repeat (any_goals (with_reducible first
    | assumption | refine State.onDir_stores ?_ | refine State.onEng_stores ?_ | split))
theorem State.mismatch_stores {s : State} {index : Nat} {mode : Nat} (h : s.Keeps) : (State.mismatch s index mode).Keeps := by
  unfold State.mismatch
  repeat (any_goals (with_reducible first
    | assumption | refine State.onDir_stores ?_ | refine State.pushEvent_stores ?_ | refine keeps_ite (fun _ => ?_) (fun _ => ?_)
    | (intro x; try clear_value x) | lift_lets -underBinder | split))
theorem State.decrypt_stores {s : State} {index : Nat} {x2 : Header} {frame : Bytes} (h : s.Keeps) :
    (s.decrypt index x2 frame).1.Keeps := by
  have failed : ∀ {t : State} {f : EngCounters → EngCounters} {g : DirEntry → DirEntry}, t.Keeps → (((t.onEng f).onEntry index g).mismatch index x2.mode).Keeps :=
    fun k => State.mismatch_stores (State.onEntry_stores (State.onEng_stores k))
  have key : (s.meterKey index).1.Keeps := State.meterKey_stores h
  unfold State.decrypt
  dsimp only
  repeat' (first | refine keepsFst_ite (fun _ => ?_) (fun _ => ?_) | refine keeps_ite (fun _ => ?_) (fun _ => ?_))
  all_goals (try dsimp only)
  all_goals first
    | exact h | exact key | exact State.onEng_stores h | exact failed h | exact failed key | exact State.onEng_stores key | exact State.onEntry_stores (State.onEng_stores key)
theorem State.noteArrival_stores {s : State} {r : TelRec} (h : s.Keeps) : (State.noteArrival s r).Keeps := by
  unfold State.noteArrival
  repeat (any_goals (with_reducible first
    | assumption | refine State.onEntry_stores ?_ | refine keeps_ite (fun _ => ?_) (fun _ => ?_) | split))
theorem State.dropKey_stores {s : State} {index : Nat} (h : s.Keeps) : (State.dropKey s index).Keeps := by
  unfold State.dropKey
  repeat (any_goals (with_reducible first
    | assumption | refine State.onDir_stores ?_))
theorem State.deliverTel_stores {s : State} {r : TelRec} (h : s.Keeps) : (State.deliverTel s r).Keeps := by
  unfold State.deliverTel
  repeat (any_goals (with_reducible first
    | assumption | refine State.noteArrival_stores ?_ | refine State.deliver_stores ?_))
theorem State.intoHold_stores {s : State} {r : TelRec} (h : s.Keeps) : (State.intoHold s r).Keeps := by
  unfold State.intoHold
  repeat (any_goals (with_reducible first
    | assumption | refine State.onEng_stores ?_ | refine State.onDir_stores ?_ | refine State.deliverTel_stores ?_
    | refine keeps_ite (fun _ => ?_) (fun _ => ?_) | split))
theorem State.processFrame_stores {s : State} {f : Frame} (h : s.Keeps) : (State.processFrame s f).Keeps := by
  unfold State.processFrame
  repeat (any_goals (with_reducible first
    | assumption | refine State.intoHold_stores ?_ | refine State.onEng_stores ?_ | refine State.onEntry_stores ?_ | refine State.decrypt_stores ?_
    | refine keeps_ite (fun _ => ?_) (fun _ => ?_) | (intro x; try clear_value x) | lift_lets -underBinder | split))
theorem State.dropSlot_stores {s : State} {index : Nat} (h : s.Keeps) : (State.dropSlot s index).Keeps := by
  unfold State.dropSlot
  repeat (any_goals (with_reducible first
    | assumption | refine State.onDir_stores ?_))
theorem State.addSlot_stores {s : State} {a : Addr} {index : Nat} (h : s.Keeps) : (State.addSlot s a index).Keeps := by
  unfold State.addSlot
  repeat (any_goals (with_reducible first
    | assumption | refine State.onDir_stores ?_))
theorem State.rebuildSlots_stores {s : State} (h : s.Keeps) : (State.rebuildSlots s).Keeps := by
  unfold State.rebuildSlots
  repeat (any_goals (with_reducible first
    | assumption | refine State.onDir_stores ?_ | refine State.each_stores ?_ ?_ | refine State.addSlot_stores ?_ | (intro x; try clear_value x)))
theorem State.trimStep_stores {s : State} {ofRun : Bool} {failed : Bool} (h : s.Keeps) : (State.trimStep s ofRun failed).Keeps := by
  unfold State.trimStep
  repeat (any_goals (with_reducible first
    | assumption | refine State.onTrim_stores ?_ | refine State.progress_stores ?_ | refine keeps_ite (fun _ => ?_) (fun _ => ?_)
    | lift_lets -underBinder | split))
theorem State.noteBlank_stores {s : State} {b : Band} {t0 : Nat} {t1 : Nat} (h : s.Keeps) : (State.noteBlank s b t0 t1).Keeps := by
  unfold State.noteBlank
  repeat (any_goals (with_reducible first
    | assumption | refine State.onTxb_stores ?_))
theorem State.trimBlank_stores {s : State} {n : TrimNow} {till : Nat} (h : s.Keeps) : (State.trimBlank s n till).Keeps := by
  unfold State.trimBlank
  repeat (any_goals (with_reducible first
    | assumption | refine State.noteBlank_stores ?_ | refine keeps_ite (fun _ => ?_) (fun _ => ?_) | split))
theorem State.catchService_stores {s : State} (h : s.Keeps) : (State.catchService s).Keeps := by
  unfold State.catchService
  repeat (any_goals (with_reducible first
    | assumption | refine State.onTrim_stores ?_))
theorem State.trimPause_stores {s : State} {chain : Nat} (h : s.Keeps) : (State.trimPause s chain).Keeps := by
  unfold State.trimPause
  repeat (any_goals (with_reducible first
    | assumption | refine State.onTrim_stores ?_))
theorem State.trimLost_stores {s : State} {ofRun : Bool} (h : s.Keeps) : (State.trimLost s ofRun).Keeps := by
  unfold State.trimLost
  repeat (any_goals (with_reducible first
    | assumption | refine State.trimStep_stores ?_ | refine State.onTrim_stores ?_))
theorem State.trimSkip_stores {s : State} {code : Nat} {ofRun : Bool} {failed : Bool} {mark : Bool} (h : s.Keeps) :
    (State.trimSkip s code ofRun failed mark).Keeps := by
  unfold State.trimSkip
  repeat (any_goals (with_reducible first
    | assumption | refine State.onTrim_stores ?_ | refine State.trimLost_stores ?_ | refine State.trimStep_stores ?_
    | refine keeps_ite (fun _ => ?_) (fun _ => ?_)))
theorem State.trimNext_stores {s : State} {fuel : Nat} (h : s.Keeps) : (State.trimNext s fuel).Keeps := by
  induction fuel generalizing s with
  | zero => exact h
  | succ f ih =>
    unfold State.trimNext
    repeat (any_goals (with_reducible first
      | assumption | apply ih | refine State.trimSkip_stores ?_ | refine State.umpireDeny_stores ?_ | refine State.onTrim_stores ?_
      | refine State.followAll_stores ?_ | refine keeps_ite (fun _ => ?_) (fun _ => ?_) | (intro x; try clear_value x) | lift_lets -underBinder
      | split))
theorem State.trimServe_stores {s : State} (h : s.Keeps) : (State.trimServe s).Keeps := by
  unfold State.trimServe
  repeat (any_goals (with_reducible first
    | assumption | refine State.trimNext_stores ?_ | refine State.onTrim_stores ?_ | refine keeps_ite (fun _ => ?_) (fun _ => ?_)))
theorem State.trimAuto_stores {s : State} {codes : List Nat} {boot : Bool} (h : s.Keeps) : (State.trimAuto s codes boot).Keeps := by
  unfold State.trimAuto
  repeat (any_goals (with_reducible first
    | assumption | refine State.trimServe_stores ?_ | refine State.onTrim_stores ?_ | refine keeps_ite (fun _ => ?_) (fun _ => ?_)))
theorem State.trimDuty_stores {s : State} {n : TrimNow} (h : s.Keeps) : (State.trimDuty s n).Keeps := by
  unfold State.trimDuty
  repeat (any_goals (with_reducible first
    | assumption | refine State.addDuty_stores ?_ | refine keeps_ite (fun _ => ?_) (fun _ => ?_) | lift_lets -underBinder | split))
theorem State.trimAbort_stores {s : State} (h : s.Keeps) : (State.trimAbort s).Keeps := by
  unfold State.trimAbort
  repeat (any_goals (with_reducible first
    | assumption | refine State.followAll_stores ?_ | refine State.trimNext_stores ?_ | refine State.trimLost_stores ?_ | refine State.trimBlank_stores ?_
    | refine State.trimDuty_stores ?_ | refine State.onTrim_stores ?_ | split))
theorem State.trimLoseChain_stores {s : State} {chain : Nat} (h : s.Keeps) : (State.trimLoseChain s chain).Keeps := by
  unfold State.trimLoseChain
  repeat (any_goals (with_reducible first
    | assumption | refine State.each_stores ?_ ?_ | refine State.onTrim_stores ?_ | refine State.trimLost_stores ?_ | refine State.trimAbort_stores ?_
    | refine keeps_ite (fun _ => ?_) (fun _ => ?_) | (intro x; try clear_value x)))
theorem State.trimEndChain_stores {s : State} {chain : Nat} (h : s.Keeps) : (State.trimEndChain s chain).Keeps := by
  unfold State.trimEndChain
  repeat (any_goals (with_reducible first
    | assumption | refine State.trimLoseChain_stores ?_ | refine keeps_ite (fun _ => ?_) (fun _ => ?_)))
theorem State.trimResume_stores {s : State} {chain : Nat} (h : s.Keeps) : (State.trimResume s chain).Keeps := by
  unfold State.trimResume
  repeat (any_goals (with_reducible first
    | assumption | refine State.onLinks_stores ?_ | refine State.onTrim_stores ?_ | refine keeps_ite (fun _ => ?_) (fun _ => ?_) | split))
theorem State.catchTrim_stores {s : State} (h : s.Keeps) : (State.catchTrim s).Keeps := by
  unfold State.catchTrim
  repeat (any_goals (with_reducible first
    | assumption | refine State.trimServe_stores ?_ | refine State.trimAuto_stores ?_))
theorem State.onEngine_stores {s : State} {e : Nat} {f : Patrol → Patrol} (h : s.Keeps) : (State.onEngine s e f).Keeps := by
  unfold State.onEngine
  repeat (any_goals (with_reducible first
    | assumption | refine State.onMem_stores ?_ ?_ | (intro x; try clear_value x)))
theorem State.setBorrowed_stores {s : State} {w : Nat} {b : Bool} (h : s.Keeps) : (State.setBorrowed s w b).Keeps := by
  unfold State.setBorrowed
  repeat (any_goals (with_reducible first
    | assumption | refine State.onInst_stores ?_ | split))
theorem State.countMem_stores {s : State} {i : Nat} (h : s.Keeps) : (State.countMem s i).Keeps := by
  unfold State.countMem
  repeat (any_goals (with_reducible first
    | assumption | refine State.onMem_stores ?_ ?_ | (intro x; try clear_value x)))
theorem State.patrolStep_stores {s : State} {x1 : Nat} (h : s.Keeps) : (State.patrolStep s x1).Keeps := by
  unfold State.patrolStep
  repeat (any_goals (with_reducible first
    | assumption | refine State.onMem_stores ?_ ?_ | refine State.progressEvent_stores ?_ | (intro x; try clear_value x) | split))
theorem State.endSweep_stores {s : State} (h : s.Keeps) : (State.endSweep s).Keeps := by
  unfold State.endSweep
  repeat (any_goals (with_reducible first
    | assumption | refine State.countMem_stores ?_ | refine State.onMem_stores ?_ ?_ | refine keeps_ite (fun _ => ?_) (fun _ => ?_)
    | (intro x; try clear_value x)))
theorem State.nextWindow_stores {s : State} {e : Nat} {fuel : Nat} (h : s.Keeps) : (State.nextWindow s e fuel).Keeps := by
  induction fuel generalizing s with
  | zero => exact h
  | succ f ih =>
    unfold State.nextWindow
    repeat (any_goals (with_reducible first
      | assumption | apply ih | refine State.onEngine_stores ?_ | refine State.setBorrowed_stores ?_ | refine State.patrolStep_stores ?_
      | refine keeps_ite (fun _ => ?_) (fun _ => ?_) | lift_lets -underBinder | split))
theorem State.releaseWindow_stores {s : State} {e : Nat} {w : Nat} {again : Bool} (h : s.Keeps) :
    (State.releaseWindow s e w again).Keeps := by
  unfold State.releaseWindow
  repeat (any_goals (with_reducible first
    | assumption | refine State.setBorrowed_stores ?_ | refine State.onEngine_stores ?_ | refine State.countMem_stores ?_ | refine State.patrolStep_stores ?_
    | refine State.endSweep_stores ?_ | refine State.nextWindow_stores ?_ | refine keeps_ite (fun _ => ?_) (fun _ => ?_)))
theorem State.leaveOn_stores {s : State} {n : Nat} (h : s.Keeps) : (State.leaveOn s n).Keeps := by
  unfold State.leaveOn
  repeat (any_goals (with_reducible first
    | assumption | refine State.releaseWindow_stores ?_ | refine keeps_ite (fun _ => ?_) (fun _ => ?_) | (intro x; try clear_value x)
    | lift_lets -underBinder | split))
theorem State.loseInst_stores {s : State} {n : Nat} (h : s.Keeps) : (s.loseInst n).Keeps :=
  State.draw_stores (State.onInst_stores (State.onMem_stores h fun k => ⟨cellsWf_filter _ _ _ k.cells, k.active, k.shadow⟩))
theorem State.setPower_stores {s : State} {n : Nat} {p : Nat} (h : s.Keeps) : (State.setPower s n p).Keeps := by
  unfold State.setPower
  repeat (any_goals (with_reducible first
    | assumption | refine State.onInst_stores ?_ | refine State.leaveOn_stores ?_ | refine State.loseInst_stores ?_
    | refine keeps_ite (fun _ => ?_) (fun _ => ?_)))
theorem State.setPowers_stores {s : State} {l : List Nat} {p : Nat} (h : s.Keeps) : (State.setPowers s l p).Keeps := by
  unfold State.setPowers
  repeat (any_goals (with_reducible first
    | assumption | refine State.each_stores ?_ ?_ | refine State.setPower_stores ?_ | (intro x; try clear_value x)))
theorem State.pokeByte_stores {s : State} {a : Nat} {b : U8} (h : s.Keeps) : (s.pokeByte a b).Keeps := by
  unfold State.pokeByte
  split <;> exact State.onMem_stores h fun k => ⟨cellsWf_writeCell _ _ _ _ k.cells, k.active, k.shadow⟩
theorem State.pokeBytes_stores {s : State} {a : Nat} {b : Bytes} (h : s.Keeps) : (s.pokeBytes a b).Keeps := by
  induction b generalizing s a with
  | nil => exact h
  | cons b bs ih => exact ih (State.pokeByte_stores h)
theorem State.touchWindow_stores {s : State} {a : Nat} (h : s.Keeps) : (State.touchWindow s a).Keeps := by
  unfold State.touchWindow
  repeat (any_goals (with_reducible first
    | assumption | refine State.onEngine_stores ?_ | refine keeps_ite (fun _ => ?_) (fun _ => ?_) | split))
theorem State.memWrite_stores {s : State} {a : Nat} {b : Bytes} (h : s.Keeps) : (State.memWrite s a b).Keeps := by
  unfold State.memWrite
  repeat (any_goals (with_reducible first
    | assumption | refine State.pokeBytes_stores ?_ | refine State.touchWindow_stores ?_ | refine keeps_ite (fun _ => ?_) (fun _ => ?_)))
theorem State.wordFails_stores {s : State} {w : Nat} {x2 : Nat} {readBackBad : Bool} (h : s.Keeps) :
    (State.wordFails s w x2 readBackBad).Keeps := by
  unfold State.wordFails
  repeat (any_goals (with_reducible first
    | assumption | refine State.countMem_stores ?_ | refine State.onInst_stores ?_ | refine State.onMem_stores ?_ ?_ | refine State.onTrim_stores ?_
    | refine State.draw_stores ?_ | refine State.pokeBytes_stores ?_ | refine keeps_ite (fun _ => ?_) (fun _ => ?_) | (intro x; try clear_value x)
    | lift_lets -underBinder | split))
theorem execPatrolWindowDone_stores {engine : Fin 9} {badWord : Option Nat} {readBackBad : Bool} {s : State} (h : s.Keeps) : KeepsOut (execPatrolWindowDone engine badWord readBackBad s) := by
  unfold execPatrolWindowDone
  repeat (any_goals (with_reducible first
    | assumption | refine State.wordFails_stores ?_ | refine State.releaseWindow_stores ?_ | refine State.countMem_stores ?_ | refine keeps_next ?_
    | lift_lets -underBinder | split))
theorem execPatrolSweepStart_stores {s : State} (h : s.Keeps) : KeepsOut (execPatrolSweepStart s) := by
  unfold execPatrolSweepStart
  repeat (any_goals (with_reducible first
    | assumption | refine State.at_stores ?_ | refine State.onMem_stores ?_ ?_ | refine State.each_stores ?_ ?_ | refine State.nextWindow_stores ?_
    | refine State.onEngine_stores ?_ | refine State.endSweep_stores ?_ | refine keeps_next ?_ | refine keepsOut_ite (fun _ => ?_) (fun _ => ?_)
    | (intro x; try clear_value x) | split))
theorem execPatrolWriteBackDone_stores {engine : Fin 9} {s : State} (h : s.Keeps) : KeepsOut (execPatrolWriteBackDone engine s) := by
  unfold execPatrolWriteBackDone
  repeat (any_goals (with_reducible first
    | assumption | refine State.releaseWindow_stores ?_ | refine keeps_next ?_ | split))
theorem State.wakeInst_stores {s : State} {n : Nat} (h : s.Keeps) : (State.wakeInst s n).Keeps := by
  unfold State.wakeInst
  repeat (any_goals (with_reducible first
    | assumption | refine State.countMem_stores ?_ | refine State.onInst_stores ?_ | refine keeps_ite (fun _ => ?_) (fun _ => ?_)))
theorem State.runLane_stores {s : State} {n : Nat} {jb : Nat} {l : List BinSample} {i : Nat} (h : s.Keeps) :
    (State.runLane s n jb l i).Keeps := by
  unfold State.runLane
  repeat (any_goals (with_reducible first
    | assumption | refine State.setLane_stores ?_ | refine State.memWrite_stores ?_
    | (intro x; refine keeps_let (x := x) ?_ ?_; unfold x; rotate_left; intro hx; clear_value x) | (intro x; try clear_value x)
    | lift_lets -underBinder | split))
theorem State.feedBin_stores {s : State} {n : Nat} {pair : Nat} {bin : Nat} {l : List BinSample} (h : s.Keeps) :
    (State.feedBin s n pair bin l).Keeps := by
  unfold State.feedBin
  repeat (any_goals (with_reducible first
    | assumption | refine State.onRx_stores ?_ | refine State.each_stores ?_ ?_ | refine State.runLane_stores ?_ | (intro x; try clear_value x)))
theorem State.fillBins_stores {s : State} {n : Nat} (h : s.Keeps) : (State.fillBins s n).Keeps := by
  unfold State.fillBins
  repeat (any_goals (with_reducible first
    | assumption | refine State.onRx_stores ?_ | refine State.each_stores ?_ ?_ | refine State.feedBin_stores ?_ | (intro x; try clear_value x)))
theorem State.preamble_stores {s : State} {i : Nat} {l : List BinSample} (h : s.Keeps) : (State.preamble s i l).Keeps := by
  unfold State.preamble
  repeat (any_goals (with_reducible first
    | assumption | refine State.feedBin_stores ?_ | refine State.at_stores ?_))
theorem State.giveUp_stores {s : State} {l : List Held} (h : s.Keeps) : (State.giveUp s l).Keeps := by
  unfold State.giveUp
  repeat (any_goals (with_reducible first
    | assumption | refine State.onRx_stores ?_))
theorem State.dropKept_stores {s : State} {i : Nat} (h : s.Keeps) : (State.dropKept s i).Keeps := by
  unfold State.dropKept
  repeat (any_goals (with_reducible first
    | assumption | refine State.onCtx_stores ?_ | refine State.giveUp_stores ?_))
theorem State.retain_stores {s : State} {i : Nat} {x2 : Held} (h : s.Keeps) : (State.retain s i x2).Keeps := by
  unfold State.retain
  repeat (any_goals (with_reducible first
    | assumption | refine State.onCtx_stores ?_ | refine State.onRx_stores ?_ | refine State.onCap_stores ?_ | refine State.dropKept_stores ?_
    | refine keeps_ite (fun _ => ?_) (fun _ => ?_)))
theorem State.pairUp_stores {s : State} {i : Nat} (h : s.Keeps) : (State.pairUp s i).Keeps := by
  unfold State.pairUp
  repeat (any_goals (with_reducible first
    | assumption | refine State.each_stores ?_ ?_ | refine State.onCap_stores ?_ | refine State.onCtx_stores ?_ | refine keeps_ite (fun _ => ?_) (fun _ => ?_)
    | (intro x; try clear_value x)))
theorem State.dropTail_stores {s : State} {i : Nat} (h : s.Keeps) : (State.dropTail s i).Keeps := by
  unfold State.dropTail
  repeat (any_goals (with_reducible first
    | assumption | refine State.onCtx_stores ?_ | refine State.giveUp_stores ?_))
theorem State.freeOne_stores {s : State} {i : Nat} (h : s.Keeps) : (State.freeOne s i).Keeps := by
  unfold State.freeOne
  repeat (any_goals (with_reducible first
    | assumption | refine State.dropTail_stores ?_ | refine State.dropKept_stores ?_ | refine State.onRx_stores ?_))
theorem State.resolveOnce_stores {s : State} {lane : Nat} (h : s.Keeps) : (State.resolveOnce s lane).Keeps := by
  unfold State.resolveOnce
  repeat (any_goals (with_reducible first
    | assumption | refine State.each_stores ?_ ?_ | refine State.onCap_stores ?_ | refine State.freeOne_stores ?_
    | refine keeps_ite (fun _ => ?_) (fun _ => ?_) | (intro x; try clear_value x)))
theorem State.resolveWaiting_stores {s : State} {lane : Nat} (h : s.Keeps) : (State.resolveWaiting s lane).Keeps := by
  unfold State.resolveWaiting
  repeat (any_goals (with_reducible first
    | assumption | refine State.resolveOnce_stores ?_))
theorem State.endOne_stores {s : State} {i : Nat} (h : s.Keeps) : (State.endOne s i).Keeps := by
  unfold State.endOne
  repeat (any_goals (with_reducible first
    | assumption | refine State.onCnt_stores ?_ | refine State.resolveWaiting_stores ?_ | refine State.freeOne_stores ?_
    | refine keeps_ite (fun _ => ?_) (fun _ => ?_)))
theorem State.settleCtx_stores {s : State} {i : Nat} (h : s.Keeps) : (State.settleCtx s i).Keeps := by
  unfold State.settleCtx
  repeat (any_goals (with_reducible first
    | assumption | refine State.endOne_stores ?_ | refine keeps_ite (fun _ => ?_) (fun _ => ?_) | split))
theorem State.endCtx_stores {s : State} {i : Nat} (h : s.Keeps) : (State.endCtx s i).Keeps := by
  unfold State.endCtx
  repeat (any_goals (with_reducible first
    | assumption | refine State.each_stores ?_ ?_ | refine State.endOne_stores ?_ | refine State.settleCtx_stores ?_ | (intro x; try clear_value x)))
theorem State.abortCtx_stores {s : State} {event : Bool} {i : Nat} (h : s.Keeps) : (State.abortCtx s event i).Keeps := by
  unfold State.abortCtx
  repeat (any_goals (with_reducible first
    | assumption | refine State.endCtx_stores ?_ | refine State.onCnt_stores ?_ | refine State.missedEvent_stores ?_
    | refine keeps_ite (fun _ => ?_) (fun _ => ?_)))
theorem State.issueOrder_stores {s : State} {o : Order} (h : s.Keeps) : (State.issueOrder s o).Keeps := by
  unfold State.issueOrder
  repeat (any_goals (with_reducible first
    | assumption | refine State.onRx_stores ?_ | split))
theorem State.issueCtx_stores {s : State} {i : Nat} (h : s.Keeps) : (State.issueCtx s i).Keeps := by
  unfold State.issueCtx
  repeat (any_goals (with_reducible first
    | assumption | refine State.each_stores ?_ ?_ | refine State.onCtx_stores ?_ | (intro x; try clear_value x)))
theorem State.issueAll_stores {s : State} (h : s.Keeps) : (State.issueAll s).Keeps := by
  unfold State.issueAll
  repeat (any_goals (with_reducible first
    | assumption | refine State.each_stores ?_ ?_ | refine State.onRx_stores ?_ | refine State.issueOrder_stores ?_ | refine State.issueCtx_stores ?_
    | (intro x; try clear_value x)))
theorem State.resetScull_stores {s : State} {c : Nat} (h : s.Keeps) : (State.resetScull s c).Keeps := by
  unfold State.resetScull
  repeat (any_goals (with_reducible first
    | assumption | refine State.flagFall_stores ?_ | refine State.setScull_stores ?_ | refine State.each_stores ?_ ?_ | refine State.abortCtx_stores ?_
    | refine State.issueAll_stores ?_ | refine State.onRx_stores ?_ | refine keeps_ite (fun _ => ?_) (fun _ => ?_) | (intro x; try clear_value x)))
theorem State.openCtx_stores {s : State} {i : Nat} {lane : Nat} {scull : Nat} {x4 : Hit} {stroke : Nat} {sweep : Bool} (h : s.Keeps) :
    (State.openCtx s i lane scull x4 stroke sweep).Keeps := by
  unfold State.openCtx
  repeat (any_goals (with_reducible first
    | assumption | refine State.setCtx_stores ?_))
theorem State.closeSweep_stores {s : State} {i : Nat} {skipped : Bool} (h : s.Keeps) : (State.closeSweep s i skipped).Keeps := by
  unfold State.closeSweep
  repeat (any_goals (with_reducible first
    | assumption | refine State.onCnt_stores ?_ | refine State.onCap_stores ?_ | refine State.settleCtx_stores ?_ | refine State.onCtx_stores ?_
    | refine State.dropTail_stores ?_ | refine keeps_ite (fun _ => ?_) (fun _ => ?_)))
theorem State.cancelInto_stores {s : State} {src : Nat} {i : Nat} (h : s.Keeps) : (State.cancelInto s src i).Keeps := by
  unfold State.cancelInto
  repeat (any_goals (with_reducible first
    | assumption | refine State.onCtx_stores ?_ | refine State.each_stores ?_ ?_ | refine State.retain_stores ?_ | refine State.onCap_stores ?_
    | refine State.issueCtx_stores ?_ | refine State.onRx_stores ?_ | refine keeps_ite (fun _ => ?_) (fun _ => ?_)
    | (intro x; refine keeps_let (x := x) ?_ ?_; unfold x; rotate_left; intro hx; clear_value x) | (intro x; try clear_value x)
    | lift_lets -underBinder | split))
theorem State.startSweep_stores {s : State} {i : Nat} (h : s.Keeps) : (State.startSweep s i).Keeps := by
  unfold State.startSweep
  repeat (any_goals (with_reducible first
    | assumption | refine State.issueCtx_stores ?_ | refine State.onCap_stores ?_ | refine State.onCtx_stores ?_
    | refine keeps_ite (fun _ => ?_) (fun _ => ?_) | lift_lets -underBinder | split))
theorem State.afterPass_stores {s : State} {i : Nat} (h : s.Keeps) : (State.afterPass s i).Keeps := by
  unfold State.afterPass
  repeat (any_goals (with_reducible first
    | assumption | refine State.onCtx_stores ?_ | refine State.each_stores ?_ ?_ | refine State.cancelInto_stores ?_ | refine State.resolveWaiting_stores ?_
    | refine State.startSweep_stores ?_ | refine State.settleCtx_stores ?_ | refine keeps_ite (fun _ => ?_) (fun _ => ?_) | (intro x; try clear_value x)))
theorem State.sameTelegram_stores {s : State} {i : Nat} (h : s.Keeps) : (State.sameTelegram s i).Keeps := by
  unfold State.sameTelegram
  repeat (any_goals (with_reducible first
    | assumption | refine State.endCtx_stores ?_ | refine State.onCnt_stores ?_ | (intro x; try clear_value x) | lift_lets -underBinder | split))
theorem State.giveBlocks_stores {s : State} {i : Nat} {lane : Nat} {src : Option Nat} {j : Nat} (h : s.Keeps) :
    (State.giveBlocks s i lane src j).Keeps := by
  unfold State.giveBlocks
  repeat (any_goals (with_reducible first
    | assumption | refine State.issueCtx_stores ?_ | refine State.onCtx_stores ?_ | refine State.each_stores ?_ ?_ | refine State.retain_stores ?_
    | (intro x; try clear_value x) | split))
theorem State.abortWhere_stores {s : State} {p : Ctx → Bool} (h : s.Keeps) : (State.abortWhere s p).Keeps := by
  unfold State.abortWhere
  repeat (any_goals (with_reducible first
    | assumption | refine State.each_stores ?_ ?_ | refine State.abortCtx_stores ?_ | refine keeps_ite (fun _ => ?_) (fun _ => ?_)
    | (intro x; try clear_value x)))
theorem State.abortFault_stores {s : State} {p : Ctx → Bool} (h : s.Keeps) : (State.abortFault s p).Keeps := by
  unfold State.abortFault
  repeat (any_goals (with_reducible first
    | assumption | refine State.onRx_stores ?_ | refine State.abortWhere_stores ?_))
theorem State.refuseGambit_stores {s : State} (h : s.Keeps) : (State.refuseGambit s).Keeps := by
  unfold State.refuseGambit
  repeat (any_goals (with_reducible first
    | assumption | refine State.onCnt_stores ?_))
theorem State.takeHit_stores {s : State} {lane : Nat} {stroke : Nat} {x3 : Hit} {covered : Bool} {src : Option Nat} (h : s.Keeps) :
    (State.takeHit s lane stroke x3 covered src).Keeps := by
  unfold State.takeHit
  repeat (any_goals (with_reducible first
    | assumption | refine State.refuseGambit_stores ?_ | refine State.giveBlocks_stores ?_ | refine State.openCtx_stores ?_
    | refine keeps_ite (fun _ => ?_) (fun _ => ?_) | lift_lets -underBinder | split))
theorem State.sweepHit_stores {s : State} {src : Nat} {lane : Nat} {x3 : Hit} (h : s.Keeps) : (State.sweepHit s src lane x3).Keeps := by
  unfold State.sweepHit
  repeat (any_goals (with_reducible first
    | assumption | refine State.takeHit_stores ?_ | refine State.onCap_stores ?_ | refine keeps_ite (fun _ => ?_) (fun _ => ?_)))
theorem State.sweepRun_stores {s : State} {i : Nat} {fuel : Nat} {left : Nat} {x4 : List Hit} (h : s.Keeps) :
    (State.sweepRun s i fuel left x4).1.Keeps := by
  induction fuel generalizing s left x4 with
  | zero => exact h
  | succ f ih =>
    unfold State.sweepRun
    repeat (any_goals (with_reducible first
      | assumption | apply ih | refine State.onCtx_stores ?_ | (intro x; try clear_value x) | lift_lets -underBinder | split))
theorem State.sweepOrder_stores {s : State} {i : Nat} (h : s.Keeps) : (State.sweepOrder s i).Keeps := by
  unfold State.sweepOrder
  repeat (any_goals (with_reducible first
    | assumption | refine State.sweepRun_stores ?_ | refine State.onCtx_stores ?_ | refine State.each_stores ?_ ?_ | refine State.sweepHit_stores ?_
    | refine State.closeSweep_stores ?_ | refine State.issueCtx_stores ?_ | refine keeps_ite (fun _ => ?_) (fun _ => ?_) | (intro x; try clear_value x)))
theorem State.abortPair_stores {s : State} {pair : Nat} (h : s.Keeps) : (State.abortPair s pair).Keeps := by
  unfold State.abortPair
  repeat (any_goals (with_reducible first
    | assumption | refine State.abortFault_stores ?_))
theorem State.afterFail_stores {s : State} {i : Nat} (h : s.Keeps) : (State.afterFail s i).Keeps := by
  unfold State.afterFail
  repeat (any_goals (with_reducible first
    | assumption | refine State.onCap_stores ?_ | refine State.each_stores ?_ ?_ | refine State.onCtx_stores ?_ | refine State.cancelInto_stores ?_
    | refine State.settleCtx_stores ?_ | refine State.resolveWaiting_stores ?_ | refine State.dropTail_stores ?_ | refine State.endCtx_stores ?_
    | refine keeps_ite (fun _ => ?_) (fun _ => ?_) | (intro x; try clear_value x)))
theorem State.branchLost_stores {s : State} {chain : Nat} (h : s.Keeps) : (State.branchLost s chain).Keeps := by
  unfold State.branchLost
  repeat (any_goals (with_reducible first
    | assumption | refine State.followLanes_stores ?_ | refine State.abortWhere_stores ?_ | refine keeps_ite (fun _ => ?_) (fun _ => ?_)))
theorem State.confirm_stores {s : State} {i : Nat} {x2 : Confirmed} {now : Block} (h : s.Keeps) : (State.confirm s i x2 now).Keeps := by
  unfold State.confirm
  repeat (any_goals (with_reducible first
    | assumption | refine State.onCtx_stores ?_ | refine State.sameTelegram_stores ?_ | refine State.pairUp_stores ?_
    | refine keeps_ite (fun _ => ?_) (fun _ => ?_)))
theorem State.unpair_stores {s : State} {i : Nat} (h : s.Keeps) : (State.unpair s i).Keeps := by
  unfold State.unpair
  repeat (any_goals (with_reducible first
    | assumption | refine State.resolveWaiting_stores ?_ | refine State.each_stores ?_ ?_ | refine State.onCtx_stores ?_
    | refine keeps_ite (fun _ => ?_) (fun _ => ?_) | (intro x; try clear_value x)))
theorem State.releaseGambit_stores {s : State} {i : Nat} (h : s.Keeps) : (State.releaseGambit s i).Keeps := by
  unfold State.releaseGambit
  repeat (any_goals (with_reducible first
    | assumption | refine State.endCtx_stores ?_ | refine State.onCnt_stores ?_))
theorem State.aimSyn_stores {s : State} {y : Nat} {n : Nat} {d : Nat} (h : s.Keeps) : (State.aimSyn s y n d).Keeps := by
  unfold State.aimSyn
  repeat (any_goals (with_reducible first
    | assumption | refine State.onSynth_stores ?_))
theorem State.hopSyn_stores {s : State} {y : Nat} {n : Nat} {d : Nat} (h : s.Keeps) : (State.hopSyn s y n d).Keeps := by
  unfold State.hopSyn
  repeat (any_goals (with_reducible first
    | assumption | refine State.moveSyn_stores ?_ | refine State.onSynth_stores ?_ | refine State.aimSyn_stores ?_))
theorem State.dropRun_stores {s : State} {b : Band} (h : s.Keeps) : (State.dropRun s b).Keeps := by
  unfold State.dropRun
  repeat (any_goals (with_reducible first
    | assumption | refine State.onTxb_stores ?_ | refine State.hopSyn_stores ?_ | refine keeps_ite (fun _ => ?_) (fun _ => ?_)))
theorem State.countReply_stores {s : State} {i : Nat} (h : s.Keeps) : (State.countReply s i).Keeps := by
  unfold State.countReply
  repeat (any_goals (with_reducible first
    | assumption | refine State.onTx_stores ?_))
theorem State.requeue_stores {s : State} {b : Band} (h : s.Keeps) : (State.requeue s b).Keeps := by
  unfold State.requeue
  repeat (any_goals (with_reducible first
    | assumption | refine State.onTxb_stores ?_ | refine State.dropRun_stores ?_ | split))
theorem State.rampDown_stores {s : State} {b : Band} (h : s.Keeps) : (State.rampDown s b).Keeps := by
  unfold State.rampDown
  repeat (any_goals (with_reducible first
    | assumption | refine State.onTxb_stores ?_ | split))
theorem State.loseTx_stores {s : State} {b : Band} (h : s.Keeps) : (State.loseTx s b).Keeps := by
  unfold State.loseTx
  repeat (any_goals (with_reducible first
    | assumption | refine State.requeue_stores ?_ | refine State.rampDown_stores ?_ | refine State.onTxb_stores ?_))
theorem State.setTuner_stores {s : State} {pair : Nat} {series : Nat} {shunt : Nat} (h : s.Keeps) :
    (State.setTuner s pair series shunt).Keeps := by
  unfold State.setTuner
  repeat (any_goals (with_reducible first
    | assumption | refine State.cutLanes_stores ?_ | refine State.onChain_stores ?_ | refine keeps_ite (fun _ => ?_) (fun _ => ?_)))
theorem State.noteComplete_stores {s : State} {x : TxItem} (h : s.Keeps) : (State.noteComplete s x).Keeps := by
  unfold State.noteComplete
  repeat (any_goals (with_reducible first
    | assumption | refine State.onTx_stores ?_ | refine keeps_ite (fun _ => ?_) (fun _ => ?_)))
theorem State.endItem_stores {s : State} {x : TxItem} {st : Status} {reason : Nat} (h : s.Keeps) : (State.endItem s x st reason).Keeps := by
  unfold State.endItem
  repeat (any_goals (with_reducible first
    | assumption | refine State.countReply_stores ?_ | refine State.finish_stores ?_ | refine State.noteComplete_stores ?_ | refine State.fallLine_stores ?_
    | refine keeps_ite (fun _ => ?_) (fun _ => ?_) | split))
theorem State.answerChain_stores {s : State} {i : Nat} {st : Status} (h : s.Keeps) : (State.answerChain s i st).Keeps := by
  unfold State.answerChain
  repeat (any_goals (with_reducible first
    | assumption | refine State.audit_stores ?_ | refine State.onChain_stores ?_ | refine State.finish_stores ?_ | split))
theorem State.startSyn_stores {s : State} {y : Nat} {n : Nat} {d : Nat} (h : s.Keeps) : (State.startSyn s y n d).Keeps := by
  unfold State.startSyn
  repeat (any_goals (with_reducible first
    | assumption | refine State.moveSyn_stores ?_ | refine State.onSynth_stores ?_ | refine State.aimSyn_stores ?_))
theorem State.wantSyn_stores {s : State} {chain : Nat} {y : Nat} (h : s.Keeps) : (State.wantSyn s chain y).Keeps := by
  unfold State.wantSyn
  repeat (any_goals (with_reducible first
    | assumption | refine State.startSyn_stores ?_ | refine keeps_ite (fun _ => ?_) (fun _ => ?_)))
theorem State.needSyn_stores {s : State} {chain : Nat} (h : s.Keeps) : (State.needSyn s chain).Keeps := by
  unfold State.needSyn
  repeat (any_goals (with_reducible first
    | assumption | refine State.wantSyn_stores ?_ | (intro x; refine keeps_let (x := x) ?_ ?_; unfold x; rotate_left; intro hx; clear_value x)
    | lift_lets -underBinder | split))
theorem State.goChain_stores {s : State} {i : Nat} {target : ChainSt} (h : s.Keeps) : (State.goChain s i target).Keeps := by
  unfold State.goChain
  repeat (any_goals (with_reducible first
    | assumption | refine State.onChain_stores ?_ | refine State.needSyn_stores ?_ | refine keeps_ite (fun _ => ?_) (fun _ => ?_)))
theorem State.serveChain_stores {s : State} {i fuel : Nat} (h : s.Keeps) : (s.serveChain i fuel).Keeps := by
  induction fuel generalizing s with
  | zero => exact h
  | succ f ih =>
    unfold State.serveChain
    dsimp only
    repeat' split
    all_goals first
      | exact h | exact ih (State.answerChain_stores h) | exact State.goChain_stores h | exact State.each_stores h fun _ _ k => State.wantSyn_stores k
theorem State.idleSyn_stores {s : State} {chain : Nat} (h : s.Keeps) : (State.idleSyn s chain).Keeps := by
  unfold State.idleSyn
  repeat (any_goals (with_reducible first
    | assumption | refine State.onSynth_stores ?_ | refine State.moveSyn_stores ?_ | refine keeps_ite (fun _ => ?_) (fun _ => ?_) | split))
theorem State.faultChain_stores {s : State} {i : Nat} (h : s.Keeps) : (State.faultChain s i).Keeps := by
  unfold State.faultChain
  repeat (any_goals (with_reducible first
    | assumption | refine State.onChain_stores ?_ | refine State.moveChain_stores ?_ | refine State.branchLost_stores ?_ | refine State.serveChain_stores ?_
    | refine State.idleSyn_stores ?_ | refine keeps_ite (fun _ => ?_) (fun _ => ?_)))
theorem State.endRun_stores {s : State} {b : Band} (h : s.Keeps) : (State.endRun s b).Keeps := by
  unfold State.endRun
  repeat (any_goals (with_reducible first
    | assumption | refine State.dropRun_stores ?_ | refine State.onChain_stores ?_ | refine State.faultChain_stores ?_
    | refine keeps_ite (fun _ => ?_) (fun _ => ?_) | lift_lets -underBinder | split))
theorem State.expireBand_stores {s : State} {b : Band} {reason : Nat} (h : s.Keeps) : (State.expireBand s b reason).Keeps := by
  unfold State.expireBand
  repeat (any_goals (with_reducible first
    | assumption | refine State.onTxb_stores ?_ | refine State.each_stores ?_ ?_ | refine State.endItem_stores ?_ | refine State.endRun_stores ?_
    | refine keeps_ite (fun _ => ?_) (fun _ => ?_) | (intro x; try clear_value x)))
theorem State.forgetBand_stores {s : State} {y : Nat} (h : s.Keeps) : (State.forgetBand s y).Keeps := by
  unfold State.forgetBand
  repeat (any_goals (with_reducible first
    | assumption | refine State.onSynth_stores ?_))
theorem State.lockFailed_stores {s : State} {i : Nat} {y : Nat} (h : s.Keeps) : (State.lockFailed s i y).Keeps := by
  unfold State.lockFailed
  repeat (any_goals (with_reducible first
    | assumption | refine State.onChain_stores ?_ | refine State.onSynth_stores ?_ | refine State.moveSyn_stores ?_ | refine State.serveChain_stores ?_
    | refine State.answerChain_stores ?_))
theorem State.newLockFailed_stores {s : State} {y : Nat} (h : s.Keeps) : (State.newLockFailed s y).Keeps := by
  unfold State.newLockFailed
  repeat (any_goals (with_reducible first
    | assumption | refine State.onSynth_stores ?_ | refine State.moveSyn_stores ?_ | refine State.each_stores ?_ ?_ | refine State.lockFailed_stores ?_
    | refine State.finish_stores ?_ | refine State.onBc_stores ?_ | refine keeps_ite (fun _ => ?_) (fun _ => ?_) | (intro x; try clear_value x)
    | lift_lets -underBinder | split))
theorem State.firstReceive_stores {s : State} {i : Nat} (h : s.Keeps) : (State.firstReceive s i).Keeps := by
  unfold State.firstReceive
  repeat (any_goals (with_reducible first
    | assumption | refine State.trimAuto_stores ?_ | refine State.onChain_stores ?_))
theorem State.serveChains_stores {s : State} (h : s.Keeps) : (State.serveChains s).Keeps := by
  unfold State.serveChains
  repeat (any_goals (with_reducible first
    | assumption | refine State.each_stores ?_ ?_ | refine State.serveChain_stores ?_ | (intro x; try clear_value x)))
theorem State.dropToStandby_stores {s : State} {i : Nat} (h : s.Keeps) : (State.dropToStandby s i).Keeps := by
  unfold State.dropToStandby
  repeat (any_goals (with_reducible first
    | assumption | refine State.onChain_stores ?_ | refine State.goChain_stores ?_ | refine State.faultChain_stores ?_ | refine State.moveChain_stores ?_
    | refine keeps_ite (fun _ => ?_) (fun _ => ?_)))
theorem State.pairToStandby_stores {s : State} {pair : Nat} (h : s.Keeps) : (State.pairToStandby s pair).Keeps := by
  unfold State.pairToStandby
  repeat (any_goals (with_reducible first
    | assumption | refine State.trimLoseChain_stores ?_ | refine State.dropToStandby_stores ?_))
theorem State.lossEffects_stores {s : State} {y : Nat} (h : s.Keeps) : (State.lossEffects s y).Keeps := by
  unfold State.lossEffects
  repeat (any_goals (with_reducible first
    | assumption | refine State.rampDown_stores ?_ | refine State.each_stores ?_ ?_ | refine State.trimLoseChain_stores ?_ | refine State.followAll_stores ?_
    | refine State.stallInner_stores ?_ | refine State.abortFault_stores ?_ | refine State.onMem_stores ?_ ?_ | refine State.followLanes_stores ?_
    | refine State.pairToStandby_stores ?_ | refine State.abortPair_stores ?_ | refine State.loseTx_stores ?_ | refine State.onBc_stores ?_
    | (intro x; try clear_value x) | split))
theorem State.afterDrop_stores {s : State} {i : Nat} {was : ChainSt} (h : s.Keeps) : (State.afterDrop s i was).Keeps := by
  unfold State.afterDrop
  repeat (any_goals (with_reducible first
    | assumption | refine State.branchLost_stores ?_ | refine State.idleSyn_stores ?_ | refine keeps_ite (fun _ => ?_) (fun _ => ?_)))
theorem State.tuneTx_stores {s : State} {b : Band} {f : Nat} (h : s.Keeps) : (State.tuneTx s b f).Keeps := by
  unfold State.tuneTx
  repeat (any_goals (with_reducible first
    | assumption | refine State.onTxb_stores ?_ | refine State.hopSyn_stores ?_ | refine keeps_ite (fun _ => ?_) (fun _ => ?_)))
theorem State.enterChain_stores {s : State} {i : Nat} {st : ChainSt} (h : s.Keeps) : (State.enterChain s i st).Keeps := by
  unfold State.enterChain
  repeat (any_goals (with_reducible first
    | assumption | refine State.onChain_stores ?_ | refine State.moveChain_stores ?_ | refine State.afterDrop_stores ?_ | refine State.firstReceive_stores ?_
    | refine State.goChain_stores ?_ | refine State.tuneTx_stores ?_ | refine State.serveChain_stores ?_ | refine State.followLanes_stores ?_
    | refine keeps_ite (fun _ => ?_) (fun _ => ?_) | lift_lets -underBinder | split))
theorem State.stepLockFailed_stores {s : State} {i : Nat} {y : Nat} {ok : Bool} (h : s.Keeps) : (State.stepLockFailed s i y ok).Keeps := by
  unfold State.stepLockFailed
  repeat (any_goals (with_reducible first
    | assumption | refine State.onSynth_stores ?_ | refine State.forgetBand_stores ?_ | refine State.lockFailed_stores ?_
    | refine keeps_ite (fun _ => ?_) (fun _ => ?_)))
theorem State.standbyChains_stores {s : State} {l : List Nat} (h : s.Keeps) : (State.standbyChains s l).Keeps := by
  unfold State.standbyChains
  repeat (any_goals (with_reducible first
    | assumption | refine State.each_stores ?_ ?_ | refine State.onChain_stores ?_ | refine State.afterDrop_stores ?_ | refine State.moveChain_stores ?_
    | refine keeps_ite (fun _ => ?_) (fun _ => ?_) | (intro x; try clear_value x)))
theorem State.useEntry_stores {s : State} {y : Nat} {e : BandEntry} (h : s.Keeps) : (State.useEntry s y e).Keeps := by
  unfold State.useEntry
  repeat (any_goals (with_reducible first
    | assumption | refine State.onSynth_stores ?_))
theorem State.rememberBand_stores {s : State} {y : Nat} {band : BitVec 6} {margin : Nat} (h : s.Keeps) :
    (State.rememberBand s y band margin).Keeps := by
  unfold State.rememberBand
  repeat (any_goals (with_reducible first
    | assumption | refine State.useEntry_stores ?_ | (intro x; try clear_value x) | lift_lets -underBinder | split))
theorem State.pairBack_stores {s : State} {pair : Nat} (h : s.Keeps) : (s.pairBack pair).Keeps := by
  have back : ∀ (s : State) (i : Nat), s.Keeps → (match (s.chain i).former with | some f => s.goChain i f | none => s).Keeps := by
    intro s i h
    split
    · exact State.goChain_stores h
    · exact h
  unfold State.pairBack
  exact State.each_stores (back _ _ (back _ _ h)) fun t i k => State.serveChain_stores k
theorem State.fixTuners_stores {s : State} (h : s.Keeps) : (State.fixTuners s).Keeps := by
  unfold State.fixTuners
  repeat (any_goals (with_reducible first
    | assumption | refine State.each_stores ?_ ?_ | refine State.setTuner_stores ?_ | refine keeps_ite (fun _ => ?_) (fun _ => ?_)
    | (intro x; try clear_value x)))
theorem State.faultMoving_stores {s : State} {i : Nat} (h : s.Keeps) : (State.faultMoving s i).Keeps := by
  unfold State.faultMoving
  repeat (any_goals (with_reducible first
    | assumption | refine State.faultChain_stores ?_ | refine State.requeue_stores ?_ | split))
theorem State.radiated_stores {s : State} {b : Band} {x : TxItem} {start : Nat} {stop : Nat} (h : s.Keeps) :
    (State.radiated s b x start stop).Keeps := by
  unfold State.radiated
  repeat (any_goals (with_reducible first
    | assumption | refine State.draw_stores ?_ | refine State.noteComplete_stores ?_ | refine State.addDuty_stores ?_ | refine State.onTxb_stores ?_))
theorem State.setStep_stores {s : State} {p : Nat} {g : Nat} (h : s.Keeps) : (State.setStep s p g).Keeps := by
  unfold State.setStep
  repeat (any_goals (with_reducible first
    | assumption | refine State.onGain_stores ?_))
theorem State.fixGains_stores {s : State} (h : s.Keeps) : (State.fixGains s).Keeps := by
  unfold State.fixGains
  repeat (any_goals (with_reducible first
    | assumption | refine State.each_stores ?_ ?_ | refine State.setStep_stores ?_ | refine keeps_ite (fun _ => ?_) (fun _ => ?_)
    | (intro x; try clear_value x)))
theorem State.lockSyn_stores {s : State} {y : Nat} (h : s.Keeps) : (State.lockSyn s y).Keeps := by
  unfold State.lockSyn
  repeat (any_goals (with_reducible first
    | assumption | refine State.onSynth_stores ?_ | refine State.moveSyn_stores ?_))
theorem State.lockOwn_stores {s : State} {y : Nat} (h : s.Keeps) : (State.lockOwn s y).Keeps := by
  unfold State.lockOwn
  repeat (any_goals (with_reducible first
    | assumption | refine State.lockSyn_stores ?_ | refine State.rememberBand_stores ?_ | refine State.draw_stores ?_))
theorem State.stepLock_stores {s t : State} {y : Nat} {ok : Bool} (h : s.Keeps) (e : s.stepLock y ok = some t) : t.Keeps := by
  unfold State.stepLock at e
  repeat' split at e
  all_goals cases e
  · exact h
  · exact State.lockOwn_stores h
theorem State.chainStep_stores {s : State} {i : Nat} {ok : Bool} (h : s.Keeps) : (s.chainStep i ok).Keeps := by
  unfold State.chainStep
  dsimp only
  repeat' split
  all_goals first
    | exact h | exact State.faultMoving_stores h | exact State.faultChain_stores h | exact State.enterChain_stores h | exact State.stepLockFailed_stores h
    | exact State.enterChain_stores (State.stepLock_stores h (by assumption)) | exact State.enterChain_stores (State.lockOwn_stores (State.stepLock_stores h (by assumption)))
theorem State.noteLoss_stores {s : State} {u : Nat} {v : Nat} (h : s.Keeps) : (State.noteLoss s u v).Keeps := by
  unfold State.noteLoss
  repeat (any_goals (with_reducible first
    | assumption | refine State.onTrim_stores ?_ | refine State.onChain_stores ?_))
theorem State.lostEffects_stores {s : State} {y : Nat} (h : s.Keeps) : (State.lostEffects s y).Keeps := by
  unfold State.lostEffects
  repeat (any_goals (with_reducible first
    | assumption | refine State.each_stores ?_ ?_ | refine State.standbyChains_stores ?_ | refine State.expireBand_stores ?_ | refine State.serveChain_stores ?_
    | refine State.onGroup_stores ?_ | refine keeps_ite (fun _ => ?_) (fun _ => ?_) | (intro x; try clear_value x) | split))
theorem State.relockEffects_stores {s : State} {y : Nat} (h : s.Keeps) : (State.relockEffects s y).Keeps := by
  unfold State.relockEffects
  repeat (any_goals (with_reducible first
    | assumption | refine State.followAll_stores ?_ | refine State.resumeInner_stores ?_ | refine State.onMem_stores ?_ ?_ | refine State.pairBack_stores ?_
    | refine State.onBc_stores ?_ | refine keeps_ite (fun _ => ?_) (fun _ => ?_) | (intro x; try clear_value x) | split))
theorem State.rfOff_stores {s : State} (h : s.Keeps) : (State.rfOff s).Keeps := by
  unfold State.rfOff
  repeat (any_goals (with_reducible first
    | assumption | refine State.each_stores ?_ ?_ | refine State.moveChain_stores ?_ | refine keeps_ite (fun _ => ?_) (fun _ => ?_)
    | (intro x; try clear_value x)))
theorem State.pmbusSend_stores {s : State} {l : List (Nat × Nat)} (h : s.Keeps) : (State.pmbusSend s l).Keeps := by
  unfold State.pmbusSend
  repeat (any_goals (with_reducible first
    | assumption | refine State.onPwr_stores ?_))
theorem State.changeVolt_stores {s : State} (h : s.Keeps) : (State.changeVolt s).Keeps := by
  unfold State.changeVolt
  repeat (any_goals (with_reducible first
    | assumption | refine State.onPwr_stores ?_ | refine State.pmbusSend_stores ?_ | refine keeps_ite (fun _ => ?_) (fun _ => ?_)))
theorem State.pokeImage_stores {s : State} {base : Nat} {old : List Host.Cell} {new : List Host.Cell} (h : s.Keeps) :
    (State.pokeImage s base old new).Keeps := by
  unfold State.pokeImage
  repeat (any_goals (with_reducible first
    | assumption | refine State.each_stores ?_ ?_ | refine State.pokeByte_stores ?_ | (intro x; try clear_value x)))
theorem State.loadSram_stores {s : State} (h : s.Keeps) : (State.loadSram s).Keeps := by
  unfold State.loadSram
  repeat (any_goals (with_reducible first
    | assumption | refine State.pokeImage_stores ?_))
theorem State.ddrOff_stores {s : State} (h : s.Keeps) : (State.ddrOff s).Keeps := by
  unfold State.ddrOff
  repeat (any_goals (with_reducible first
    | assumption | refine State.onMem_stores ?_ ?_ | (intro x; try clear_value x)))
theorem State.keysOff_stores {s : State} (h : s.Keeps) : (State.keysOff s).Keeps := by
  unfold State.keysOff
  repeat (any_goals (with_reducible first
    | assumption | refine State.onDir_stores ?_))
theorem State.synOff_stores {s : State} (h : s.Keeps) : (State.synOff s).Keeps := by
  unfold State.synOff
  repeat (any_goals (with_reducible first
    | assumption | refine State.each_stores ?_ ?_ | refine State.onSynth_stores ?_ | refine State.moveSyn_stores ?_ | (intro x; try clear_value x)))
theorem State.crewsOff_stores {s : State} (h : s.Keeps) : (State.crewsOff s).Keeps := by
  unfold State.crewsOff
  repeat (any_goals (with_reducible first
    | (intro x; try clear_value x) | lift_lets -underBinder | exact keeps_mk (State.Keeps.stores (by assumption))))
theorem State.saveSram_stores {s : State} (h : s.Keeps) : (State.saveSram s).Keeps := by
  unfold State.saveSram
  repeat (any_goals (with_reducible first
    | assumption | refine State.onBoot_stores ?_ | refine State.pokeImage_stores ?_))
theorem State.arrive_stores {s : State} {p : PowerSt} {edges : Nat} (h : s.Keeps) : (State.arrive s p edges).Keeps := by
  unfold State.arrive
  repeat (any_goals (with_reducible first
    | assumption | refine State.ddrOff_stores ?_ | refine State.onPwr_stores ?_ | refine State.keysOff_stores ?_ | refine State.setPowers_stores ?_
    | refine State.pmbusSend_stores ?_ | refine State.synOff_stores ?_ | refine State.crewsOff_stores ?_ | refine State.rfOff_stores ?_ | refine State.onClk_stores ?_
    | refine State.each_stores ?_ ?_ | refine State.onSynth_stores ?_ | refine State.saveSram_stores ?_
    | (intro x; refine keeps_let (x := x) ?_ ?_; unfold x; rotate_left; intro hx; clear_value x) | (intro x; try clear_value x)
    | lift_lets -underBinder | split))
theorem State.sendChain_stores {s : State} {i : Nat} {st : ChainSt} (h : s.Keeps) : (State.sendChain s i st).Keeps := by
  unfold State.sendChain
  repeat (any_goals (with_reducible first
    | assumption | refine State.onChain_stores ?_ | refine State.goChain_stores ?_ | refine keeps_ite (fun _ => ?_) (fun _ => ?_)))
theorem State.openPair_stores {s : State} {pair : Nat} (h : s.Keeps) : (State.openPair s pair).Keeps := by
  unfold State.openPair
  repeat (any_goals (with_reducible first
    | assumption | refine State.sendChain_stores ?_))
theorem State.wake_stores {s : State} {host : Bool} (h : s.Keeps) : (State.wake s host).Keeps := by
  unfold State.wake
  repeat (any_goals (with_reducible first
    | assumption | refine State.onPwr_stores ?_ | refine keeps_ite (fun _ => ?_) (fun _ => ?_)))
theorem State.gateSculls_stores {s : State} (h : s.Keeps) : (State.gateSculls s).Keeps := by
  unfold State.gateSculls
  repeat (any_goals (with_reducible first
    | assumption | refine State.onPwr_stores ?_ | refine State.setPowers_stores ?_ | refine State.each_stores ?_ ?_
    | refine keeps_ite (fun _ => ?_) (fun _ => ?_) | (intro x; try clear_value x)))
theorem State.startStates_stores {s : State} (h : s.Keeps) : (State.startStates s).Keeps := by
  unfold State.startStates
  repeat (any_goals (with_reducible first
    | assumption | refine State.each_stores ?_ ?_ | refine State.sendChain_stores ?_ | (intro x; try clear_value x)))
theorem State.closePair_stores {s : State} {pair : Nat} (h : s.Keeps) : (State.closePair s pair).Keeps := by
  unfold State.closePair
  repeat (any_goals (with_reducible first
    | assumption | refine State.sendChain_stores ?_))
theorem State.setPolicy_stores {s : State} {policy : Nat} {deepest : Nat} (h : s.Keeps) : (State.setPolicy s policy deepest).Keeps := by
  unfold State.setPolicy
  repeat (any_goals (with_reducible first
    | assumption | refine State.onPwr_stores ?_ | refine State.startStates_stores ?_ | refine State.sendChain_stores ?_ | refine State.closePair_stores ?_
    | refine keeps_ite (fun _ => ?_) (fun _ => ?_)))
theorem State.runSyn_stores {s : State} {y : Nat} {n : Nat} {d : Nat} (h : s.Keeps) : (State.runSyn s y n d).Keeps := by
  unfold State.runSyn
  repeat (any_goals (with_reducible first
    | assumption | refine State.lockOwn_stores ?_ | refine State.startSyn_stores ?_))
theorem State.toRow_stores {s : State} (h : s.Keeps) : (State.toRow s).Keeps := by
  unfold State.toRow
  repeat (any_goals (with_reducible first
    | assumption | refine State.onPwr_stores ?_ | refine State.setPowers_stores ?_ | refine State.pmbusSend_stores ?_ | refine State.runSyn_stores ?_
    | refine State.onMem_stores ?_ ?_ | refine State.setIrq_stores ?_ | refine State.onLinks_stores ?_ | refine State.followAll_stores ?_
    | refine keeps_ite (fun _ => ?_) (fun _ => ?_) | (intro x; try clear_value x)))
theorem State.rouse_stores {s : State} {op : Nat} (h : s.Keeps) : (State.rouse s op).Keeps := by
  unfold State.rouse
  repeat (any_goals (with_reducible first
    | assumption | refine State.toRow_stores ?_ | refine State.wake_stores ?_ | refine keeps_ite (fun _ => ?_) (fun _ => ?_)))
theorem State.setRatio_stores {s : State} {n : Nat} (h : s.Keeps) : (State.setRatio s n).Keeps := by
  unfold State.setRatio
  repeat (any_goals (with_reducible first
    | assumption | refine State.moveSyn_stores ?_ | refine State.onSynth_stores ?_ | refine State.startSyn_stores ?_
    | refine keeps_ite (fun _ => ?_) (fun _ => ?_)))
theorem State.scalePaddle_stores {s : State} (h : s.Keeps) : (State.scalePaddle s).Keeps := by
  unfold State.scalePaddle
  repeat (any_goals (with_reducible first
    | assumption | refine State.onPwr_stores ?_ | refine State.setRatio_stores ?_ | refine keeps_ite (fun _ => ?_) (fun _ => ?_)))
theorem State.passWakes_stores {s : State} (h : s.Keeps) : (State.passWakes s).Keeps := by
  unfold State.passWakes
  repeat (any_goals (with_reducible first
    | assumption | refine State.onPwr_stores ?_))
theorem State.scaleCore_stores {s : State} (h : s.Keeps) : (State.scaleCore s).Keeps := by
  unfold State.scaleCore
  repeat (any_goals (with_reducible first
    | assumption | refine State.onPwr_stores ?_ | refine State.setRatio_stores ?_ | refine State.scalePaddle_stores ?_
    | refine keeps_ite (fun _ => ?_) (fun _ => ?_) | lift_lets -underBinder | split))
theorem State.host_stores {s : State} {h : Hdr} {op : Nat} {c : State → Check} {act : State → State} (hs : s.Keeps) (ka : ∀ t : State, t.Keeps → (act t).Keeps) :
    (s.host h op c act).Keeps := by
  unfold State.host
  repeat (any_goals (with_reducible first
    | assumption | refine State.command_stores ?_ ka | refine State.rouse_stores ?_ | refine keeps_ite (fun _ => ?_) (fun _ => ?_)))
theorem State.beginEntry_stores {s : State} {p : PowerSt} (h : s.Keeps) : (State.beginEntry s p).Keeps := by
  unfold State.beginEntry
  repeat (any_goals (with_reducible first
    | assumption | refine State.trimAbort_stores ?_ | refine State.onPwr_stores ?_ | refine State.onLinks_stores ?_
    | refine keeps_ite (fun _ => ?_) (fun _ => ?_)))
theorem State.planner_stores {s : State} (h : s.Keeps) : (State.planner s).Keeps := by
  unfold State.planner
  repeat (any_goals (with_reducible first
    | assumption | refine State.passWakes_stores ?_ | refine State.onPwr_stores ?_ | refine State.beginEntry_stores ?_
    | refine keeps_ite (fun _ => ?_) (fun _ => ?_) | (intro x; refine keeps_let (x := x) ?_ ?_; unfold x; rotate_left; intro hx; clear_value x)
    | lift_lets -underBinder | split))
theorem State.doneWrite_stores {s : State} {c : Nat} {v : U32} (h : s.Keeps) : (State.doneWrite s c v).Keeps := by
  unfold State.doneWrite
  repeat (any_goals (with_reducible first
    | assumption | refine State.onCrew_stores ?_ | refine State.setScull_stores ?_ | refine keeps_ite (fun _ => ?_) (fun _ => ?_)))
theorem State.dmaPut_stores {s : State} {c : Nat} {ofs : Nat} {v : U32} (h : s.Keeps) : (State.dmaPut s c ofs v).Keeps := by
  unfold State.dmaPut
  repeat (any_goals (with_reducible first
    | assumption | refine State.onScull_stores ?_))
theorem State.writeReg_stores {s : State} {c : Nat} {code : Nat} {v : U32} (h : s.Keeps) : (State.writeReg s c code v).Keeps := by
  unfold State.writeReg
  repeat (any_goals (with_reducible first
    | assumption | refine State.onScull_stores ?_ | refine State.doneWrite_stores ?_ | refine keeps_ite (fun _ => ?_) (fun _ => ?_)
    | lift_lets -underBinder | split))
theorem State.enqueueTx_stores {s : State} {b : Band} {x : TxItem} (h : s.Keeps) : (State.enqueueTx s b x).Keeps := by
  unfold State.enqueueTx
  repeat (any_goals (with_reducible first
    | assumption | refine State.onTx_stores ?_ | refine State.onTxb_stores ?_))
theorem actTxSubmit_stores {x0 : Hdr} {r : TxReq} {s : State} (h : s.Keeps) : (actTxSubmit x0 r s).Keeps := by
  unfold actTxSubmit
  repeat (any_goals (with_reducible first
    | assumption | refine State.answer_stores ?_ | refine State.umpireDeny_stores ?_ | refine State.enqueueTx_stores ?_ | refine State.queued_stores ?_ | split))
theorem execTxSubmit_stores {x0 : Hdr} {r : TxReq} {s : State} (h : s.Keeps) : KeepsOut (execTxSubmit x0 r s) := by
  unfold execTxSubmit
  repeat (any_goals (with_reducible first
    | assumption | refine State.host_stores ?_ ?_ | refine actTxSubmit_stores ?_ | refine keeps_next ?_ | (intro x; try clear_value x)))
theorem State.endIdle_stores {s : State} {b : Band} (h : s.Keeps) : (State.endIdle s b).Keeps := by
  unfold State.endIdle
  repeat (any_goals (with_reducible first
    | assumption | refine State.endRun_stores ?_ | refine keeps_ite (fun _ => ?_) (fun _ => ?_)))
theorem State.afterRamp_stores {s : State} {b : Band} (h : s.Keeps) : (State.afterRamp s b).Keeps := by
  unfold State.afterRamp
  repeat (any_goals (with_reducible first
    | assumption | refine State.onTxb_stores ?_ | refine State.endRun_stores ?_ | refine keeps_ite (fun _ => ?_) (fun _ => ?_)))
theorem execTxRampDownComplete_stores {b : Band} {s : State} (h : s.Keeps) : KeepsOut (execTxRampDownComplete b s) := by
  unfold execTxRampDownComplete
  repeat (any_goals (with_reducible first
    | assumption | refine State.at_stores ?_ | refine State.afterRamp_stores ?_ | refine State.radiated_stores ?_ | refine keeps_next ?_ | split))
theorem State.toTransition_stores {s : State} {b : Band} {x : TxItem} (h : s.Keeps) : (State.toTransition s b x).Keeps := by
  unfold State.toTransition
  repeat (any_goals (with_reducible first
    | assumption | refine State.at_stores ?_ | refine keeps_ite (fun _ => ?_) (fun _ => ?_)
    | (intro x; refine keeps_let (x := x) ?_ ?_; unfold x; rotate_left; intro hx; clear_value x) | lift_lets -underBinder | split))
theorem execTxTransitionStart_stores {b : Band} {s : State} (h : s.Keeps) : KeepsOut (execTxTransitionStart b s) := by
  unfold execTxTransitionStart
  repeat (any_goals (with_reducible first
    | assumption | refine State.toTransition_stores ?_ | refine State.onTxb_stores ?_ | refine State.onChain_stores ?_ | refine State.tuneTx_stores ?_
    | refine State.moveChain_stores ?_ | refine State.goChain_stores ?_ | refine State.followLanes_stores ?_ | refine State.trimPause_stores ?_
    | refine keeps_next ?_ | refine keepsOut_ite (fun _ => ?_) (fun _ => ?_) | refine keeps_ite (fun _ => ?_) (fun _ => ?_) | split))
theorem State.cancelOn_stores {s : State} {b : Band} {tag : U16} (h : s.Keeps) : (State.cancelOn s b tag).Keeps := by
  unfold State.cancelOn
  repeat (any_goals (with_reducible first
    | assumption | refine State.onTxb_stores ?_ | refine State.endIdle_stores ?_ | refine State.each_stores ?_ ?_ | refine State.endItem_stores ?_
    | refine State.rampDown_stores ?_ | refine State.endRun_stores ?_
    | (intro x; refine keeps_let (x := x) ?_ ?_; unfold x; rotate_left; intro hx; clear_value x) | (intro x; try clear_value x)
    | lift_lets -underBinder | split))
theorem execTxCancel_stores {x0 : Hdr} {tag : U16} {s : State} (h : s.Keeps) : KeepsOut (execTxCancel x0 tag s) := by
  unfold execTxCancel
  repeat (any_goals (with_reducible first
    | assumption | refine State.host_stores ?_ ?_ | refine State.answer_stores ?_ | refine State.cancelOn_stores ?_ | refine keeps_next ?_
    | (intro x; try clear_value x)))
theorem execTxExpired_stores {b : Band} {s : State} (h : s.Keeps) : KeepsOut (execTxExpired b s) := by
  unfold execTxExpired
  repeat (any_goals (with_reducible first
    | assumption | refine State.endRun_stores ?_ | refine State.endItem_stores ?_ | refine State.at_stores ?_ | refine State.onTxb_stores ?_
    | refine State.endIdle_stores ?_ | refine keeps_next ?_ | (intro x; try clear_value x) | lift_lets -underBinder | split))
theorem State.noteReply_stores {s : State} {x : TxItem} (h : s.Keeps) : (State.noteReply s x).Keeps := by
  unfold State.noteReply
  repeat (any_goals (with_reducible first
    | assumption | refine State.onDir_stores ?_ | split))
theorem execBlankingEnd_stores {b : Band} {s : State} (h : s.Keeps) : KeepsOut (execBlankingEnd b s) := by
  unfold execBlankingEnd
  repeat (any_goals (with_reducible first
    | assumption | refine State.at_stores ?_ | refine State.onTxb_stores ?_ | refine State.noteBlank_stores ?_ | refine State.followLanes_stores ?_
    | refine State.trimResume_stores ?_ | refine keeps_next ?_ | split))
theorem execTxFirstSymbol_stores {b : Band} {s : State} (h : s.Keeps) : KeepsOut (execTxFirstSymbol b s) := by
  unfold execTxFirstSymbol
  repeat (any_goals (with_reducible first
    | assumption | refine State.onTxb_stores ?_ | refine State.at_stores ?_ | refine State.countReply_stores ?_ | refine State.noteReply_stores ?_
    | refine State.finish_stores ?_ | refine keeps_next ?_
    | (intro x; refine keeps_let (x := x) ?_ ?_; unfold x; rotate_left; intro hx; clear_value x) | (intro x; try clear_value x)
    | lift_lets -underBinder | split))
theorem execTxRampUp_stores {b : Band} {s : State} (h : s.Keeps) : KeepsOut (execTxRampUp b s) := by
  unfold execTxRampUp
  repeat (any_goals (with_reducible first
    | assumption | refine State.at_stores ?_ | refine State.endRun_stores ?_ | refine State.endItem_stores ?_ | refine State.umpireDeny_stores ?_
    | refine State.onTxb_stores ?_ | refine State.draw_stores ?_ | refine keeps_next ?_ | refine keepsOut_ite (fun _ => ?_) (fun _ => ?_)
    | lift_lets -underBinder | split))
theorem execRuleCardBurn_stores {x0 : Hdr} {image : Bytes} {s : State} (h : s.Keeps) : KeepsOut (execRuleCardBurn x0 image s) := by
  unfold execRuleCardBurn
  repeat (any_goals (with_reducible first
    | assumption | refine State.host_stores ?_ ?_ | refine State.draw_stores ?_ | refine State.answer_stores ?_ | refine State.onTx_stores ?_
    | refine keeps_next ?_ | refine keeps_ite (fun _ => ?_) (fun _ => ?_) | (intro x; try clear_value x)))
theorem execReturnLossReading_stores {b : Band} {tenths : Nat} {s : State} (h : s.Keeps) : KeepsOut (execReturnLossReading b tenths s) := by
  unfold execReturnLossReading
  repeat (any_goals (with_reducible first
    | assumption | refine State.noteLoss_stores ?_ | refine State.raise_stores ?_ | refine State.rampDown_stores ?_ | refine State.onTxb_stores ?_
    | refine keeps_next ?_ | refine keepsOut_ite (fun _ => ?_) (fun _ => ?_) | split))
theorem State.surveyFail_stores {s : State} {on : Bool} {item : Nat} {value : Int} (h : s.Keeps) :
    (State.surveyFail s on item value).Keeps := by
  unfold State.surveyFail
  repeat (any_goals (with_reducible first
    | assumption | refine State.pushEvent_stores ?_ | refine keeps_ite (fun _ => ?_) (fun _ => ?_)))
theorem State.applyTrim_stores {s : State} (h : s.Keeps) : (State.applyTrim s).Keeps := by
  unfold State.applyTrim
  repeat (any_goals (with_reducible first
    | assumption | refine State.onTrim_stores ?_ | refine State.each_stores ?_ ?_ | refine State.setWord_stores ?_ | refine State.setTuner_stores ?_
    | refine State.onClk_stores ?_ | refine State.followAll_stores ?_ | refine keeps_ite (fun _ => ?_) (fun _ => ?_) | (intro x; try clear_value x)
    | lift_lets -underBinder | split))
theorem State.trimPass_stores {s : State} {n : TrimNow} {value : Int} {codes : List Int} (h : s.Keeps) :
    (State.trimPass s n value codes).Keeps := by
  unfold State.trimPass
  repeat (any_goals (with_reducible first
    | assumption | refine State.onTrim_stores ?_))
theorem State.trimFail_stores {s : State} {n : TrimNow} {value : Int} {codes : List Int} (h : s.Keeps) :
    (State.trimFail s n value codes).Keeps := by
  unfold State.trimFail
  repeat (any_goals (with_reducible first
    | assumption | refine State.onTrim_stores ?_ | refine State.raise_stores ?_))
theorem execTrimItemEnd_stores {value : Int} {plausible : Bool} {codes : List Int} {s : State} (h : s.Keeps) : KeepsOut (execTrimItemEnd value plausible codes s) := by
  unfold execTrimItemEnd
  repeat (any_goals (with_reducible first
    | assumption | refine State.trimDuty_stores ?_ | refine State.onTrim_stores ?_ | refine State.trimPass_stores ?_ | refine State.trimFail_stores ?_
    | refine State.noteLoss_stores ?_ | refine State.trimNext_stores ?_ | refine State.trimStep_stores ?_ | refine State.trimBlank_stores ?_ | refine keeps_next ?_
    | refine keepsOut_ite (fun _ => ?_) (fun _ => ?_) | refine keeps_ite (fun _ => ?_) (fun _ => ?_) | lift_lets -underBinder | split))
theorem State.surveySteps_stores {s : State} {n : Nat} (h : s.Keeps) : (State.surveySteps s n).Keeps := by
  induction n generalizing s with
  | zero => exact h
  | succ f ih =>
    unfold State.surveySteps
    repeat (any_goals (with_reducible first
      | assumption | apply ih | refine State.progressEvent_stores ?_ | refine State.progress_stores ?_ | refine State.onTrim_stores ?_
      | refine keeps_ite (fun _ => ?_) (fun _ => ?_) | split))
theorem State.applyPlan_stores {s : State} (h : s.Keeps) : (State.applyPlan s).Keeps := by
  unfold State.applyPlan
  repeat (any_goals (with_reducible first
    | assumption | refine State.changeVolt_stores ?_ | refine State.onTrim_stores ?_ | refine State.each_stores ?_ ?_ | refine State.onSynth_stores ?_
    | refine keeps_ite (fun _ => ?_) (fun _ => ?_) | (intro x; try clear_value x) | split))
theorem State.storeLedger_stores {s : State} (h : s.Keeps) : (State.storeLedger s).Keeps := by
  unfold State.storeLedger
  repeat (any_goals (with_reducible first
    | assumption | refine State.onBoot_stores ?_))
theorem execRiggingSurveyEnd_stores {ring : List Int} {vbase : Nat} {headroom : List Int} {coreMv : Nat} {s : State} (h : s.Keeps) : KeepsOut (execRiggingSurveyEnd ring vbase headroom coreMv s) := by
  unfold execRiggingSurveyEnd
  repeat (any_goals (with_reducible first
    | assumption | refine State.surveySteps_stores ?_ | refine State.onTrim_stores ?_ | refine State.surveyFail_stores ?_ | refine State.each_stores ?_ ?_
    | refine State.trimAuto_stores ?_ | refine State.storeLedger_stores ?_ | refine State.finish_stores ?_ | refine keeps_next ?_
    | refine keeps_ite (fun _ => ?_) (fun _ => ?_) | (intro x; try clear_value x) | split))
theorem execRiggingSurveyStart_stores {s : State} (h : s.Keeps) : KeepsOut (execRiggingSurveyStart s) := by
  unfold execRiggingSurveyStart
  repeat (any_goals (with_reducible first
    | assumption | refine State.at_stores ?_ | refine State.onTrim_stores ?_ | refine keeps_next ?_ | refine keepsOut_ite (fun _ => ?_) (fun _ => ?_)))
theorem actTrimRun_stores {x0 : Hdr} {scope : U8} {mask : U8} {s : State} (h : s.Keeps) : (actTrimRun x0 scope mask s).Keeps := by
  unfold actTrimRun
  repeat (any_goals (with_reducible first
    | assumption | refine State.progress_stores ?_ | refine State.queued_stores ?_ | refine State.trimNext_stores ?_ | refine State.onTrim_stores ?_))
theorem execTrimRun_stores {x0 : Hdr} {scope : U8} {mask : U8} {reserved : U16} {s : State} (h : s.Keeps) : KeepsOut (execTrimRun x0 scope mask reserved s) := by
  unfold execTrimRun
  repeat (any_goals (with_reducible first
    | assumption | refine State.host_stores ?_ ?_ | refine actTrimRun_stores ?_ | refine keeps_next ?_ | (intro x; try clear_value x)))
theorem execTrimPauseFlagFall_stores {s : State} (h : s.Keeps) : KeepsOut (execTrimPauseFlagFall s) := by
  unfold execTrimPauseFlagFall
  repeat (any_goals (with_reducible first
    | assumption | refine State.trimAbort_stores ?_ | refine State.flagFall_stores ?_ | refine State.at_stores ?_ | refine keeps_next ?_ | split))
theorem actRigging_stores {x0 : Hdr} {kind : U8} {s : State} (h : s.Keeps) : (actRigging x0 kind s).Keeps := by
  unfold actRigging
  repeat (any_goals (with_reducible first
    | assumption | refine State.answer_stores ?_ | refine State.onTrim_stores ?_ | refine State.progress_stores ?_ | refine State.queued_stores ?_
    | refine keeps_ite (fun _ => ?_) (fun _ => ?_)))
theorem execRiggingReportRead_stores {x0 : Hdr} {kind : U8} {s : State} (h : s.Keeps) : KeepsOut (execRiggingReportRead x0 kind s) := by
  unfold execRiggingReportRead
  repeat (any_goals (with_reducible first
    | assumption | refine State.host_stores ?_ ?_ | refine actRigging_stores ?_ | refine keeps_next ?_ | (intro x; try clear_value x)))
theorem execTrimRunDone_stores {s : State} (h : s.Keeps) : KeepsOut (execTrimRunDone s) := by
  unfold execTrimRunDone
  repeat (any_goals (with_reducible first
    | assumption | refine State.finish_stores ?_ | refine State.onTrim_stores ?_ | refine keeps_next ?_ | refine keepsOut_ite (fun _ => ?_) (fun _ => ?_)
    | split))
theorem execRiggingReportSurvey_stores {x0 : Hdr} {kind : U8} {s : State} (h : s.Keeps) : KeepsOut (execRiggingReportSurvey x0 kind s) := by
  unfold execRiggingReportSurvey
  repeat (any_goals (with_reducible first
    | assumption | refine State.host_stores ?_ ?_ | refine actRigging_stores ?_ | refine keeps_next ?_ | (intro x; try clear_value x)))
theorem execMbxOutRead_stores {n : Nat} {s : State} (h : s.Keeps) : KeepsOut (execMbxOutRead n s) := by
  unfold execMbxOutRead
  repeat (any_goals (with_reducible first
    | assumption | refine State.onLinks_stores ?_ | refine State.acknowledge_stores ?_ | refine State.onDlv_stores ?_ | refine keeps_next ?_
    | refine keepsOut_ite (fun _ => ?_) (fun _ => ?_)))
theorem execGetInfo_stores {x0 : Hdr} {s : State} (h : s.Keeps) : KeepsOut (execGetInfo x0 s) := by
  unfold execGetInfo
  repeat (any_goals (with_reducible first
    | assumption | refine State.host_stores ?_ ?_ | refine State.answer_stores ?_ | refine keeps_next ?_ | (intro x; try clear_value x)))
theorem State.refreshEth_stores {s : State} (h : s.Keeps) : (State.refreshEth s).Keeps := by
  unfold State.refreshEth
  repeat (any_goals (with_reducible first
    | assumption | refine State.onLinks_stores ?_))
theorem State.phyStart_stores {s : State} (h : s.Keeps) : (State.phyStart s).Keeps := by
  unfold State.phyStart
  repeat (any_goals (with_reducible first
    | assumption | refine State.onLinks_stores ?_ | refine keeps_ite (fun _ => ?_) (fun _ => ?_)))
theorem execEthRefclkReturn_stores {s : State} (h : s.Keeps) : KeepsOut (execEthRefclkReturn s) := by
  unfold execEthRefclkReturn
  repeat (any_goals (with_reducible first
    | assumption | refine State.refreshEth_stores ?_ | refine State.phyStart_stores ?_ | refine State.onLinks_stores ?_ | refine keeps_next ?_
    | refine keepsOut_ite (fun _ => ?_) (fun _ => ?_)))
theorem State.endLong_stores {s : State} {tag : U16} (h : s.Keeps) : (State.endLong s tag).Keeps := by
  unfold State.endLong
  repeat (any_goals (with_reducible first
    | assumption | refine State.onTrim_stores ?_ | refine State.trimAbort_stores ?_ | refine State.onDir_stores ?_ | refine State.onBoot_stores ?_
    | refine keeps_ite (fun _ => ?_) (fun _ => ?_)))
theorem execLongOpTimeout_stores {tag : U16} {s : State} (h : s.Keeps) : KeepsOut (execLongOpTimeout tag s) := by
  unfold execLongOpTimeout
  repeat (any_goals (with_reducible first
    | assumption | refine State.finish_stores ?_ | refine State.fallLine_stores ?_ | refine State.endLong_stores ?_ | refine State.at_stores ?_
    | refine keeps_next ?_ | refine keepsOut_ite (fun _ => ?_) (fun _ => ?_) | split))
theorem execSpiUnknownCommand_stores {_cmd : U8} {_data : Bytes} {s : State} (h : s.Keeps) : KeepsOut (execSpiUnknownCommand _cmd _data s) := by
  unfold execSpiUnknownCommand
  repeat (any_goals (with_reducible first
    | assumption | refine keeps_next ?_))
theorem State.ackUpTo_stores {s : State} {ack : U32} (h : s.Keeps) : (State.ackUpTo s ack).Keeps := by
  unfold State.ackUpTo
  repeat (any_goals (with_reducible first
    | assumption | refine State.acknowledge_stores ?_ | refine State.onDlv_stores ?_ | refine State.resendAll_stores ?_
    | refine keeps_ite (fun _ => ?_) (fun _ => ?_) | split))
theorem execMbxInWrite_stores {data : Bytes} {_partial : Fin 8} {endsTxn : Bool} {s : State} (h : s.Keeps) : KeepsOut (execMbxInWrite data _partial endsTxn s) := by
  unfold execMbxInWrite
  repeat (any_goals (with_reducible first
    | assumption | refine State.onLinks_stores ?_ | refine State.setIrq_stores ?_ | refine State.scanFifo_stores ?_ | refine keeps_next ?_
    | refine keepsOut_ite (fun _ => ?_) (fun _ => ?_) | refine keeps_ite (fun _ => ?_) (fun _ => ?_)))
theorem execOutboundPlace_stores {udp : Bool} {s : State} (h : s.Keeps) : KeepsOut (execOutboundPlace udp s) := by
  unfold execOutboundPlace
  repeat (any_goals (with_reducible first
    | assumption | refine State.eventLine_stores ?_ | refine State.sendEth_stores ?_ | refine State.onLinks_stores ?_ | refine State.setIrq_stores ?_
    | refine keeps_next ?_ | refine keepsOut_ite (fun _ => ?_) (fun _ => ?_) | refine keeps_ite (fun _ => ?_) (fun _ => ?_)
    | lift_lets -underBinder | split))
theorem execPhyLinkPoll_stores {driven : Bool} {reg1 : U16} {s : State} (h : s.Keeps) : KeepsOut (execPhyLinkPoll driven reg1 s) := by
  unfold execPhyLinkPoll
  repeat (any_goals (with_reducible first
    | assumption | refine State.refreshEth_stores ?_ | refine State.onLinks_stores ?_ | refine keeps_next ?_
    | refine keepsOut_ite (fun _ => ?_) (fun _ => ?_)))
theorem execEthRefclkFlagFall_stores {s : State} (h : s.Keeps) : KeepsOut (execEthRefclkFlagFall s) := by
  unfold execEthRefclkFlagFall
  repeat (any_goals (with_reducible first
    | assumption | refine State.flagFall_stores ?_ | refine State.refreshEth_stores ?_ | refine State.onLinks_stores ?_ | refine keeps_next ?_
    | refine keepsOut_ite (fun _ => ?_) (fun _ => ?_)))
theorem State.clearCounters_stores {s : State} (h : s.Keeps) : (State.clearCounters s).Keeps := by
  unfold State.clearCounters
  repeat (any_goals (with_reducible first
    | assumption | refine State.onCnt_stores ?_ | refine State.onEng_stores ?_ | refine State.onCap_stores ?_ | refine State.onMem_stores ?_ ?_
    | refine State.onTx_stores ?_ | refine State.each_stores ?_ ?_ | refine State.onGroup_stores ?_ | refine State.onTdm_stores ?_ | (intro x; try clear_value x)))
theorem execGetStatus_stores {x0 : Hdr} {flags : U32} {s : State} (h : s.Keeps) : KeepsOut (execGetStatus x0 flags s) := by
  unfold execGetStatus
  repeat (any_goals (with_reducible first
    | assumption | refine State.host_stores ?_ ?_ | refine State.answer_stores ?_ | refine State.clearCounters_stores ?_ | refine keeps_next ?_
    | refine keeps_ite (fun _ => ?_) (fun _ => ?_) | (intro x; try clear_value x)))
theorem execArpIcmpReply_stores {icmp : Bool} {ip : U32} {request : Bytes} {s : State} (h : s.Keeps) : KeepsOut (execArpIcmpReply icmp ip request s) := by
  unfold execArpIcmpReply
  repeat (any_goals (with_reducible first
    | assumption | refine State.sendEth_stores ?_ | refine keeps_next ?_ | refine keepsOut_ite (fun _ => ?_) (fun _ => ?_) | lift_lets -underBinder
    | split))
theorem execBatchClose_stores {s : State} (h : s.Keeps) : KeepsOut (execBatchClose s) := by
  unfold execBatchClose
  repeat (any_goals (with_reducible first
    | assumption | refine State.closeBatch_stores ?_ | refine State.at_stores ?_ | refine keeps_next ?_ | split))
theorem execMessageDiscarded_stores {src : Src} {_why : Discard} {s : State} (h : s.Keeps) : KeepsOut (execMessageDiscarded src _why s) := by
  unfold execMessageDiscarded
  repeat (any_goals (with_reducible first
    | assumption | refine State.discard_stores ?_ | refine keeps_next ?_ | refine keepsOut_ite (fun _ => ?_) (fun _ => ?_)))
theorem execResendTimeout_stores {s : State} (h : s.Keeps) : KeepsOut (execResendTimeout s) := by
  unfold execResendTimeout
  repeat (any_goals (with_reducible first
    | assumption | refine State.at_stores ?_ | refine State.pump_stores ?_ | refine State.onDlv_stores ?_ | refine State.resendAll_stores ?_ | refine keeps_next ?_
    | refine keepsOut_ite (fun _ => ?_) (fun _ => ?_) | split))
theorem execPing_stores {x0 : Hdr} {data : Bytes} {s : State} (h : s.Keeps) : KeepsOut (execPing x0 data s) := by
  unfold execPing
  repeat (any_goals (with_reducible first
    | assumption | refine State.host_stores ?_ ?_ | refine State.answer_stores ?_ | refine keeps_next ?_ | (intro x; try clear_value x)))
theorem State.forget_stores {s : State} {tag : U16} (h : s.Keeps) : (State.forget s tag).Keeps := by
  unfold State.forget
  repeat (any_goals (with_reducible first
    | assumption | refine State.each_stores ?_ ?_ | refine State.onChain_stores ?_ | refine State.onTx_stores ?_ | refine State.onCfg_stores ?_ ?_
    | refine State.onBc_stores ?_ | refine State.onGroup_stores ?_ | refine State.onTdm_stores ?_ | refine State.onCrew_stores ?_ | (intro x; try clear_value x)))
theorem execCommandTimeout_stores {tag : U16} {s : State} (h : s.Keeps) : KeepsOut (execCommandTimeout tag s) := by
  unfold execCommandTimeout
  repeat (any_goals (with_reducible first
    | assumption | refine State.finish_stores ?_ | refine State.fallLine_stores ?_ | refine State.forget_stores ?_ | refine State.at_stores ?_
    | refine keeps_next ?_ | refine keepsOut_ite (fun _ => ?_) (fun _ => ?_) | split))
theorem execSpiMessageFlagFall_stores {s : State} (h : s.Keeps) : KeepsOut (execSpiMessageFlagFall s) := by
  unfold execSpiMessageFlagFall
  repeat (any_goals (with_reducible first
    | assumption | refine State.flagFall_stores ?_ | refine State.onLinks_stores ?_ | refine State.at_stores ?_ | refine keeps_next ?_ | split))
theorem execUartRxByte_stores {samples : List Bool} {s : State} (h : s.Keeps) : KeepsOut (execUartRxByte samples s) := by
  unfold execUartRxByte
  repeat (any_goals (with_reducible first
    | assumption | refine State.onCnt_stores ?_ | refine State.console_stores ?_ | refine keeps_next ?_ | refine keepsOut_ite (fun _ => ?_) (fun _ => ?_)))
theorem execOpProgress_stores {x0 : Hdr} {tag : U16} {code : U16} {s : State} (h : s.Keeps) : KeepsOut (execOpProgress x0 tag code s) := by
  unfold execOpProgress
  repeat (any_goals (with_reducible first
    | assumption | refine State.host_stores ?_ ?_ | refine State.answer_stores ?_ | refine keeps_next ?_ | (intro x; try clear_value x)
    | lift_lets -underBinder | split))
theorem execSpiIrqClear_stores {v : U16} {s : State} (h : s.Keeps) : KeepsOut (execSpiIrqClear v s) := by
  unfold execSpiIrqClear
  repeat (any_goals (with_reducible first
    | assumption | refine State.refreshIrq_stores ?_ | refine State.onLinks_stores ?_ | refine keeps_next ?_))
theorem execUdpDatagram_stores {d : Datagram} {s : State} (h : s.Keeps) : KeepsOut (execUdpDatagram d s) := by
  unfold execUdpDatagram
  repeat (any_goals (with_reducible first
    | assumption | refine State.onCnt_stores ?_ | refine State.wake_stores ?_ | refine State.refuseUnknown_stores ?_ | refine keeps_next ?_
    | refine keepsOut_ite (fun _ => ?_) (fun _ => ?_) | lift_lets -underBinder | split))
theorem execCreditGrant_stores {x0 : Hdr} {grant : U32} {ack : U32} {flags : U32} {s : State} (h : s.Keeps) : KeepsOut (execCreditGrant x0 grant ack flags s) := by
  unfold execCreditGrant
  repeat (any_goals (with_reducible first
    | assumption | refine State.host_stores ?_ ?_ | refine State.setEndpoint_stores ?_ | refine State.onDlv_stores ?_ | refine State.ackUpTo_stores ?_
    | refine State.pump_stores ?_ | refine State.answer_stores ?_ | refine keeps_next ?_ | refine keeps_ite (fun _ => ?_) (fun _ => ?_)
    | (intro x; try clear_value x)))
theorem State.chooseSource_stores {s : State} (h : s.Keeps) : (State.chooseSource s).Keeps := by
  unfold State.chooseSource
  repeat (any_goals (with_reducible first
    | assumption | refine State.onTime_stores ?_ | refine keeps_ite (fun _ => ?_) (fun _ => ?_)))
theorem execTimeSource_stores {x0 : Hdr} {s0 : U8} {s1 : U8} {s2 : U8} {s3 : U8} {s : State} (h : s.Keeps) : KeepsOut (execTimeSource x0 s0 s1 s2 s3 s) := by
  unfold execTimeSource
  repeat (any_goals (with_reducible first
    | assumption | refine State.host_stores ?_ ?_ | refine State.chooseSource_stores ?_ | refine State.onTime_stores ?_ | refine State.answer_stores ?_
    | refine keeps_next ?_ | (intro x; try clear_value x)))
theorem State.sample_stores {s : State} {src : Nat} {d : Nat} {utc : Int} {unc : Nat} (h : s.Keeps) :
    (State.sample s src d utc unc).Keeps := by
  unfold State.sample
  repeat (any_goals (with_reducible first
    | assumption | refine State.chooseSource_stores ?_ | refine State.onTime_stores ?_))
theorem execTimeSet_stores {x0 : Hdr} {utc : U64} {dtime : U64} {uncertainty : U32} {s : State} (h : s.Keeps) : KeepsOut (execTimeSet x0 utc dtime uncertainty s) := by
  unfold execTimeSet
  repeat (any_goals (with_reducible first
    | assumption | refine State.host_stores ?_ ?_ | refine State.answer_stores ?_ | refine State.sample_stores ?_ | refine keeps_next ?_
    | (intro x; try clear_value x)))
theorem execTimeSourceExpiry_stores {source : Fin 6} {s : State} (h : s.Keeps) : KeepsOut (execTimeSourceExpiry source s) := by
  unfold execTimeSourceExpiry
  repeat (any_goals (with_reducible first
    | assumption | refine State.chooseSource_stores ?_ | refine State.onTime_stores ?_ | refine State.at_stores ?_ | refine keeps_next ?_
    | refine keepsOut_ite (fun _ => ?_) (fun _ => ?_) | (intro x; try clear_value x) | lift_lets -underBinder | split))
theorem execPpsFlagFall_stores {s : State} (h : s.Keeps) : KeepsOut (execPpsFlagFall s) := by
  unfold execPpsFlagFall
  repeat (any_goals (with_reducible first
    | assumption | refine State.onTime_stores ?_ | refine State.at_stores ?_ | refine State.flagFall_stores ?_ | refine State.chooseSource_stores ?_
    | refine keeps_next ?_ | split))
theorem execPtpEventFrame_stores {f : PtpFrame} {s : State} (h : s.Keeps) : KeepsOut (execPtpEventFrame f s) := by
  unfold execPtpEventFrame
  repeat (any_goals (with_reducible first
    | assumption | refine State.deliver_stores ?_ | refine keeps_next ?_ | refine keepsOut_ite (fun _ => ?_) (fun _ => ?_)))
theorem execPpsOutEdge_stores {s : State} (h : s.Keeps) : KeepsOut (execPpsOutEdge s) := by
  unfold execPpsOutEdge
  repeat (any_goals (with_reducible first
    | assumption | refine State.onPins_stores ?_ | refine State.at_stores ?_ | refine State.onTime_stores ?_ | refine keeps_next ?_
    | refine keepsOut_ite (fun _ => ?_) (fun _ => ?_) | lift_lets -underBinder | split))
theorem execPpsPulse_stores {at_ : Nat} {ns : Nat} {s : State} (h : s.Keeps) : KeepsOut (execPpsPulse at_ ns s) := by
  unfold execPpsPulse
  repeat (any_goals (with_reducible first
    | assumption | refine State.onCnt_stores ?_ | refine State.onTime_stores ?_ | refine State.sample_stores ?_ | refine keeps_next ?_
    | refine keepsOut_ite (fun _ => ?_) (fun _ => ?_)))
theorem execRdsSyncFound_stores {keyed : List Bool} {s : State} (h : s.Keeps) : KeepsOut (execRdsSyncFound keyed s) := by
  unfold execRdsSyncFound
  repeat (any_goals (with_reducible first
    | assumption | refine State.onBc_stores ?_ | refine keeps_next ?_ | refine keepsOut_ite (fun _ => ?_) (fun _ => ?_)))
theorem execBcAf_stores {x0 : Hdr} {mode : U8} {x2 : U8} {pi : U16} {codes : Bytes} {s : State} (h : s.Keeps) : KeepsOut (execBcAf x0 mode x2 pi codes s) := by
  unfold execBcAf
  repeat (any_goals (with_reducible first
    | assumption | refine State.host_stores ?_ ?_ | refine State.onBc_stores ?_ | refine State.answer_stores ?_ | refine keeps_next ?_
    | refine keeps_ite (fun _ => ?_) (fun _ => ?_) | (intro x; try clear_value x)))
theorem State.muteTune_stores {s : State} {lf : Bool} (h : s.Keeps) : (State.muteTune s lf).Keeps := by
  unfold State.muteTune
  repeat (any_goals (with_reducible first
    | assumption | refine State.onBc_stores ?_))
theorem State.tuneVhf_stores {s : State} {f : Nat} {tag : U16} (h : s.Keeps) : (State.tuneVhf s f tag).Keeps := by
  unfold State.tuneVhf
  repeat (any_goals (with_reducible first
    | assumption | refine State.onBc_stores ?_ | refine State.muteTune_stores ?_ | refine State.hopSyn_stores ?_ | refine State.onSynth_stores ?_
    | refine State.startSyn_stores ?_ | refine keeps_ite (fun _ => ?_) (fun _ => ?_)))
theorem State.afSwitch_stores {s : State} {c : U8} (h : s.Keeps) : (State.afSwitch s c).Keeps := by
  unfold State.afSwitch
  repeat (any_goals (with_reducible first
    | assumption | refine State.deliver_stores ?_ | refine State.onBc_stores ?_ | refine State.tuneVhf_stores ?_))
theorem State.sendRds_stores {s : State} {g : RdsGroup} {event : Nat} {aid : Nat} {payload : Bytes} (h : s.Keeps) :
    (State.sendRds s g event aid payload).Keeps := by
  unfold State.sendRds
  repeat (any_goals (with_reducible first
    | assumption | refine State.onBc_stores ?_ | refine State.deliver_stores ?_))
theorem State.takeRt_stores {s : State} {g : RdsGroup} (h : s.Keeps) : (State.takeRt s g).Keeps := by
  unfold State.takeRt
  repeat (any_goals (with_reducible first
    | assumption | refine State.onBc_stores ?_ | refine State.sendRds_stores ?_ | refine keeps_ite (fun _ => ?_) (fun _ => ?_)))
theorem State.tuneLfmf_stores {s : State} {f : Nat} {profile : Nat} {tag : U16} (h : s.Keeps) : (State.tuneLfmf s f profile tag).Keeps := by
  unfold State.tuneLfmf
  repeat (any_goals (with_reducible first
    | assumption | refine State.onBc_stores ?_ | refine State.muteTune_stores ?_))
theorem execBcTune_stores {x0 : Hdr} {path : U8} {profile : U8} {reserved : U16} {freq : U32} {s : State} (h : s.Keeps) : KeepsOut (execBcTune x0 path profile reserved freq s) := by
  unfold execBcTune
  repeat (any_goals (with_reducible first
    | assumption | refine State.host_stores ?_ ?_ | refine State.hold_stores ?_ | refine State.tuneVhf_stores ?_ | refine State.onBc_stores ?_
    | refine State.tuneLfmf_stores ?_ | refine keeps_next ?_ | refine keeps_ite (fun _ => ?_) (fun _ => ?_) | (intro x; try clear_value x)))
theorem State.closeAf_stores {s : State} {g : RdsGroup} (h : s.Keeps) : (State.closeAf s g).Keeps := by
  unfold State.closeAf
  repeat (any_goals (with_reducible first
    | assumption | refine State.onBc_stores ?_ | refine State.sendRds_stores ?_ | refine keeps_ite (fun _ => ?_) (fun _ => ?_)
    | (intro x; try clear_value x) | lift_lets -underBinder | split))
theorem State.takeAf_stores {s : State} {g : RdsGroup} (h : s.Keeps) : (State.takeAf s g).Keeps := by
  unfold State.takeAf
  repeat (any_goals (with_reducible first
    | assumption | refine State.onBc_stores ?_ | refine State.closeAf_stores ?_ | refine keeps_ite (fun _ => ?_) (fun _ => ?_)))
theorem State.takePs_stores {s : State} {g : RdsGroup} (h : s.Keeps) : (State.takePs s g).Keeps := by
  unfold State.takePs
  repeat (any_goals (with_reducible first
    | assumption | refine State.onBc_stores ?_ | refine State.sendRds_stores ?_ | refine keeps_ite (fun _ => ?_) (fun _ => ?_)))
theorem State.takeOda_stores {s : State} {g : RdsGroup} (h : s.Keeps) : (State.takeOda s g).Keeps := by
  unfold State.takeOda
  repeat (any_goals (with_reducible first
    | assumption | refine State.onBc_stores ?_ | refine State.sendRds_stores ?_ | refine keeps_ite (fun _ => ?_) (fun _ => ?_)))
theorem State.takeClock_stores {s : State} {g : RdsGroup} (h : s.Keeps) : (State.takeClock s g).Keeps := by
  unfold State.takeClock
  repeat (any_goals (with_reducible first
    | assumption | refine State.sendRds_stores ?_ | refine State.sample_stores ?_ | refine keeps_ite (fun _ => ?_) (fun _ => ?_)))
theorem State.takeApp_stores {s : State} {g : RdsGroup} (h : s.Keeps) : (State.takeApp s g).Keeps := by
  unfold State.takeApp
  repeat (any_goals (with_reducible first
    | assumption | refine State.sendRds_stores ?_ | refine keeps_ite (fun _ => ?_) (fun _ => ?_) | lift_lets -underBinder | split))
theorem State.useGroup_stores {s : State} {g : RdsGroup} (h : s.Keeps) : (State.useGroup s g).Keeps := by
  unfold State.useGroup
  repeat (any_goals (with_reducible first
    | assumption | refine State.onBc_stores ?_ | refine State.takeAf_stores ?_ | refine State.takePs_stores ?_ | refine State.takeRt_stores ?_
    | refine State.takeOda_stores ?_ | refine State.takeClock_stores ?_ | refine State.takeApp_stores ?_ | refine keeps_ite (fun _ => ?_) (fun _ => ?_)
    | lift_lets -underBinder | split))
theorem State.takeGroup_stores {s : State} {g : RdsGroup} (h : s.Keeps) : (State.takeGroup s g).Keeps := by
  unfold State.takeGroup
  repeat (any_goals (with_reducible first
    | assumption | refine State.onBc_stores ?_ | refine State.useGroup_stores ?_ | refine State.each_stores ?_ ?_
    | refine keeps_ite (fun _ => ?_) (fun _ => ?_) | (intro x; refine keeps_let (x := x) ?_ ?_; unfold x; rotate_left; intro hx; clear_value x)
    | (intro x; try clear_value x) | lift_lets -underBinder | split))
theorem execRdsGroup_stores {g : RdsIn} {s : State} (h : s.Keeps) : KeepsOut (execRdsGroup g s) := by
  unfold execRdsGroup
  repeat (any_goals (with_reducible first
    | assumption | refine State.takeGroup_stores ?_ | refine keeps_next ?_ | refine keepsOut_ite (fun _ => ?_) (fun _ => ?_)))
theorem State.sendLf_stores {s : State} {f : LfFrame} {event : Nat} {payload : Bytes} (h : s.Keeps) :
    (State.sendLf s f event payload).Keeps := by
  unfold State.sendLf
  repeat (any_goals (with_reducible first
    | assumption | refine State.onBc_stores ?_ | refine State.deliver_stores ?_))
theorem State.timeFrame_stores {s : State} {f : LfFrame} (h : s.Keeps) : (State.timeFrame s f).Keeps := by
  unfold State.timeFrame
  repeat (any_goals (with_reducible first
    | assumption | refine State.onBc_stores ?_ | refine State.sendLf_stores ?_ | refine State.sample_stores ?_ | refine keeps_ite (fun _ => ?_) (fun _ => ?_)
    | (intro x; try clear_value x) | lift_lets -underBinder | split))
theorem execLfFrame_stores {f : LfIn} {s : State} (h : s.Keeps) : KeepsOut (execLfFrame f s) := by
  unfold execLfFrame
  repeat (any_goals (with_reducible first
    | assumption | refine State.sendLf_stores ?_ | refine State.timeFrame_stores ?_ | refine keeps_next ?_
    | refine keepsOut_ite (fun _ => ?_) (fun _ => ?_) | refine keeps_ite (fun _ => ?_) (fun _ => ?_) | lift_lets -underBinder | split))
theorem State.quietHop_stores {s : State} {f : Nat} (h : s.Keeps) : (State.quietHop s f).Keeps := by
  unfold State.quietHop
  repeat (any_goals (with_reducible first
    | assumption | refine State.lockOwn_stores ?_ | refine State.hopSyn_stores ?_ | refine State.onSynth_stores ?_
    | refine keeps_ite (fun _ => ?_) (fun _ => ?_)))
theorem State.quietCheck_stores {s : State} {f : Nat} (h : s.Keeps) : (State.quietCheck s f).Keeps := by
  unfold State.quietCheck
  repeat (any_goals (with_reducible first
    | assumption | refine State.onBc_stores ?_ | refine State.quietHop_stores ?_))
theorem execAfCheck_stores {rssi : Int} {s : State} (h : s.Keeps) : KeepsOut (execAfCheck rssi s) := by
  unfold execAfCheck
  repeat (any_goals (with_reducible first
    | assumption | refine State.onBc_stores ?_ | refine State.quietCheck_stores ?_ | refine State.afSwitch_stores ?_ | refine keeps_next ?_
    | refine keepsOut_ite (fun _ => ?_) (fun _ => ?_) | refine keeps_ite (fun _ => ?_) (fun _ => ?_) | lift_lets -underBinder | split))
theorem execBcTuneComplete_stores {lf : Bool} {rssi : Int} {s : State} (h : s.Keeps) : KeepsOut (execBcTuneComplete lf rssi s) := by
  unfold execBcTuneComplete
  repeat (any_goals (with_reducible first
    | assumption | refine State.finish_stores ?_ | refine State.onBc_stores ?_ | refine keeps_next ?_ | refine keepsOut_ite (fun _ => ?_) (fun _ => ?_)
    | lift_lets -underBinder | split))
theorem execRdsSyncLost_stores {s : State} (h : s.Keeps) : KeepsOut (execRdsSyncLost s) := by
  unfold execRdsSyncLost
  repeat (any_goals (with_reducible first
    | assumption | refine State.onBc_stores ?_ | refine keeps_next ?_ | refine keepsOut_ite (fun _ => ?_) (fun _ => ?_)))
theorem execAfPiTimeout_stores {s : State} (h : s.Keeps) : KeepsOut (execAfPiTimeout s) := by
  unfold execAfPiTimeout
  repeat (any_goals (with_reducible first
    | assumption | refine State.at_stores ?_ | refine State.onBc_stores ?_ | refine State.tuneVhf_stores ?_ | refine keeps_next ?_ | split))
theorem execLfSecondMarker_stores {at_ : Nat} {s : State} (h : s.Keeps) : KeepsOut (execLfSecondMarker at_ s) := by
  unfold execLfSecondMarker
  repeat (any_goals (with_reducible first
    | assumption | refine State.sample_stores ?_ | refine State.onBc_stores ?_ | refine keeps_next ?_ | refine keepsOut_ite (fun _ => ?_) (fun _ => ?_)
    | (intro x; try clear_value x) | lift_lets -underBinder | split))
theorem State.catchAudio_stores {s : State} {vhf : List IqSample} {lfmf : List IqSample} (h : s.Keeps) :
    (State.catchAudio s vhf lfmf).Keeps := by
  unfold State.catchAudio
  repeat (any_goals (with_reducible first
    | assumption | refine State.onBc_stores ?_ | refine keeps_ite (fun _ => ?_) (fun _ => ?_)))
theorem State.skipAudio_stores {s : State} {n : Nat} (h : s.Keeps) : (State.skipAudio s n).Keeps := by
  unfold State.skipAudio
  repeat (any_goals (with_reducible first
    | assumption | refine State.onBc_stores ?_))
theorem State.clearInst_stores {s : State} {n : Nat} (h : s.Keeps) : (s.clearInst n).Keeps := by
  unfold State.clearInst
  exact State.onInst_stores (State.onMem_stores h fun k => ⟨cellsWf_filter _ _ _ k.cells, k.active, k.shadow⟩)
theorem State.clearCrew_stores {s : State} {c : Nat} (h : s.Keeps) : (State.clearCrew s c).Keeps := by
  unfold State.clearCrew
  repeat (any_goals (with_reducible first
    | assumption | refine State.each_stores ?_ ?_ | refine State.setPowers_stores ?_ | refine State.clearInst_stores ?_
    | (intro x; refine keeps_let (x := x) ?_ ?_; unfold x; rotate_left; intro hx; clear_value x) | (intro x; try clear_value x)
    | lift_lets -underBinder | exact keeps_mk (State.Keeps.stores (by assumption))))
theorem State.loadCrew_stores {s : State} {c : Nat} {b : Bytes} (h : s.Keeps) : (State.loadCrew s c b).Keeps := by
  unfold State.loadCrew
  repeat (any_goals (with_reducible first
    | assumption | refine State.each_stores ?_ ?_ | refine State.clearCrew_stores ?_ | refine State.pokeBytes_stores ?_ | (intro x; try clear_value x)
    | lift_lets -underBinder | split))
theorem State.stageChunk_stores {s : State} {c : Nat} {chunk : Nat} {pkgLen : Nat} {data : Bytes} (h : s.Keeps) :
    (State.stageChunk s c chunk pkgLen data).Keeps := by
  unfold State.stageChunk
  repeat (any_goals (with_reducible first
    | assumption | refine State.onBoot_stores ?_ | refine State.pokeBytes_stores ?_))
theorem State.beginCommit_stores {s : State} {c : Nat} {tag : U16} {pkgLen : Nat} (h : s.Keeps) :
    (State.beginCommit s c tag pkgLen).Keeps := by
  unfold State.beginCommit
  repeat (any_goals (with_reducible first
    | assumption | refine State.onBoot_stores ?_ | refine State.progress_stores ?_))
theorem State.queueTag_stores {s : State} {tag : U16} (h : s.Keeps) : (State.queueTag s tag).Keeps := by
  unfold State.queueTag
  repeat (any_goals (with_reducible first
    | assumption | refine State.post_stores ?_ | refine State.onLinks_stores ?_ | split))
theorem State.runCrewJob_stores {s : State} {c : Nat} {tag : U16} {x3 : CrewJob} (h : s.Keeps) : (State.runCrewJob s c tag x3).1.Keeps := by
  unfold State.runCrewJob
  repeat (any_goals (with_reducible first
    | assumption | refine State.finish_stores ?_ | refine State.onCrew_stores ?_ | refine State.loadCrew_stores ?_ | refine State.stageChunk_stores ?_
    | refine State.beginCommit_stores ?_ | refine State.queueTag_stores ?_ | split))
theorem State.serveCrew_stores {s : State} {c : Nat} {fuel : Nat} (h : s.Keeps) : (State.serveCrew s c fuel).Keeps := by
  induction fuel generalizing s with
  | zero => exact h
  | succ f ih =>
    unfold State.serveCrew
    repeat (any_goals (with_reducible first
      | assumption | apply ih | refine State.onCrew_stores ?_ | refine State.runCrewJob_stores ?_ | refine keeps_ite (fun _ => ?_) (fun _ => ?_)
      | lift_lets -underBinder | split))
theorem State.waitCrew_stores {s : State} {x1 : Hdr} {op : Nat} {c : Nat} {j : CrewJob} (h : s.Keeps) :
    (State.waitCrew s x1 op c j).Keeps := by
  unfold State.waitCrew
  repeat (any_goals (with_reducible first
    | assumption | refine State.serveCrew_stores ?_ | refine State.onCrew_stores ?_ | refine State.hold_stores ?_))
theorem State.haltCrew_stores {s : State} {c : Nat} {st : CrewSt} (h : s.Keeps) : (State.haltCrew s c st).Keeps := by
  unfold State.haltCrew
  repeat (any_goals (with_reducible first
    | assumption | refine State.each_stores ?_ ?_ | refine State.onScull_stores ?_ | refine State.moveCrew_stores ?_ | refine State.onMem_stores ?_ ?_
    | (intro x; try clear_value x)))
theorem State.faultCrew_stores {s : State} {c : Nat} (h : s.Keeps) : (State.faultCrew s c).Keeps := by
  unfold State.faultCrew
  repeat (any_goals (with_reducible first
    | assumption | refine State.onCrew_stores ?_ | refine State.haltCrew_stores ?_ | refine State.serveCrew_stores ?_ | refine State.finish_stores ?_
    | refine State.audit_stores ?_))
theorem execCrewFlagFall_stores {crew : Fin 8} {s : State} (h : s.Keeps) : KeepsOut (execCrewFlagFall crew s) := by
  unfold execCrewFlagFall
  repeat (any_goals (with_reducible first
    | assumption | refine State.flagFall_stores ?_ | refine State.faultCrew_stores ?_ | refine keeps_next ?_
    | refine keepsOut_ite (fun _ => ?_) (fun _ => ?_)))
theorem State.deadScull_stores {s : State} {c : Nat} (h : s.Keeps) : (State.deadScull s c).Keeps := by
  unfold State.deadScull
  repeat (any_goals (with_reducible first
    | assumption | refine State.onScull_stores ?_ | refine State.faultCrew_stores ?_ | refine State.resetScull_stores ?_
    | refine keeps_ite (fun _ => ?_) (fun _ => ?_)))
theorem State.startCrew_stores {s : State} {c : Nat} {tag : U16} (h : s.Keeps) : (State.startCrew s c tag).Keeps := by
  unfold State.startCrew
  repeat (any_goals (with_reducible first
    | assumption | refine State.each_stores ?_ ?_ | refine State.onScull_stores ?_ | refine State.onCrew_stores ?_ | refine State.moveCrew_stores ?_
    | refine State.finish_stores ?_ | refine State.audit_stores ?_ | refine keeps_ite (fun _ => ?_) (fun _ => ?_) | (intro x; try clear_value x)))
theorem State.catchCrew_stores {s : State} {c : Nat} (h : s.Keeps) : (State.catchCrew s c).Keeps := by
  unfold State.catchCrew
  repeat (any_goals (with_reducible first
    | assumption | refine State.finish_stores ?_ | refine State.audit_stores ?_ | refine State.onCrew_stores ?_ | refine State.haltCrew_stores ?_
    | refine State.startCrew_stores ?_ | refine State.serveCrew_stores ?_ | lift_lets -underBinder | split))
theorem State.crewCommand_stores {s : State} {x1 : Hdr} {op : Nat} {crew : U8} {reserved : BitVec 24} {start : Bool} (h : s.Keeps) :
    (State.crewCommand s x1 op crew reserved start).Keeps := by
  unfold State.crewCommand
  repeat (any_goals (with_reducible first
    | assumption | refine State.host_stores ?_ ?_ | refine State.waitCrew_stores ?_ | (intro x; try clear_value x)))
theorem execCrewStart_stores {x0 : Hdr} {crew : U8} {reserved : BitVec 24} {s : State} (h : s.Keeps) : KeepsOut (execCrewStart x0 crew reserved s) := by
  unfold execCrewStart
  repeat (any_goals (with_reducible first
    | assumption | refine State.crewCommand_stores ?_ | refine keeps_next ?_))
theorem State.dropOwed_stores {s : State} {c : Nat} {fuel : Nat} (h : s.Keeps) : (State.dropOwed s c fuel).Keeps := by
  induction fuel generalizing s with
  | zero => exact h
  | succ f ih =>
    unfold State.dropOwed
    repeat (any_goals (with_reducible first
      | assumption | apply ih | refine State.onCrew_stores ?_ | refine keeps_ite (fun _ => ?_) (fun _ => ?_)))
theorem State.accountCrew_stores {s : State} {c : Nat} (h : s.Keeps) : (State.accountCrew s c).Keeps := by
  unfold State.accountCrew
  repeat (any_goals (with_reducible first
    | assumption | refine State.dropOwed_stores ?_ | refine State.each_stores ?_ ?_ | refine State.onScull_stores ?_ | refine State.onCrew_stores ?_
    | refine keeps_ite (fun _ => ?_) (fun _ => ?_) | (intro x; try clear_value x)))
theorem execCrewMissedStroke_stores {crew : Fin 8} {s : State} (h : s.Keeps) : KeepsOut (execCrewMissedStroke crew s) := by
  unfold execCrewMissedStroke
  repeat (any_goals (with_reducible first
    | assumption | refine State.dropOwed_stores ?_ | refine State.each_stores ?_ ?_ | refine State.onScull_stores ?_ | refine State.onCnt_stores ?_
    | refine State.onCrew_stores ?_ | refine State.missedEvent_stores ?_ | refine keeps_next ?_ | refine keepsOut_ite (fun _ => ?_) (fun _ => ?_)
    | (intro x; try clear_value x)))
theorem execCrewStop_stores {x0 : Hdr} {crew : U8} {reserved : BitVec 24} {s : State} (h : s.Keeps) : KeepsOut (execCrewStop x0 crew reserved s) := by
  unfold execCrewStop
  repeat (any_goals (with_reducible first
    | assumption | refine State.crewCommand_stores ?_ | refine keeps_next ?_))
theorem State.serveTdm_stores {s : State} {fuel : Nat} (h : s.Keeps) : (State.serveTdm s fuel).Keeps := by
  induction fuel generalizing s with
  | zero => exact h
  | succ f ih =>
    unfold State.serveTdm
    repeat (any_goals (with_reducible first
      | assumption | apply ih | refine State.onTdm_stores ?_ | refine State.finish_stores ?_ | refine keeps_ite (fun _ => ?_) (fun _ => ?_)
      | lift_lets -underBinder | split))
theorem State.tdmCommand_stores {s : State} {x1 : Hdr} {op : Nat} {start : Bool} (h : s.Keeps) :
    (State.tdmCommand s x1 op start).Keeps := by
  unfold State.tdmCommand
  repeat (any_goals (with_reducible first
    | assumption | refine State.host_stores ?_ ?_ | refine State.serveTdm_stores ?_ | refine State.onTdm_stores ?_ | refine State.hold_stores ?_
    | (intro x; try clear_value x)))
theorem execTdmStart_stores {x0 : Hdr} {s : State} (h : s.Keeps) : KeepsOut (execTdmStart x0 s) := by
  unfold execTdmStart
  repeat (any_goals (with_reducible first
    | assumption | refine State.tdmCommand_stores ?_ | refine keeps_next ?_))
theorem State.tdmRestart_stores {s : State} (h : s.Keeps) : (State.tdmRestart s).Keeps := by
  unfold State.tdmRestart
  repeat (any_goals (with_reducible first
    | assumption | refine State.onTdm_stores ?_))
theorem execStreamSampleDrop_stores {g : Fin 4} {ofs : Nat} {s : State} (h : s.Keeps) : KeepsOut (execStreamSampleDrop g ofs s) := by
  unfold execStreamSampleDrop
  repeat (any_goals (with_reducible first
    | assumption | refine State.onGroup_stores ?_ | refine keeps_next ?_ | refine keepsOut_ite (fun _ => ?_) (fun _ => ?_)))
theorem execTdmStop_stores {x0 : Hdr} {s : State} (h : s.Keeps) : KeepsOut (execTdmStop x0 s) := by
  unfold execTdmStop
  repeat (any_goals (with_reducible first
    | assumption | refine State.tdmCommand_stores ?_ | refine keeps_next ?_))
theorem execTdmSlaveStall_stores {s : State} (h : s.Keeps) : KeepsOut (execTdmSlaveStall s) := by
  unfold execTdmSlaveStall
  repeat (any_goals (with_reducible first
    | assumption | refine State.streamFault_stores ?_ | refine State.onTdm_stores ?_ | refine keeps_next ?_
    | refine keepsOut_ite (fun _ => ?_) (fun _ => ?_)))
theorem execStreamStall_stores {g : Fin 4} {s : State} (h : s.Keeps) : KeepsOut (execStreamStall g s) := by
  unfold execStreamStall
  repeat (any_goals (with_reducible first
    | assumption | refine State.stallGroup_stores ?_ | refine keeps_next ?_ | refine keepsOut_ite (fun _ => ?_) (fun _ => ?_)))
theorem execTdmOverflow_stores {s : State} (h : s.Keeps) : KeepsOut (execTdmOverflow s) := by
  unfold execTdmOverflow
  repeat (any_goals (with_reducible first
    | assumption | refine State.onTdm_stores ?_ | refine keeps_next ?_ | refine keepsOut_ite (fun _ => ?_) (fun _ => ?_)))
theorem State.audioDue_stores {s : State} (h : s.Keeps) : (State.audioDue s).Keeps := by
  unfold State.audioDue
  repeat (any_goals (with_reducible first
    | assumption | refine State.trimAuto_stores ?_ | refine keeps_ite (fun _ => ?_) (fun _ => ?_)))
theorem State.serveGroup_stores {s : State} {g : Nat} {fuel : Nat} (h : s.Keeps) : (State.serveGroup s g fuel).Keeps := by
  induction fuel generalizing s with
  | zero => exact h
  | succ f ih =>
    unfold State.serveGroup
    repeat (any_goals (with_reducible first
      | assumption | apply ih | refine State.onGroup_stores ?_ | refine State.finish_stores ?_ | refine keeps_ite (fun _ => ?_) (fun _ => ?_)
      | lift_lets -underBinder | split))
theorem State.groupCommand_stores {s : State} {x1 : Hdr} {op : Nat} {group : U8} {reserved : BitVec 24} {start : Bool} (h : s.Keeps) :
    (State.groupCommand s x1 op group reserved start).Keeps := by
  unfold State.groupCommand
  repeat (any_goals (with_reducible first
    | assumption | refine State.host_stores ?_ ?_ | refine State.serveGroup_stores ?_ | refine State.onGroup_stores ?_ | refine State.hold_stores ?_
    | (intro x; try clear_value x)))
theorem State.changeGroup_stores {s : State} {old : List Host.Cell} {new : List Host.Cell} {castled : Bool} {g : Nat} (h : s.Keeps) :
    (State.changeGroup s old new castled g).Keeps := by
  unfold State.changeGroup
  repeat (any_goals (with_reducible first
    | assumption | refine State.onGroup_stores ?_ | refine keeps_ite (fun _ => ?_) (fun _ => ?_)))
theorem execTdmStopEnd_stores {s : State} (h : s.Keeps) : KeepsOut (execTdmStopEnd s) := by
  unfold execTdmStopEnd
  repeat (any_goals (with_reducible first
    | assumption | refine State.onTdm_stores ?_ | refine State.moveTdm_stores ?_ | refine State.serveTdm_stores ?_ | refine State.audioDue_stores ?_
    | refine State.finish_stores ?_ | refine keeps_next ?_ | split))
theorem execTdmRestartEnd_stores {s : State} (h : s.Keeps) : KeepsOut (execTdmRestartEnd s) := by
  unfold execTdmRestartEnd
  repeat (any_goals (with_reducible first
    | assumption | refine State.onTdm_stores ?_ | refine State.moveTdm_stores ?_ | refine keeps_next ?_ | refine keepsOut_ite (fun _ => ?_) (fun _ => ?_)
    | lift_lets -underBinder | split))
theorem State.beginGroup_stores {s : State} {g : Nat} {t0 : Nat} {tag : U16} (h : s.Keeps) : (State.beginGroup s g t0 tag).Keeps := by
  unfold State.beginGroup
  repeat (any_goals (with_reducible first
    | assumption | refine State.onGroup_stores ?_ | refine State.moveGroup_stores ?_ | refine State.finish_stores ?_ | refine State.audit_stores ?_))
theorem execStreamStallEnd_stores {g : Fin 4} {s : State} (h : s.Keeps) : KeepsOut (execStreamStallEnd g s) := by
  unfold execStreamStallEnd
  repeat (any_goals (with_reducible first
    | assumption | refine State.resumeGroup_stores ?_ | refine keeps_next ?_ | refine keepsOut_ite (fun _ => ?_) (fun _ => ?_)))
theorem execTdmStartTimeout_stores {s : State} (h : s.Keeps) : KeepsOut (execTdmStartTimeout s) := by
  unfold execTdmStartTimeout
  repeat (any_goals (with_reducible first
    | assumption | refine State.serveTdm_stores ?_ | refine State.finish_stores ?_ | refine State.fallLine_stores ?_ | refine State.onTdm_stores ?_
    | refine State.at_stores ?_ | refine keeps_next ?_ | refine keepsOut_ite (fun _ => ?_) (fun _ => ?_) | split))
theorem State.rateGroup_stores {s : State} {g : Nat} {whole : Bool} {l : List SckEdge} (h : s.Keeps) :
    (State.rateGroup s g whole l).Keeps := by
  unfold State.rateGroup
  repeat (any_goals (with_reducible first
    | assumption | refine State.onGroup_stores ?_ | refine keeps_ite (fun _ => ?_) (fun _ => ?_) | lift_lets -underBinder | split))
theorem State.postGroup_stores {s : State} {g : Nat} {l : List SckEdge} (h : s.Keeps) : (State.postGroup s g l).Keeps := by
  unfold State.postGroup
  repeat (any_goals (with_reducible first
    | assumption | refine State.onGroup_stores ?_ | refine State.memWrite_stores ?_))
theorem State.spoilLeak_stores {s : State} {g : Nat} (h : s.Keeps) : (State.spoilLeak s g).Keeps := by
  unfold State.spoilLeak
  repeat (any_goals (with_reducible first
    | assumption | refine State.onLeak_stores ?_ | refine keeps_ite (fun _ => ?_) (fun _ => ?_) | split))
theorem State.startAtCatch_stores {s : State} {g : Nat} {i : Option StreamIn} (h : s.Keeps) : (State.startAtCatch s g i).Keeps := by
  unfold State.startAtCatch
  repeat (any_goals (with_reducible first
    | assumption | refine State.beginGroup_stores ?_ | refine State.finish_stores ?_ | refine State.onGroup_stores ?_
    | refine keeps_ite (fun _ => ?_) (fun _ => ?_) | (intro x; refine keeps_let (x := x) ?_ ?_; unfold x; rotate_left; intro hx; clear_value x)
    | (intro x; try clear_value x) | lift_lets -underBinder | split))
theorem State.catchGroup_stores {s : State} {ins : List StreamIn} {g : Nat} (h : s.Keeps) : (State.catchGroup s ins g).Keeps := by
  unfold State.catchGroup
  repeat (any_goals (with_reducible first
    | assumption | refine State.rateGroup_stores ?_ | refine State.postGroup_stores ?_ | refine State.finish_stores ?_ | refine State.spoilLeak_stores ?_
    | refine State.onGroup_stores ?_ | refine State.moveGroup_stores ?_ | refine State.serveGroup_stores ?_ | refine State.startAtCatch_stores ?_
    | refine keeps_ite (fun _ => ?_) (fun _ => ?_) | lift_lets -underBinder | split))
theorem execTdmUnderrun_stores {s : State} (h : s.Keeps) : KeepsOut (execTdmUnderrun s) := by
  unfold execTdmUnderrun
  repeat (any_goals (with_reducible first
    | assumption | refine State.onTdm_stores ?_ | refine keeps_next ?_ | refine keepsOut_ite (fun _ => ?_) (fun _ => ?_)))
theorem State.changeTdm_stores {s : State} {old : List Host.Cell} {new : List Host.Cell} (h : s.Keeps) :
    (State.changeTdm s old new).Keeps := by
  unfold State.changeTdm
  repeat (any_goals (with_reducible first
    | assumption | refine State.tdmRestart_stores ?_ | refine keeps_ite (fun _ => ?_) (fun _ => ?_)))
theorem execSlotSlip_stores {s : State} (h : s.Keeps) : KeepsOut (execSlotSlip s) := by
  unfold execSlotSlip
  repeat (any_goals (with_reducible first
    | assumption | refine State.raise_stores ?_ | refine State.onTdm_stores ?_ | refine State.moveTdm_stores ?_ | refine State.tdmRestart_stores ?_
    | refine keeps_next ?_ | refine keepsOut_ite (fun _ => ?_) (fun _ => ?_) | refine keeps_ite (fun _ => ?_) (fun _ => ?_)))
theorem execTdmStartFrameSync_stores {lens : List Nat} {span : Nat} {s : State} (h : s.Keeps) : KeepsOut (execTdmStartFrameSync lens span s) := by
  unfold execTdmStartFrameSync
  repeat (any_goals (with_reducible first
    | assumption | refine State.serveTdm_stores ?_ | refine State.finish_stores ?_ | refine State.onTdm_stores ?_ | refine State.at_stores ?_
    | refine State.moveTdm_stores ?_ | refine State.audit_stores ?_ | refine keeps_next ?_ | refine keepsOut_ite (fun _ => ?_) (fun _ => ?_)
    | refine keeps_ite (fun _ => ?_) (fun _ => ?_) | split))
theorem execStreamStop_stores {x0 : Hdr} {group : U8} {reserved : BitVec 24} {s : State} (h : s.Keeps) : KeepsOut (execStreamStop x0 group reserved s) := by
  unfold execStreamStop
  repeat (any_goals (with_reducible first
    | assumption | refine State.groupCommand_stores ?_ | refine keeps_next ?_))
theorem State.catchTdm_stores {s : State} {i : CatchIn} (h : s.Keeps) : (State.catchTdm s i).Keeps := by
  unfold State.catchTdm
  repeat (any_goals (with_reducible first
    | assumption | refine State.serveTdm_stores ?_ | refine State.onTdm_stores ?_ | refine keeps_ite (fun _ => ?_) (fun _ => ?_)))
theorem execStreamStartTimeout_stores {g : Fin 4} {s : State} (h : s.Keeps) : KeepsOut (execStreamStartTimeout g s) := by
  unfold execStreamStartTimeout
  repeat (any_goals (with_reducible first
    | assumption | refine State.serveGroup_stores ?_ | refine State.finish_stores ?_ | refine State.fallLine_stores ?_ | refine State.onGroup_stores ?_
    | refine State.at_stores ?_ | refine keeps_next ?_ | refine keepsOut_ite (fun _ => ?_) (fun _ => ?_) | (intro x; try clear_value x)
    | lift_lets -underBinder | split))
theorem execTdmFrameError_stores {missing : Bool} {displaced : Nat} {s : State} (h : s.Keeps) : KeepsOut (execTdmFrameError missing displaced s) := by
  unfold execTdmFrameError
  repeat (any_goals (with_reducible first
    | assumption | refine State.onTdm_stores ?_ | refine keeps_next ?_ | refine keepsOut_ite (fun _ => ?_) (fun _ => ?_)))
theorem execTdmSlaveStallEnd_stores {s : State} (h : s.Keeps) : KeepsOut (execTdmSlaveStallEnd s) := by
  unfold execTdmSlaveStallEnd
  repeat (any_goals (with_reducible first
    | assumption | refine State.tdmRestart_stores ?_ | refine State.streamFault_stores ?_ | refine State.onTdm_stores ?_ | refine keeps_next ?_
    | refine keepsOut_ite (fun _ => ?_) (fun _ => ?_)))
theorem execTdmRateFault_stores {s : State} (h : s.Keeps) : KeepsOut (execTdmRateFault s) := by
  unfold execTdmRateFault
  repeat (any_goals (with_reducible first
    | assumption | refine State.onTdm_stores ?_ | refine State.moveTdm_stores ?_ | refine State.streamFault_stores ?_ | refine State.serveTdm_stores ?_
    | refine State.audioDue_stores ?_ | refine State.finish_stores ?_ | refine keeps_next ?_ | refine keepsOut_ite (fun _ => ?_) (fun _ => ?_)
    | lift_lets -underBinder | split))
theorem execStreamStart_stores {x0 : Hdr} {group : U8} {reserved : BitVec 24} {s : State} (h : s.Keeps) : KeepsOut (execStreamStart x0 group reserved s) := by
  unfold execStreamStart
  repeat (any_goals (with_reducible first
    | assumption | refine State.groupCommand_stores ?_ | refine keeps_next ?_))
theorem execStreamRateFault_stores {g : Fin 4} {s : State} (h : s.Keeps) : KeepsOut (execStreamRateFault g s) := by
  unfold execStreamRateFault
  repeat (any_goals (with_reducible first
    | assumption | refine State.onGroup_stores ?_ | refine State.moveGroup_stores ?_ | refine State.streamFault_stores ?_ | refine State.spoilLeak_stores ?_
    | refine keeps_next ?_ | refine keepsOut_ite (fun _ => ?_) (fun _ => ?_)))
theorem State.closeWindow_stores {s : State} {c : Nat} {v : Nat} {i : Nat} {end_ : Nat} {short : Bool} (h : s.Keeps) :
    (State.closeWindow s c v i end_ short).Keeps := by
  unfold State.closeWindow
  repeat (any_goals (with_reducible first
    | assumption | refine State.onCircuit_stores ?_))
theorem State.restartPulses_stores {s : State} {c : Nat} (h : s.Keeps) : (State.restartPulses s c).Keeps := by
  unfold State.restartPulses
  repeat (any_goals (with_reducible first
    | assumption | refine State.onCircuit_stores ?_))
theorem State.openWindow_stores {s : State} {c : Nat} {n : Nat} {p : Plan} {b : SBlock} (h : s.Keeps) :
    (State.openWindow s c n p b).Keeps := by
  unfold State.openWindow
  repeat (any_goals (with_reducible first
    | assumption | refine State.onCircuit_stores ?_))
theorem State.setPulse_stores {s : State} {g : Nat} {on : Bool} (h : s.Keeps) : (State.setPulse s g on).Keeps := by
  unfold State.setPulse
  repeat (any_goals (with_reducible first
    | assumption | refine State.onPins_stores ?_))
theorem State.risePulse_stores {s : State} {c : Nat} (h : s.Keeps) : (State.risePulse s c).Keeps := by
  unfold State.risePulse
  repeat (any_goals (with_reducible first
    | assumption | refine State.setPulse_stores ?_ | refine State.onCircuit_stores ?_ | refine keeps_ite (fun _ => ?_) (fun _ => ?_)))
theorem State.owePulses_stores {s : State} {c : Nat} (h : s.Keeps) : (State.owePulses s c).Keeps := by
  unfold State.owePulses
  repeat (any_goals (with_reducible first
    | assumption | refine State.onCircuit_stores ?_ | refine State.risePulse_stores ?_ | refine keeps_ite (fun _ => ?_) (fun _ => ?_)))
theorem State.foldStroke_stores {s : State} {c : Nat} {d : Due} {b : SBlock} (h : s.Keeps) : (State.foldStroke s c d b).Keeps := by
  unfold State.foldStroke
  repeat (any_goals (with_reducible first
    | assumption | refine State.onCircuit_stores ?_))
theorem State.energyStroke_stores {s : State} {c : Nat} {d : Due} (h : s.Keeps) : (State.energyStroke s c d).Keeps := by
  unfold State.energyStroke
  repeat (any_goals (with_reducible first
    | assumption | refine State.onCircuit_stores ?_ | refine State.closeWindow_stores ?_ | refine State.restartPulses_stores ?_ | refine State.openWindow_stores ?_
    | refine State.owePulses_stores ?_ | refine State.foldStroke_stores ?_ | refine keeps_ite (fun _ => ?_) (fun _ => ?_)
    | (intro x; refine keeps_let (x := x) ?_ ?_; unfold x; rotate_left; intro hx; clear_value x) | (intro x; try clear_value x)
    | lift_lets -underBinder | split))
theorem execPulseLowEnd_stores {circuit : Fin 28} {s : State} (h : s.Keeps) : KeepsOut (execPulseLowEnd circuit s) := by
  unfold execPulseLowEnd
  repeat (any_goals (with_reducible first
    | assumption | refine State.risePulse_stores ?_ | refine State.onCircuit_stores ?_ | refine State.at_stores ?_ | refine keeps_next ?_ | split))
theorem State.withdraw_stores {s : State} {unit : Nat} {n : Nat} (h : s.Keeps) : (State.withdraw s unit n).Keeps := by
  unfold State.withdraw
  repeat (any_goals (with_reducible first
    | assumption | refine State.onRx_stores ?_))
theorem State.changePulses_stores {s : State} {old : List Host.Cell} {c : Nat} (h : s.Keeps) : (State.changePulses s old c).Keeps := by
  unfold State.changePulses
  repeat (any_goals (with_reducible first
    | assumption | refine State.onCircuit_stores ?_ | refine State.setPulse_stores ?_ | refine State.restartPulses_stores ?_
    | refine keeps_ite (fun _ => ?_) (fun _ => ?_)))
theorem State.catchUp_stores {s : State} {c : Nat} {fuel : Nat} (h : s.Keeps) : (State.catchUp s c fuel).Keeps := by
  induction fuel generalizing s with
  | zero => exact h
  | succ f ih =>
    unfold State.catchUp
    repeat (any_goals (with_reducible first
      | assumption | apply ih | refine State.onCircuit_stores ?_ | refine State.energyStroke_stores ?_ | refine keeps_ite (fun _ => ?_) (fun _ => ?_)
      | split))
theorem State.doDue_stores {s : State} {c : Nat} (h : s.Keeps) : (State.doDue s c).Keeps := by
  unfold State.doDue
  repeat (any_goals (with_reducible first
    | assumption | refine State.catchUp_stores ?_))
theorem State.catchEnergy_stores {s : State} (h : s.Keeps) : (State.catchEnergy s).Keeps := by
  unfold State.catchEnergy
  repeat (any_goals (with_reducible first
    | assumption | refine State.each_stores ?_ ?_ | refine State.doDue_stores ?_ | (intro x; try clear_value x)))
theorem execEnergyWindowRecord_stores {circuit : Fin 28} {s : State} (h : s.Keeps) : KeepsOut (execEnergyWindowRecord circuit s) := by
  unfold execEnergyWindowRecord
  repeat (any_goals (with_reducible first
    | assumption | refine State.deliver_stores ?_ | refine State.onCircuit_stores ?_ | refine keeps_next ?_ | split))
theorem State.skipped_stores {s : State} (h : s.Keeps) : (State.skipped s).Keeps := by
  unfold State.skipped
  repeat (any_goals (with_reducible first
    | assumption | refine State.missedEvent_stores ?_ | refine State.onCnt_stores ?_))
theorem State.skipPath_stores {s : State} {unit : Nat} {source : Nat} (h : s.Keeps) : (State.skipPath s unit source).Keeps := by
  unfold State.skipPath
  repeat (any_goals (with_reducible first
    | assumption | refine State.withdraw_stores ?_ | refine State.each_stores ?_ ?_ | refine State.skipAudio_stores ?_
    | refine keeps_ite (fun _ => ?_) (fun _ => ?_) | (intro x; try clear_value x)))
theorem execWorkSkipped_stores {broadcast : Bool} {unit : Fin 28} {s : State} (h : s.Keeps) : KeepsOut (execWorkSkipped broadcast unit s) := by
  unfold execWorkSkipped
  repeat (any_goals (with_reducible first
    | assumption | refine State.skipped_stores ?_ | refine State.onBc_stores ?_ | refine State.skipPath_stores ?_ | refine State.doDue_stores ?_
    | refine State.onCircuit_stores ?_ | refine State.withdraw_stores ?_ | refine keeps_next ?_ | refine keepsOut_ite (fun _ => ?_) (fun _ => ?_)
    | lift_lets -underBinder | split))
theorem State.planEnergy_stores {s : State} (h : s.Keeps) : (State.planEnergy s).Keeps := by
  unfold State.planEnergy
  repeat (any_goals (with_reducible first
    | assumption | refine State.each_stores ?_ ?_ | refine State.onCircuit_stores ?_ | (intro x; try clear_value x)))
theorem execPulseEnd_stores {circuit : Fin 28} {s : State} (h : s.Keeps) : KeepsOut (execPulseEnd circuit s) := by
  unfold execPulseEnd
  repeat (any_goals (with_reducible first
    | assumption | refine State.onCircuit_stores ?_ | refine State.setPulse_stores ?_ | refine State.at_stores ?_ | refine keeps_next ?_ | split))
theorem State.sendLeak_stores {s : State} {t : Nat} {b : Bytes} (h : s.Keeps) : (State.sendLeak s t b).Keeps := by
  unfold State.sendLeak
  repeat (any_goals (with_reducible first
    | assumption | refine State.deliver_stores ?_))
theorem State.abandonLeak_stores {s : State} (h : s.Keeps) : (State.abandonLeak s).Keeps := by
  unfold State.abandonLeak
  repeat (any_goals (with_reducible first
    | assumption | refine State.onLeak_stores ?_ | refine State.each_stores ?_ ?_ | refine State.sendLeak_stores ?_ | (intro x; try clear_value x) | split))
theorem State.leakStep_stores {s : State} (h : s.Keeps) : (State.leakStep s).Keeps := by
  unfold State.leakStep
  repeat (any_goals (with_reducible first
    | assumption | refine State.onLeak_stores ?_ | refine State.progressEvent_stores ?_))
theorem State.leakStepsBy_stores {s : State} {n : Nat} (h : s.Keeps) : (State.leakStepsBy s n).Keeps := by
  induction n generalizing s with
  | zero => exact h
  | succ f ih =>
    unfold State.leakStepsBy
    repeat (any_goals (with_reducible first
      | assumption | apply ih | refine State.leakStep_stores ?_))
theorem execLeakCaptureDone_stores {s : State} (h : s.Keeps) : KeepsOut (execLeakCaptureDone s) := by
  unfold execLeakCaptureDone
  repeat (any_goals (with_reducible first
    | assumption | refine State.at_stores ?_ | refine State.onLeak_stores ?_ | refine State.leakStepsBy_stores ?_ | refine keeps_next ?_
    | refine keepsOut_ite (fun _ => ?_) (fun _ => ?_) | split))
theorem State.nextPair_stores {s : State} {rest : List Nat} (h : s.Keeps) : (State.nextPair s rest).Keeps := by
  unfold State.nextPair
  repeat (any_goals (with_reducible first
    | assumption | refine State.onLeak_stores ?_))
theorem execLeakPairDone_stores {s : State} (h : s.Keeps) : KeepsOut (execLeakPairDone s) := by
  unfold execLeakPairDone
  repeat (any_goals (with_reducible first
    | assumption | refine State.nextPair_stores ?_ | refine State.leakStepsBy_stores ?_ | refine State.sendLeak_stores ?_ | refine keeps_next ?_
    | refine keepsOut_ite (fun _ => ?_) (fun _ => ?_) | split))
theorem State.changeLeak_stores {s : State} {old : List Host.Cell} (h : s.Keeps) : (State.changeLeak s old).Keeps := by
  unfold State.changeLeak
  repeat (any_goals (with_reducible first
    | assumption | refine State.onLeak_stores ?_ | refine State.abandonLeak_stores ?_ | refine keeps_ite (fun _ => ?_) (fun _ => ?_)))
theorem execLeakRunStart_stores {s : State} (h : s.Keeps) : KeepsOut (execLeakRunStart s) := by
  unfold execLeakRunStart
  repeat (any_goals (with_reducible first
    | assumption | refine State.onLeak_stores ?_ | refine State.at_stores ?_ | refine State.nextPair_stores ?_ | refine keeps_next ?_
    | refine keepsOut_ite (fun _ => ?_) (fun _ => ?_) | split))
theorem State.captureStroke_stores {s : State} {p : Nat} (h : s.Keeps) : (State.captureStroke s p).Keeps := by
  unfold State.captureStroke
  repeat (any_goals (with_reducible first
    | assumption | refine State.onLeak_stores ?_ | refine State.memWrite_stores ?_))
theorem execInternalOpFlagFall_stores {code : U16} {s : State} (h : s.Keeps) : KeepsOut (execInternalOpFlagFall code s) := by
  unfold execInternalOpFlagFall
  repeat (any_goals (with_reducible first
    | assumption | refine State.at_stores ?_ | refine State.flagFall_stores ?_ | refine State.onMem_stores ?_ ?_ | refine State.onTrim_stores ?_
    | refine State.abandonLeak_stores ?_ | refine keeps_next ?_ | refine keepsOut_ite (fun _ => ?_) (fun _ => ?_) | (intro x; try clear_value x)
    | lift_lets -underBinder | split))
theorem State.catchLeak_stores {s : State} (h : s.Keeps) : (State.catchLeak s).Keeps := by
  unfold State.catchLeak
  repeat (any_goals (with_reducible first
    | assumption | refine State.onLeak_stores ?_ | refine State.draw_stores ?_ | refine State.leakStepsBy_stores ?_ | refine State.captureStroke_stores ?_
    | refine State.leakStep_stores ?_ | refine keeps_ite (fun _ => ?_) (fun _ => ?_) | split))
theorem State.closeTransport_stores {s : State} {udp : Bool} (h : s.Keeps) : (State.closeTransport s udp).Keeps := by
  unfold State.closeTransport
  repeat (any_goals (with_reducible first
    | assumption | refine State.onLinks_stores ?_ | refine State.onCnt_stores ?_ | refine State.resendAll_stores ?_
    | refine keeps_ite (fun _ => ?_) (fun _ => ?_) | (intro x; refine keeps_let (x := x) ?_ ?_; unfold x; rotate_left; intro hx; clear_value x)
    | (intro x; try clear_value x) | lift_lets -underBinder | split))
theorem State.changeDelivery_stores {s : State} {old : List Host.Cell} {new : List Host.Cell} (h : s.Keeps) :
    (State.changeDelivery s old new).Keeps := by
  unfold State.changeDelivery
  repeat (any_goals (with_reducible first
    | assumption | refine State.closeTransport_stores ?_ | refine State.refreshEth_stores ?_ | refine State.refreshIrq_stores ?_
    | refine keeps_ite (fun _ => ?_) (fun _ => ?_)))
theorem State.waitCfg_stores {s : State} {x1 : Hdr} {op : Nat} {j : CfgJob} (h : s.Keeps) : (State.waitCfg s x1 op j).Keeps := by
  unfold State.waitCfg
  repeat (any_goals (with_reducible first
    | assumption | refine State.onCfg_stores ?_ ?_ | refine State.hold_stores ?_ | (intro x; try clear_value x)))
theorem execCfgRead_stores {x0 : Hdr} {section_ : U8} {set : U8} {offset : U16} {length : U16} {s : State} (h : s.Keeps) : KeepsOut (execCfgRead x0 section_ set offset length s) := by
  unfold execCfgRead
  repeat (any_goals (with_reducible first
    | assumption | refine State.host_stores ?_ ?_ | refine State.answer_stores ?_ | refine State.waitCfg_stores ?_ | refine keeps_next ?_
    | refine keeps_ite (fun _ => ?_) (fun _ => ?_) | (intro x; try clear_value x)))
theorem State.applyWrite_stores {s : State} {active : Bool} {sec ofs : Nat} {b : Bytes} (h : s.Keeps) :
    (s.applyWrite active sec ofs b).Keeps := by
  unfold State.applyWrite
  split
  · exact State.onCfg_stores h id
  · exact State.onCfg_stores h fun k => ⟨k.cells, k.active, putSet_wf k.shadow⟩
theorem State.serveCfg_stores {s : State} {fuel : Nat} (h : s.Keeps) : (s.serveCfg fuel).Keeps := by
  induction fuel generalizing s with
  | zero => exact h
  | succ f ih =>
    have k : ∀ {g : ConfigSets → ConfigSets}, (g s.cfg).active = s.cfg.active → (g s.cfg).shadow = s.cfg.shadow → (s.onCfg g).Keeps :=
      fun ha hs => State.onCfg_stores h fun k => ⟨k.cells, ha ▸ k.active, hs ▸ k.shadow⟩
    unfold State.serveCfg
    dsimp only
    repeat' split
    all_goals first
      | exact h | exact State.onCfg_stores (k rfl rfl) id | exact ih (State.finish_stores (State.applyWrite_stores (k rfl rfl))) | exact ih (State.finish_stores (k rfl rfl))
theorem execShadowCopyDone_stores {s : State} (h : s.Keeps) : KeepsOut (execShadowCopyDone s) := by
  unfold execShadowCopyDone
  repeat (any_goals (with_reducible first
    | assumption | exact ⟨(State.Keeps.stores h).cells, (State.Keeps.stores h).active, (State.Keeps.stores h).active⟩
    | refine State.onCfg_stores ?_ ?_ | refine State.serveCfg_stores ?_ | refine State.finish_stores ?_ | refine keeps_next ?_ | (intro x; try clear_value x)
    | lift_lets -underBinder | split))
theorem actCfgWrite_stores {x0 : Hdr} {section_ : U8} {target : U8} {offset : U16} {data : Bytes} {s : State} (h : s.Keeps) :
    (actCfgWrite x0 section_ target offset data s).Keeps := by
  unfold actCfgWrite
  repeat (any_goals (with_reducible first
    | assumption | refine State.answer_stores ?_ | refine State.applyWrite_stores ?_ | refine State.waitCfg_stores ?_
    | refine keeps_ite (fun _ => ?_) (fun _ => ?_)))
theorem execCfgWrite_stores {x0 : Hdr} {section_ : U8} {target : U8} {offset : U16} {length : U16} {reserved : U16} {data : Bytes} {s : State} (h : s.Keeps) : KeepsOut (execCfgWrite x0 section_ target offset length reserved data s) := by
  unfold execCfgWrite
  repeat (any_goals (with_reducible first
    | assumption | refine State.host_stores ?_ ?_ | refine actCfgWrite_stores ?_ | refine keeps_next ?_ | (intro x; try clear_value x)))
theorem execShadowCopyFlagFall_stores {s : State} (h : s.Keeps) : KeepsOut (execShadowCopyFlagFall s) := by
  unfold execShadowCopyFlagFall
  repeat (any_goals (with_reducible first
    | assumption | refine State.onCfg_stores ?_ ?_ | refine State.flagFall_stores ?_ | refine State.at_stores ?_ | refine State.serveCfg_stores ?_
    | refine State.finish_stores ?_ | refine keeps_next ?_ | (intro x; try clear_value x) | split))
theorem State.bumpUnit_stores {s : State} {kind : Nat} {idx : Nat} (h : s.Keeps) : (State.bumpUnit s kind idx).Keeps := by
  unfold State.bumpUnit
  repeat (any_goals (with_reducible first
    | assumption | refine State.setWord_stores ?_ | split))
theorem State.bumpUnits_stores {s : State} {old : List Host.Cell} {new : List Host.Cell} (h : s.Keeps) :
    (State.bumpUnits s old new).Keeps := by
  unfold State.bumpUnits
  repeat (any_goals (with_reducible first
    | assumption | refine State.each_stores ?_ ?_ | refine State.bumpUnit_stores ?_ | refine keeps_ite (fun _ => ?_) (fun _ => ?_)
    | (intro x; try clear_value x)))
theorem State.changeLo_stores {s : State} {old : List Host.Cell} {new : List Host.Cell} {pair : Nat} (h : s.Keeps) :
    (State.changeLo s old new pair).Keeps := by
  unfold State.changeLo
  repeat (any_goals (with_reducible first
    | assumption | refine State.abortWhere_stores ?_ | refine State.hopSyn_stores ?_ | refine State.onSynth_stores ?_ | refine State.followLanes_stores ?_
    | refine State.trimEndChain_stores ?_ | refine keeps_ite (fun _ => ?_) (fun _ => ?_)))
theorem State.changeLane_stores {s : State} {old : List Host.Cell} {new : List Host.Cell} {i : Nat} (h : s.Keeps) :
    (State.changeLane s old new i).Keeps := by
  unfold State.changeLane
  repeat (any_goals (with_reducible first
    | assumption | refine State.onLane_stores ?_ | refine State.moveLane_stores ?_ | refine State.abortWhere_stores ?_ | refine State.restartLane_stores ?_
    | refine State.followLane_stores ?_ | refine State.turnLane_stores ?_ | refine keeps_ite (fun _ => ?_) (fun _ => ?_)))
theorem State.changeChains_stores {s : State} {old : List Host.Cell} {new : List Host.Cell} (h : s.Keeps) :
    (State.changeChains s old new).Keeps := by
  unfold State.changeChains
  repeat (any_goals (with_reducible first
    | assumption | refine State.each_stores ?_ ?_ | refine State.sendChain_stores ?_ | refine keeps_ite (fun _ => ?_) (fun _ => ?_)
    | (intro x; try clear_value x)))
theorem State.changeFloor_stores {s : State} {old : List Host.Cell} {new : List Host.Cell} (h : s.Keeps) :
    (State.changeFloor s old new).Keeps := by
  unfold State.changeFloor
  repeat (any_goals (with_reducible first
    | assumption | refine State.changeVolt_stores ?_ | refine State.onTrim_stores ?_ | refine keeps_ite (fun _ => ?_) (fun _ => ?_)))
theorem State.changeCrew_stores {s : State} {old : List Host.Cell} {new : List Host.Cell} {c : Nat} (h : s.Keeps) :
    (State.changeCrew s old new c).Keeps := by
  unfold State.changeCrew
  repeat (any_goals (with_reducible first
    | assumption | refine State.clearCrew_stores ?_ | refine State.abortWhere_stores ?_ | refine State.moveCrew_stores ?_ | refine State.onCrew_stores ?_
    | refine State.loadCrew_stores ?_ | refine State.each_stores ?_ ?_ | refine State.finish_stores ?_ | refine keeps_ite (fun _ => ?_) (fun _ => ?_)
    | (intro x; try clear_value x)))
theorem State.castleOnly_stores {s : State} {old : List Host.Cell} {new : List Host.Cell} (h : s.Keeps) :
    (State.castleOnly s old new).Keeps := by
  unfold State.castleOnly
  repeat (any_goals (with_reducible first
    | assumption | refine State.setPolicy_stores ?_ | refine State.onTime_stores ?_ | refine State.onBc_stores ?_ | refine State.tuneVhf_stores ?_
    | refine State.tuneLfmf_stores ?_ | refine keeps_ite (fun _ => ?_) (fun _ => ?_)))
theorem State.adopt_stores {s : State} {new : List Host.Cell} {castled : Bool} (h : s.Keeps) (hn : cellsWf cfgReset new = true) :
    (s.adopt new castled).Keeps := by
  unfold State.adopt
  repeat (any_goals (with_reducible first
    | assumption | exact ⟨(State.Keeps.stores h).cells, hn, (State.Keeps.stores h).shadow⟩ | refine State.bumpUnits_stores ?_
    | refine State.onCfg_stores ?_ ?_ | refine State.changeLo_stores ?_ | refine State.each_stores ?_ ?_ | refine State.changeLane_stores ?_
    | refine State.changeChains_stores ?_ | refine State.fixTuners_stores ?_ | refine State.fixGains_stores ?_ | refine State.followAll_stores ?_
    | refine State.changeGroup_stores ?_ | refine State.changeTdm_stores ?_ | refine State.changeLeak_stores ?_ | refine State.changePulses_stores ?_
    | refine State.changeDelivery_stores ?_ | refine State.changeFloor_stores ?_ | refine State.changeCrew_stores ?_ | refine State.castleOnly_stores ?_
    | refine State.onLane_stores ?_ | refine State.chooseSource_stores ?_ | refine keeps_ite (fun _ => ?_) (fun _ => ?_) | (intro x; try clear_value x)))
theorem State.castleNow_stores {s : State} {stroke : Nat} (h : s.Keeps) : (State.castleNow s stroke).Keeps := by
  unfold State.castleNow
  repeat (any_goals (with_reducible first
    | assumption | exact (State.Keeps.stores h).shadow | refine State.adopt_stores ?_ ?_ | refine State.onCfg_stores ?_ ?_ | refine State.pushEvent_stores ?_
    | (intro x; try clear_value x)))
theorem State.catchConfig_stores {s : State} (h : s.Keeps) : s.catchConfig.Keeps := by
  have hc : (s.serveCfg 64).Keeps := State.serveCfg_stores h
  unfold State.catchConfig
  generalize s.serveCfg 64 = t at hc
  have direct : ((t.onCfg fun c => { c with direct := [] }).adopt (overlay t.cfg.active t.cfg.direct) false).Keeps :=
    State.adopt_stores (State.onCfg_stores hc id) (overlay_wf (State.Keeps.stores hc).active)
  dsimp only
  repeat' split
  all_goals first | exact hc | exact direct | exact State.onCfg_stores (State.castleNow_stores hc) id
theorem execCfgCheck_stores {x0 : Hdr} {set : U8} {s : State} (h : s.Keeps) : KeepsOut (execCfgCheck x0 set s) := by
  unfold execCfgCheck
  repeat (any_goals (with_reducible first
    | assumption | refine State.host_stores ?_ ?_ | refine State.waitCfg_stores ?_ | refine keeps_next ?_ | (intro x; try clear_value x)))
theorem execCastleCheckFlagFall_stores {s : State} (h : s.Keeps) : KeepsOut (execCastleCheckFlagFall s) := by
  unfold execCastleCheckFlagFall
  repeat (any_goals (with_reducible first
    | assumption | refine State.serveCfg_stores ?_ | refine State.finish_stores ?_ | refine State.onCfg_stores ?_ ?_ | refine State.flagFall_stores ?_
    | refine State.at_stores ?_ | refine State.fallLine_stores ?_ | refine keeps_next ?_ | refine keeps_ite (fun _ => ?_) (fun _ => ?_)
    | (intro x; try clear_value x) | split))
theorem execCastle_stores {x0 : Hdr} {target : U64} {s : State} (h : s.Keeps) : KeepsOut (execCastle x0 target s) := by
  unfold execCastle
  repeat (any_goals (with_reducible first
    | assumption | refine State.host_stores ?_ ?_ | refine State.serveCfg_stores ?_ | refine State.waitCfg_stores ?_ | refine keeps_next ?_
    | (intro x; try clear_value x)))
theorem execCastleChecksDone_stores {s : State} (h : s.Keeps) : KeepsOut (execCastleChecksDone s) := by
  unfold execCastleChecksDone
  repeat (any_goals (with_reducible first
    | assumption | refine State.onCfg_stores ?_ ?_ | refine State.serveCfg_stores ?_ | refine State.finish_stores ?_ | refine keeps_next ?_
    | refine keeps_ite (fun _ => ?_) (fun _ => ?_) | (intro x; try clear_value x) | split))
theorem execFieldChallengeExpiry_stores {s : State} (h : s.Keeps) : KeepsOut (execFieldChallengeExpiry s) := by
  unfold execFieldChallengeExpiry
  repeat (any_goals (with_reducible first
    | assumption | refine State.onBoot_stores ?_ | refine State.at_stores ?_ | refine keeps_next ?_ | split))
theorem execCrewLoadCommit_stores {x0 : Hdr} {crew : U8} {_chunk : U16} {pkgLen : U32} {s : State} (h : s.Keeps) : KeepsOut (execCrewLoadCommit x0 crew _chunk pkgLen s) := by
  unfold execCrewLoadCommit
  repeat (any_goals (with_reducible first
    | assumption | refine State.host_stores ?_ ?_ | refine State.waitCrew_stores ?_ | refine State.beginCommit_stores ?_ | refine State.queued_stores ?_
    | refine keeps_next ?_ | refine keeps_ite (fun _ => ?_) (fun _ => ?_) | (intro x; try clear_value x)))
theorem execFwCommitDone_stores {s : State} (h : s.Keeps) : KeepsOut (execFwCommitDone s) := by
  unfold execFwCommitDone
  repeat (any_goals (with_reducible first
    | assumption | refine State.onBoot_stores ?_ | refine State.lastSteps_stores ?_ | refine State.finish_stores ?_ | refine keeps_next ?_
    | (intro x; refine keeps_let (x := x) ?_ ?_; unfold x; rotate_left; intro hx; clear_value x) | (intro x; try clear_value x)
    | lift_lets -underBinder | split))
theorem execFwTrialConfirm_stores {s : State} (h : s.Keeps) : KeepsOut (execFwTrialConfirm s) := by
  unfold execFwTrialConfirm
  repeat (any_goals (with_reducible first
    | assumption | refine State.onBoot_stores ?_ | refine State.at_stores ?_ | refine keeps_next ?_ | refine keepsOut_ite (fun _ => ?_) (fun _ => ?_)))
theorem State.countRadiating_stores {s : State} {b : Band} (h : s.Keeps) : (State.countRadiating s b).Keeps := by
  unfold State.countRadiating
  repeat (any_goals (with_reducible first
    | assumption | refine State.addDuty_stores ?_ | split))
theorem execFwUpdateChunk_stores {x0 : Hdr} {reserved : U8} {step : U8} {chunk : U16} {pkgLen : U32} {data : Bytes} {s : State} (h : s.Keeps) : KeepsOut (execFwUpdateChunk x0 reserved step chunk pkgLen data s) := by
  unfold execFwUpdateChunk
  repeat (any_goals (with_reducible first
    | assumption | refine State.host_stores ?_ ?_ | refine State.answer_stores ?_ | refine State.onBoot_stores ?_ | refine keeps_next ?_
    | (intro x; try clear_value x)))
theorem execReset_stores {s : State} (h : s.Keeps) : KeepsOut (execReset s) := by
  unfold execReset
  repeat (any_goals (with_reducible first
    | assumption | refine keeps_next ?_ | refine keepsOut_ite (fun _ => ?_) (fun _ => ?_) | (intro x; try clear_value x)
    | lift_lets -underBinder | exact keeps_mk (State.Keeps.stores (by assumption))))
theorem State.failSlot_stores {s : State} {x : Bool} (h : s.Keeps) : (State.failSlot s x).Keeps := by
  unfold State.failSlot
  repeat (any_goals (with_reducible first
    | assumption | refine State.onBoot_stores ?_))
theorem State.chooseSlot_stores {s : State} (h : s.Keeps) : (State.chooseSlot s).1.Keeps := by
  unfold State.chooseSlot
  repeat (any_goals (with_reducible first
    | assumption | refine State.failSlot_stores ?_ | (intro x; refine keeps_let (x := x) ?_ ?_; unfold x; rotate_left; intro hx; clear_value x)
    | (intro x; try clear_value x) | lift_lets -underBinder | split))
theorem execCrewLoadChunk_stores {x0 : Hdr} {crew : U8} {step : U8} {chunk : U16} {pkgLen : U32} {data : Bytes} {s : State} (h : s.Keeps) : KeepsOut (execCrewLoadChunk x0 crew step chunk pkgLen data s) := by
  unfold execCrewLoadChunk
  repeat (any_goals (with_reducible first
    | assumption | refine State.host_stores ?_ ?_ | refine State.waitCrew_stores ?_ | refine State.answer_stores ?_ | refine State.stageChunk_stores ?_
    | refine keeps_next ?_ | refine keeps_ite (fun _ => ?_) (fun _ => ?_) | (intro x; try clear_value x)))
theorem State.loadImage_stores {s : State} (h : s.Keeps) : (State.loadImage s).Keeps := by
  unfold State.loadImage
  repeat (any_goals (with_reducible first
    | assumption | exact ⟨(State.Keeps.stores h).cells, (State.Keeps.stores h).active, putSets_wf (State.Keeps.stores h).shadow⟩
    | refine State.onCfg_stores ?_ ?_ | refine State.castleNow_stores ?_ | refine keeps_ite (fun _ => ?_) (fun _ => ?_) | (intro x; try clear_value x)
    | split))
/-- A reset leaves the stores empty. -/
theorem State.resetTo_stores {s : State} {cause : ResetCause} (_h : s.Keeps) : (s.resetTo cause).Keeps := keeps_mk stores_reset
theorem execTestPortInstruction_stores {code : BitVec 5} {s : State} (h : s.Keeps) : KeepsOut (execTestPortInstruction code s) := by
  unfold execTestPortInstruction
  repeat (any_goals (with_reducible first
    | assumption | refine State.onBoot_stores ?_ | refine State.draw_stores ?_ | refine State.resetTo_stores ?_ | refine keeps_next ?_
    | refine keepsOut_ite (fun _ => ?_) (fun _ => ?_)))
theorem execFieldResponse_stores {x0 : Hdr} {sig : Bytes} {s : State} (h : s.Keeps) : KeepsOut (execFieldResponse x0 sig s) := by
  unfold execFieldResponse
  repeat (any_goals (with_reducible first
    | assumption | refine State.host_stores ?_ ?_ | refine State.onBoot_stores ?_ | refine State.answer_stores ?_ | refine keeps_next ?_
    | refine keeps_ite (fun _ => ?_) (fun _ => ?_) | (intro x; refine keeps_let (x := x) ?_ ?_; unfold x; rotate_left; intro hx; clear_value x)
    | (intro x; try clear_value x) | lift_lets -underBinder | split))
theorem State.recover_stores {s : State} (h : s.Keeps) : (State.recover s).Keeps := by
  unfold State.recover
  repeat (any_goals (with_reducible first
    | assumption | refine State.setIrq_stores ?_ | refine State.onLinks_stores ?_ | refine State.onBoot_stores ?_))
theorem State.bootLines_stores {s : State} {steps : Nat} (h : s.Keeps) : (State.bootLines s steps).Keeps := by
  unfold State.bootLines
  repeat (any_goals (with_reducible first
    | assumption | refine State.each_stores ?_ ?_ | refine State.console_stores ?_ | (intro x; try clear_value x)))
theorem State.bootSlot_stores {s : State} {x : Bool} (h : s.Keeps) : (State.bootSlot s x).Keeps := by
  unfold State.bootSlot
  repeat (any_goals (with_reducible first
    | assumption | refine State.onBoot_stores ?_))
theorem State.readMaker_stores {s : State} (h : s.Keeps) : (State.readMaker s).Keeps := by
  unfold State.readMaker
  repeat (any_goals (with_reducible first
    | assumption | refine State.onBoot_stores ?_ | refine keeps_ite (fun _ => ?_) (fun _ => ?_)))
theorem State.restoreLedger_stores {s : State} (h : s.Keeps) : (State.restoreLedger s).Keeps := by
  unfold State.restoreLedger
  repeat (any_goals (with_reducible first
    | assumption | refine State.onTrim_stores ?_ | (intro x; try clear_value x) | lift_lets -underBinder | split))
theorem State.setReady_stores {s : State} (h : s.Keeps) : (State.setReady s).Keeps := by
  unfold State.setReady
  repeat (any_goals (with_reducible first
    | assumption | refine State.onLinks_stores ?_ | refine State.onBoot_stores ?_ | refine State.each_stores ?_ ?_ | refine State.setIrq_stores ?_
    | refine State.flagFall_stores ?_ | refine State.onMem_stores ?_ ?_ | refine State.refreshEth_stores ?_ | refine State.phyStart_stores ?_
    | refine State.trimAuto_stores ?_ | (intro x; try clear_value x)))
theorem State.bootCrew_stores {s : State} {c : Nat} (h : s.Keeps) : (State.bootCrew s c).Keeps := by
  unfold State.bootCrew
  repeat (any_goals (with_reducible first
    | assumption | refine State.moveCrew_stores ?_ | refine State.onCrew_stores ?_ | refine State.loadCrew_stores ?_
    | refine keeps_ite (fun _ => ?_) (fun _ => ?_)))
theorem State.finishBoot_stores {s : State} (h : s.Keeps) : (State.finishBoot s).Keeps := by
  unfold State.finishBoot
  repeat (any_goals (with_reducible first
    | assumption | refine State.runSyn_stores ?_ | refine State.readMaker_stores ?_ | refine State.restoreLedger_stores ?_ | refine State.loadImage_stores ?_
    | refine State.setReady_stores ?_ | refine State.bootLines_stores ?_ | refine State.changeVolt_stores ?_ | refine State.each_stores ?_ ?_
    | refine State.bootCrew_stores ?_ | refine keeps_ite (fun _ => ?_) (fun _ => ?_) | (intro x; try clear_value x)))
theorem execBootReady_stores {s : State} (h : s.Keeps) : KeepsOut (execBootReady s) := by
  have c : s.chooseSlot.1.Keeps := State.chooseSlot_stores h
  revert c
  unfold execBootReady
  generalize s.chooseSlot = z
  intro c
  obtain ⟨s1, _ | x⟩ := z <;> replace c : s1.Keeps := c <;> dsimp only
  repeat (any_goals (with_reducible first
    | assumption | refine State.recover_stores ?_ | refine State.bootLines_stores ?_ | refine State.bootSlot_stores ?_ | refine State.resetTo_stores ?_
    | refine State.failSlot_stores ?_ | refine State.finishBoot_stores ?_ | refine keeps_next ?_ | refine keepsOut_ite (fun _ => ?_) (fun _ => ?_)))
theorem execRefLossReset_stores {s : State} (h : s.Keeps) : KeepsOut (execRefLossReset s) := by
  unfold execRefLossReset
  repeat (any_goals (with_reducible first
    | assumption | refine State.resetTo_stores ?_ | refine keeps_next ?_ | refine keepsOut_ite (fun _ => ?_) (fun _ => ?_)))
theorem execFieldScopeClose_stores {scope : Fin 4} {s : State} (h : s.Keeps) : KeepsOut (execFieldScopeClose scope s) := by
  unfold execFieldScopeClose
  repeat (any_goals (with_reducible first
    | assumption | refine State.onBoot_stores ?_ | refine State.at_stores ?_ | refine keeps_next ?_ | split))
theorem State.holdReset_stores {s : State} (h : s.Keeps) : (State.holdReset s).Keeps := by
  unfold State.holdReset
  repeat (any_goals (with_reducible first
    | assumption | refine State.onBoot_stores ?_))
theorem execResetNLow_stores {ns : Nat} {s : State} (h : s.Keeps) : KeepsOut (execResetNLow ns s) := by
  unfold execResetNLow
  repeat (any_goals (with_reducible first
    | assumption | refine State.onPins_stores ?_ | refine State.holdReset_stores ?_ | refine State.resetTo_stores ?_ | refine keeps_next ?_
    | refine keepsOut_ite (fun _ => ?_) (fun _ => ?_)))
theorem execCrewCommitDone_stores {crew : Fin 8} {s : State} (h : s.Keeps) : KeepsOut (execCrewCommitDone crew s) := by
  unfold execCrewCommitDone
  repeat (any_goals (with_reducible first
    | assumption | refine State.onBoot_stores ?_ | refine State.lastSteps_stores ?_ | refine State.moveCrew_stores ?_ | refine State.serveCrew_stores ?_
    | refine State.finish_stores ?_ | refine State.audit_stores ?_ | refine keeps_next ?_ | refine keeps_ite (fun _ => ?_) (fun _ => ?_)
    | (intro x; refine keeps_let (x := x) ?_ ?_; unfold x; rotate_left; intro hx; clear_value x) | (intro x; try clear_value x)
    | lift_lets -underBinder | split))
theorem execFwUpdateCommit_stores {x0 : Hdr} {reserved : U8} {_chunk : U16} {pkgLen : U32} {s : State} (h : s.Keeps) : KeepsOut (execFwUpdateCommit x0 reserved _chunk pkgLen s) := by
  unfold execFwUpdateCommit
  repeat (any_goals (with_reducible first
    | assumption | refine State.host_stores ?_ ?_ | refine State.onBoot_stores ?_ | refine State.progress_stores ?_ | refine State.queued_stores ?_
    | refine keeps_next ?_ | (intro x; try clear_value x)))
theorem execOverTempReset_stores {s : State} (h : s.Keeps) : KeepsOut (execOverTempReset s) := by
  unfold execOverTempReset
  repeat (any_goals (with_reducible first
    | assumption | refine State.holdReset_stores ?_ | refine State.resetTo_stores ?_ | refine keeps_next ?_))
theorem execCoreSupplyReset_stores {s : State} (h : s.Keeps) : KeepsOut (execCoreSupplyReset s) := by
  unfold execCoreSupplyReset
  repeat (any_goals (with_reducible first
    | assumption | refine State.resetTo_stores ?_ | refine keeps_next ?_ | refine keepsOut_ite (fun _ => ?_) (fun _ => ?_)))
theorem execFieldChallenge_stores {x0 : Hdr} {scope : U8} {reserved : U8} {duration : U16} {s : State} (h : s.Keeps) : KeepsOut (execFieldChallenge x0 scope reserved duration s) := by
  unfold execFieldChallenge
  repeat (any_goals (with_reducible first
    | assumption | refine State.host_stores ?_ ?_ | refine State.answer_stores ?_ | refine State.onBoot_stores ?_ | refine State.draw_stores ?_
    | refine keeps_next ?_ | (intro x; try clear_value x)))
theorem execFwUpdateReset_stores {s : State} (h : s.Keeps) : KeepsOut (execFwUpdateReset s) := by
  unfold execFwUpdateReset
  repeat (any_goals (with_reducible first
    | assumption | refine State.resetTo_stores ?_ | refine State.at_stores ?_ | refine keeps_next ?_ | split))
theorem execAshoreExit_stores {aon : Nat} {s : State} (h : s.Keeps) : KeepsOut (execAshoreExit aon s) := by
  unfold execAshoreExit
  dsimp only
  split
  · exact .next h
  · refine .next ?_
    split
    · exact State.loadSram_stores (State.onTime_stores (keeps_of h.stores))
    · exact State.resetTo_stores (State.onTime_stores (keeps_of h.stores))
theorem execSynDLostReset_stores {s : State} (h : s.Keeps) : KeepsOut (execSynDLostReset s) := by
  unfold execSynDLostReset
  repeat (any_goals (with_reducible first
    | assumption | refine State.resetTo_stores ?_ | refine State.at_stores ?_ | refine keeps_next ?_ | split))
theorem execBootStepFlagFall_stores {step : Fin 8} {s : State} (h : s.Keeps) : KeepsOut (execBootStepFlagFall step s) := by
  unfold execBootStepFlagFall
  repeat (any_goals (with_reducible first
    | assumption | refine State.fallLine_stores ?_ | refine State.bootLines_stores ?_ | refine State.at_stores ?_ | refine State.failSlot_stores ?_
    | refine State.recover_stores ?_ | refine State.resetTo_stores ?_ | refine State.onBoot_stores ?_ | refine keeps_next ?_
    | refine keepsOut_ite (fun _ => ?_) (fun _ => ?_) | refine keeps_ite (fun _ => ?_) (fun _ => ?_)))
theorem execPowerOnReset_stores {tcxo : Bool} {s : State} (h : s.Keeps) : KeepsOut (execPowerOnReset tcxo s) := by
  have k : State.Keeps _ := State.holdReset_stores (State.resetTo_stores (cause := .powerOn) h)
  exact .next (keeps_mk k.stores)
theorem State.rfFault_stores {s : State} {i : Nat} (h : s.Keeps) : (State.rfFault s i).Keeps := by
  unfold State.rfFault
  repeat (any_goals (with_reducible first
    | assumption | refine State.onChain_stores ?_ | refine State.onTxb_stores ?_ | refine State.rampDown_stores ?_ | refine State.each_stores ?_ ?_
    | refine State.endItem_stores ?_ | refine State.faultMoving_stores ?_ | refine State.requeue_stores ?_ | refine keeps_ite (fun _ => ?_) (fun _ => ?_)
    | (intro x; try clear_value x)))
theorem actChainState_stores {x0 : Hdr} {chain : U8} {state : U8} {s : State} (h : s.Keeps) : (actChainState x0 chain state s).Keeps := by
  unfold actChainState
  repeat (any_goals (with_reducible first
    | assumption | refine State.audit_stores ?_ | refine State.answer_stores ?_ | refine State.onChain_stores ?_ | refine State.hold_stores ?_
    | refine State.trimEndChain_stores ?_ | refine State.serveChain_stores ?_ | refine keeps_ite (fun _ => ?_) (fun _ => ?_)))
theorem execChainState_stores {x0 : Hdr} {chain : U8} {state : U8} {s : State} (h : s.Keeps) : KeepsOut (execChainState x0 chain state s) := by
  unfold execChainState
  repeat (any_goals (with_reducible first
    | assumption | refine State.host_stores ?_ ?_ | refine actChainState_stores ?_ | refine keeps_next ?_ | (intro x; try clear_value x)))
theorem execChainTransitionDone_stores {chain : Fin 5} {ok : Bool} {s : State} (h : s.Keeps) : KeepsOut (execChainTransitionDone chain ok s) := by
  unfold execChainTransitionDone
  repeat (any_goals (with_reducible first
    | assumption | refine State.chainStep_stores ?_ | refine keeps_next ?_))
theorem execLaneSettlingEnd_stores {lane : Fin 512} {s : State} (h : s.Keeps) : KeepsOut (execLaneSettlingEnd lane s) := by
  unfold execLaneSettlingEnd
  repeat (any_goals (with_reducible first
    | assumption | refine State.setLane_stores ?_ | refine State.at_stores ?_ | refine keeps_next ?_ | refine keepsOut_ite (fun _ => ?_) (fun _ => ?_)))
theorem State.lockAt_stores {s : State} {y : Nat} {band : BitVec 6} {margin : Nat} (h : s.Keeps) :
    (State.lockAt s y band margin).Keeps := by
  unfold State.lockAt
  repeat (any_goals (with_reducible first
    | assumption | refine State.serveChains_stores ?_ | refine State.followAll_stores ?_ | refine State.onMem_stores ?_ ?_ | refine State.lockSyn_stores ?_
    | refine State.rememberBand_stores ?_ | (intro x; try clear_value x) | lift_lets -underBinder | split))
theorem execSynthLockConfirmed_stores {syn : Fin 6} {band : BitVec 6} {margin : Nat} {s : State} (h : s.Keeps) : KeepsOut (execSynthLockConfirmed syn band margin s) := by
  unfold execSynthLockConfirmed
  repeat (any_goals (with_reducible first
    | assumption | refine State.lockAt_stores ?_ | refine keeps_next ?_ | refine keepsOut_ite (fun _ => ?_) (fun _ => ?_)))
theorem State.lockMissed_stores {s : State} {y : Nat} (h : s.Keeps) : (State.lockMissed s y).Keeps := by
  unfold State.lockMissed
  repeat (any_goals (with_reducible first
    | assumption | refine State.onSynth_stores ?_ | refine State.forgetBand_stores ?_ | refine State.lossEffects_stores ?_ | refine State.newLockFailed_stores ?_
    | refine keeps_ite (fun _ => ?_) (fun _ => ?_)))
theorem execAonOscReturn_stores {s : State} (h : s.Keeps) : KeepsOut (execAonOscReturn s) := by
  unfold execAonOscReturn
  repeat (any_goals (with_reducible first
    | assumption | refine State.onClk_stores ?_ | refine keeps_next ?_))
theorem execRelockAttemptEnd_stores {syn : Fin 6} {locked : Bool} {band : BitVec 6} {margin : Nat} {s : State} (h : s.Keeps) : KeepsOut (execRelockAttemptEnd syn locked band margin s) := by
  unfold execRelockAttemptEnd
  repeat (any_goals (with_reducible first
    | assumption | refine State.lockAt_stores ?_ | refine State.lockMissed_stores ?_ | refine State.onTrim_stores ?_ | refine State.lockSyn_stores ?_
    | refine State.rememberBand_stores ?_ | refine State.serveChains_stores ?_ | refine State.relockEffects_stores ?_ | refine State.onSynth_stores ?_
    | refine State.forgetBand_stores ?_ | refine State.moveSyn_stores ?_ | refine State.lostEffects_stores ?_ | refine State.raise_stores ?_
    | refine State.fallLine_stores ?_ | refine keeps_next ?_ | refine keepsOut_ite (fun _ => ?_) (fun _ => ?_)
    | refine keeps_ite (fun _ => ?_) (fun _ => ?_)))
theorem execAgcFastAttack_stores {path : Fin 6} {s : State} (h : s.Keeps) : KeepsOut (execAgcFastAttack path s) := by
  unfold execAgcFastAttack
  repeat (any_goals (with_reducible first
    | assumption | refine State.onGain_stores ?_ | refine State.setStep_stores ?_ | refine keeps_next ?_
    | refine keepsOut_ite (fun _ => ?_) (fun _ => ?_)))
theorem execAonOscFlagFall_stores {s : State} (h : s.Keeps) : KeepsOut (execAonOscFlagFall s) := by
  unfold execAonOscFlagFall
  repeat (any_goals (with_reducible first
    | assumption | refine State.flagFall_stores ?_ | refine State.onClk_stores ?_ | refine keeps_next ?_
    | refine keepsOut_ite (fun _ => ?_) (fun _ => ?_)))
theorem execVddRfFault_stores {s : State} (h : s.Keeps) : KeepsOut (execVddRfFault s) := by
  unfold execVddRfFault
  repeat (any_goals (with_reducible first
    | assumption | refine State.onPwr_stores ?_ | refine State.each_stores ?_ ?_ | refine State.rfFault_stores ?_ | refine keeps_next ?_
    | (intro x; try clear_value x)))
theorem execLossOfLock_stores {syn : Fin 6} {s : State} (h : s.Keeps) : KeepsOut (execLossOfLock syn s) := by
  unfold execLossOfLock
  repeat (any_goals (with_reducible first
    | assumption | refine State.onSynth_stores ?_ | refine State.aimSyn_stores ?_ | refine State.lossEffects_stores ?_ | refine State.moveSyn_stores ?_
    | refine keeps_next ?_ | refine keepsOut_ite (fun _ => ?_) (fun _ => ?_)))
theorem execPreambleHit_stores {lane : Fin 512} {samples : List BinSample} {s : State} (h : s.Keeps) : KeepsOut (execPreambleHit lane samples s) := by
  unfold execPreambleHit
  repeat (any_goals (with_reducible first
    | assumption | refine State.preamble_stores ?_ | refine keeps_next ?_ | refine keepsOut_ite (fun _ => ?_) (fun _ => ?_)))
theorem State.agcCatch_stores {s : State} {p : Nat} {peak : Int} (h : s.Keeps) : (State.agcCatch s p peak).Keeps := by
  unfold State.agcCatch
  repeat (any_goals (with_reducible first
    | assumption | refine State.onGain_stores ?_ | refine State.setStep_stores ?_ | refine keeps_ite (fun _ => ?_) (fun _ => ?_)))
theorem execVddRfReturn_stores {s : State} (h : s.Keeps) : KeepsOut (execVddRfReturn s) := by
  unfold execVddRfReturn
  repeat (any_goals (with_reducible first
    | assumption | refine State.onPwr_stores ?_ | refine keeps_next ?_))
theorem State.landFlight_stores {s : State} {c : Nat} {f : Flight} (h : s.Keeps) : (State.landFlight s c f).Keeps := by
  unfold State.landFlight
  repeat (any_goals (with_reducible first
    | assumption | refine State.writeReg_stores ?_ | refine State.onScull_stores ?_ | refine keeps_ite (fun _ => ?_) (fun _ => ?_)
    | (intro x; try clear_value x) | lift_lets -underBinder | split))
theorem State.landStore_stores {s : State} {c : Nat} {w : StoreFl} (h : s.Keeps) : (State.landStore s c w).Keeps := by
  unfold State.landStore
  repeat (any_goals (with_reducible first
    | assumption | refine State.dmaPut_stores ?_ | refine State.memWrite_stores ?_ | refine keeps_ite (fun _ => ?_) (fun _ => ?_)))
theorem State.drain_stores {s : State} {c : Nat} (h : s.Keeps) : (State.drain s c).Keeps := by
  unfold State.drain
  repeat (any_goals (with_reducible first
    | assumption | refine State.onScull_stores ?_ | refine State.each_stores ?_ ?_ | refine State.landFlight_stores ?_ | refine State.landStore_stores ?_
    | (intro x; try clear_value x)))
theorem State.enter_stores {s : State} {c : Nat} {cause : Nat} (h : s.Keeps) : (State.enter s c cause).Keeps := by
  unfold State.enter
  repeat (any_goals (with_reducible first
    | assumption | refine State.onScull_stores ?_ | refine State.drain_stores ?_))
theorem State.wakeFor_stores {s : State} {c : Nat} {n : Nat} (h : s.Keeps) : (State.wakeFor s c n).Keeps := by
  unfold State.wakeFor
  repeat (any_goals (with_reducible first
    | assumption | refine State.draw_stores ?_ | refine State.onScull_stores ?_ | refine State.wakeInst_stores ?_
    | refine keeps_ite (fun _ => ?_) (fun _ => ?_)))
theorem State.interrupt_stores {s : State} {c : Nat} (h : s.Keeps) : (State.interrupt s c).Keeps := by
  unfold State.interrupt
  repeat (any_goals (with_reducible first
    | assumption | refine State.enter_stores ?_))
theorem State.trap_stores {s : State} {c : Nat} {t : Trap} (h : s.Keeps) : (State.trap s c t).Keeps := by
  unfold State.trap
  repeat (any_goals (with_reducible first
    | assumption | refine State.countMem_stores ?_ | refine State.onScull_stores ?_ | refine State.drain_stores ?_ | refine State.enter_stores ?_
    | refine keeps_ite (fun _ => ?_) (fun _ => ?_) | lift_lets -underBinder | split))
theorem State.perform_stores {s : State} {c : Nat} {e : Eff} (h : s.Keeps) : (State.perform s c e).Keeps := by
  unfold State.perform
  repeat (any_goals (with_reducible first
    | assumption | refine State.each_stores ?_ ?_ | refine State.wakeFor_stores ?_ | refine State.onScull_stores ?_ | refine State.landFlight_stores ?_
    | refine State.landStore_stores ?_ | refine State.writeReg_stores ?_ | refine State.drain_stores ?_
    | (intro x; refine keeps_let (x := x) ?_ ?_; unfold x; rotate_left; intro hx; clear_value x) | (intro x; try clear_value x)
    | lift_lets -underBinder | split))
theorem State.issue_stores {s : State} {c : Nat} {x2 : Stand} {bad : Bool} {usesC : Bool} {f : Scull → Eff} (h : s.Keeps) : KeepsOut (State.issue s c x2 bad usesC f) := by
  unfold State.issue
  repeat (any_goals (with_reducible first
    | assumption | refine State.interrupt_stores ?_ | refine State.trap_stores ?_ | refine State.perform_stores ?_ | refine keeps_next ?_
    | refine keepsOut_ite (fun _ => ?_) (fun _ => ?_) | lift_lets -underBinder | split))
theorem State.wakeRange_stores {s : State} {a : Nat} {n : Nat} (h : s.Keeps) : (State.wakeRange s a n).Keeps := by
  unfold State.wakeRange
  repeat (any_goals (with_reducible first
    | assumption | refine State.each_stores ?_ ?_ | refine State.wakeInst_stores ?_ | (intro x; try clear_value x) | lift_lets -underBinder | split))
theorem execDiagPeek_stores {x0 : Hdr} {addr : U32} {length : U16} {s : State} (h : s.Keeps) : KeepsOut (execDiagPeek x0 addr length s) := by
  unfold execDiagPeek
  repeat (any_goals (with_reducible first
    | assumption | refine State.host_stores ?_ ?_ | refine State.wakeRange_stores ?_ | refine State.answer_stores ?_ | refine keeps_next ?_
    | (intro x; try clear_value x)))
theorem State.sysWrite_stores {s : State} {a : Nat} {b : U8} (h : s.Keeps) : (s.sysWrite a b).Keeps := by
  have w : (s.memWrite a [b]).Keeps := State.memWrite_stores h
  delta State.sysWrite
  generalize dramPart s.dir.dramMib s.capacity (a - 0x80000000) = part
  generalize s.place a = pl
  cases pl with
  | unmapped => exact h
  | diag => exact h
  | coxSram => exact w
  | inst n => dsimp only; split <;> assumption
  | dram =>
    cases part with
    | queue q o =>
      dsimp only
      split
      · split
        · exact State.onDlv_stores h
        · exact w
      · exact w
    | length q o =>
      dsimp only
      split
      · exact State.onDlv_stores h
      · exact w
    | hold k o => exact w
    | index k o => exact State.onDir_stores h
    | entry i o => exact State.onEntry_stores h
    | plain => exact w
theorem State.sysWrites_stores {s : State} {a : Nat} {b : Bytes} (h : s.Keeps) : (s.sysWrites a b).Keeps := by
  induction b generalizing s a with
  | nil => exact h
  | cons b bs ih => exact ih (State.sysWrite_stores h)
theorem execDiagPoke_stores {x0 : Hdr} {addr : U32} {length : U16} {reserved : U16} {data : Bytes} {s : State} (h : s.Keeps) : KeepsOut (execDiagPoke x0 addr length reserved data s) := by
  unfold execDiagPoke
  repeat (any_goals (with_reducible first
    | assumption | refine State.host_stores ?_ ?_ | refine State.answer_stores ?_ | refine State.sysWrites_stores ?_ | refine State.wakeRange_stores ?_
    | refine keeps_next ?_ | (intro x; try clear_value x)))
theorem execDmaStatRead_stores {c : Fin 64} {s : State} (h : s.Keeps) : KeepsOut (execDmaStatRead c s) := by
  unfold execDmaStatRead
  repeat (any_goals (with_reducible first
    | assumption | refine State.onScull_stores ?_ | refine keeps_next ?_))
theorem execDmaGo_stores {c : Fin 64} {v : U32} {s : State} (h : s.Keeps) : KeepsOut (execDmaGo c v s) := by
  unfold execDmaGo
  repeat (any_goals (with_reducible first
    | assumption | refine State.dmaPut_stores ?_ | refine keeps_next ?_))
theorem execStkDoneWrite_stores {c : Fin 64} {v : U32} {s : State} (h : s.Keeps) : KeepsOut (execStkDoneWrite c v s) := by
  unfold execStkDoneWrite
  repeat (any_goals (with_reducible first
    | assumption | refine State.doneWrite_stores ?_ | refine keeps_next ?_))
theorem execDmaStarved_stores {channel : Fin 70} {s0 : State} (h : s0.Keeps) : KeepsOut (execDmaStarved channel s0) := by
  unfold execDmaStarved
  repeat (any_goals (with_reducible first
    | assumption | refine State.at_stores ?_ | refine State.onScull_stores ?_ | refine State.onMem_stores ?_ ?_ | refine State.raise_stores ?_
    | refine State.fallLine_stores ?_ | refine State.countMem_stores ?_ | refine keeps_next ?_ | refine keepsOut_ite (fun _ => ?_) (fun _ => ?_)
    | refine keeps_ite (fun _ => ?_) (fun _ => ?_) | (intro x; try clear_value x)))
theorem State.grantChannels_stores {s : State} {p : Nat → Bool} (h : s.Keeps) : (State.grantChannels s p).Keeps := by
  unfold State.grantChannels
  repeat (any_goals (with_reducible first
    | assumption | refine State.onMem_stores ?_ ?_ | (intro x; try clear_value x)))
theorem State.spiWrite_stores {s : State} {addr : Nat} {v : U16} (h : s.Keeps) : (State.spiWrite s addr v).Keeps := by
  unfold State.spiWrite
  repeat (any_goals (with_reducible first
    | assumption | refine State.refreshIrq_stores ?_ | refine State.onLinks_stores ?_ | split))
theorem State.copyBytes_stores {s : State} {src : Nat} {dst : Nat} {n : Nat} (h : s.Keeps) : (State.copyBytes s src dst n).1.Keeps := by
  induction n generalizing s src dst with
  | zero => exact h
  | succ f ih =>
    unfold State.copyBytes
    repeat (any_goals (with_reducible first
      | assumption | apply ih | refine State.wakeRange_stores ?_ | refine State.sysWrite_stores ?_ | split))
theorem execDmaDone_stores {c : Fin 64} {s : State} (h : s.Keeps) : KeepsOut (execDmaDone c s) := by
  unfold execDmaDone
  repeat (any_goals (with_reducible first
    | assumption | refine State.copyBytes_stores ?_ | refine State.countMem_stores ?_ | refine State.onScull_stores ?_ | refine keeps_next ?_
    | refine keepsOut_ite (fun _ => ?_) (fun _ => ?_) | refine keeps_ite (fun _ => ?_) (fun _ => ?_) | lift_lets -underBinder | split))
theorem execInterruptEntry_stores {c : Fin 64} {s : State} (h : s.Keeps) : KeepsOut (execInterruptEntry c s) := by
  unfold execInterruptEntry
  repeat (any_goals (with_reducible first
    | assumption | refine State.interrupt_stores ?_ | refine keeps_next ?_ | refine keeps_ite (fun _ => ?_) (fun _ => ?_)))
theorem execStkLoRead_stores {c : Fin 64} {s : State} (h : s.Keeps) : KeepsOut (execStkLoRead c s) := by
  unfold execStkLoRead
  repeat (any_goals (with_reducible first
    | assumption | refine State.onScull_stores ?_ | refine keeps_next ?_))
theorem execRegisterWrite_stores {r : RegRef} {v : U32} {s : State} (h : s.Keeps) : KeepsOut (execRegisterWrite r v s) := by
  unfold execRegisterWrite
  repeat (any_goals (with_reducible first
    | assumption | refine State.spiWrite_stores ?_ | refine State.dmaPut_stores ?_ | refine State.writeReg_stores ?_ | refine State.onScull_stores ?_
    | refine State.setWord_stores ?_ | refine keeps_next ?_ | refine keepsOut_ite (fun _ => ?_) (fun _ => ?_) | lift_lets -underBinder | split))
theorem execIdleResume_stores {c : Fin 64} {waited : Nat} {s : State} (h : s.Keeps) : KeepsOut (execIdleResume c waited s) := by
  unfold execIdleResume
  repeat (any_goals (with_reducible first
    | assumption | refine State.onScull_stores ?_ | refine State.interrupt_stores ?_ | refine keeps_next ?_
    | refine keepsOut_ite (fun _ => ?_) (fun _ => ?_) | refine keeps_ite (fun _ => ?_) (fun _ => ?_)))
theorem execStkStatRead_stores {c : Fin 64} {s : State} (h : s.Keeps) : KeepsOut (execStkStatRead c s) := by
  unfold execStkStatRead
  repeat (any_goals (with_reducible first
    | assumption | refine State.onScull_stores ?_ | refine keeps_next ?_))
theorem State.takeBuffer_stores {s : State} {lane : Nat} (h : s.Keeps) : (State.takeBuffer s lane).Keeps := by
  unfold State.takeBuffer
  repeat (any_goals (with_reducible first
    | assumption | refine State.onRx_stores ?_ | split))
theorem State.openBlock_stores {s : State} {i : Nat} (h : s.Keeps) : (State.openBlock s i).Keeps := by
  unfold State.openBlock
  repeat (any_goals (with_reducible first
    | assumption | refine State.onLane_stores ?_ | refine State.takeBuffer_stores ?_))
theorem State.endSamples_stores {s : State} {l : List BinIn} (h : s.Keeps) : (State.endSamples s l).Keeps := by
  unfold State.endSamples
  repeat (any_goals (with_reducible first
    | assumption | refine State.each_stores ?_ ?_ | refine State.fillBins_stores ?_ | refine State.feedBin_stores ?_ | refine State.onChain_stores ?_
    | (intro x; try clear_value x)))
theorem State.postLane_stores {s : State} {i : Nat} (h : s.Keeps) : (State.postLane s i).Keeps := by
  unfold State.postLane
  repeat (any_goals (with_reducible first
    | assumption | refine State.memWrite_stores ?_ | refine State.setLane_stores ?_ | (intro x; try clear_value x) | lift_lets -underBinder | split))
theorem State.feedCtx_stores {s : State} {x1 : Held} {e : Nat × Ctx} (h : s.Keeps) : (State.feedCtx s x1 e).Keeps := by
  unfold State.feedCtx
  repeat (any_goals (with_reducible first
    | assumption | refine State.issueCtx_stores ?_ | refine State.onCtx_stores ?_ | refine State.retain_stores ?_ | refine State.afterFail_stores ?_
    | refine keeps_ite (fun _ => ?_) (fun _ => ?_)))
theorem State.feedLane_stores {s : State} {i : Nat} (h : s.Keeps) : (State.feedLane s i).Keeps := by
  unfold State.feedLane
  repeat (any_goals (with_reducible first
    | assumption | refine State.each_stores ?_ ?_ | refine State.feedCtx_stores ?_ | refine keeps_ite (fun _ => ?_) (fun _ => ?_)
    | (intro x; try clear_value x)))
theorem State.handleHits_stores {s : State} {lanes : List Nat} (h : s.Keeps) : (State.handleHits s lanes).Keeps := by
  unfold State.handleHits
  repeat (any_goals (with_reducible first
    | assumption | refine State.onCnt_stores ?_ | refine State.each_stores ?_ ?_ | refine State.takeHit_stores ?_ | (intro x; try clear_value x)))
theorem State.shed_stores {s : State} (h : s.Keeps) : (State.shed s).Keeps := by
  unfold State.shed
  repeat (any_goals (with_reducible first
    | assumption | refine State.onRx_stores ?_ | refine State.each_stores ?_ ?_ | refine State.closeSweep_stores ?_ | refine State.onLeak_stores ?_
    | refine keeps_ite (fun _ => ?_) (fun _ => ?_) | (intro x; try clear_value x)))
theorem State.issueWork_stores {s : State} {l : List WorkIn} (h : s.Keeps) : (State.issueWork s l).Keeps := by
  unfold State.issueWork
  repeat (any_goals (with_reducible first
    | assumption | refine State.each_stores ?_ ?_ | refine State.issueAll_stores ?_ | refine State.issueOrder_stores ?_ | (intro x; try clear_value x)))
theorem State.dropOld_stores {s : State} (h : s.Keeps) : (State.dropOld s).Keeps := by
  unfold State.dropOld
  repeat (any_goals (with_reducible first
    | assumption | refine State.each_stores ?_ ?_ | refine State.onCtx_stores ?_ | refine State.dropKept_stores ?_ | (intro x; try clear_value x)))
theorem State.classify_stores {s : State} (h : s.Keeps) : (State.classify s).Keeps := by
  unfold State.classify
  repeat (any_goals (with_reducible first
    | assumption | refine State.each_stores ?_ ?_ | refine State.onCnt_stores ?_ | refine State.onCtx_stores ?_ | (intro x; try clear_value x)))
theorem State.catchLanes_stores {s : State} {i : CatchIn} (h : s.Keeps) : (State.catchLanes s i).Keeps := by
  unfold State.catchLanes
  repeat (any_goals (with_reducible first
    | assumption | refine State.endSamples_stores ?_ | refine State.each_stores ?_ ?_ | refine State.postLane_stores ?_ | refine State.feedLane_stores ?_
    | refine State.handleHits_stores ?_ | refine State.shed_stores ?_ | refine State.issueWork_stores ?_ | refine State.dropOld_stores ?_
    | refine State.classify_stores ?_ | (intro x; try clear_value x)))
theorem State.catchTemp_stores {s : State} {t : Int} (h : s.Keeps) : (State.catchTemp s t).Keeps := by
  unfold State.catchTemp
  repeat (any_goals (with_reducible first
    | assumption | refine State.onTrim_stores ?_))
theorem State.catchAon_stores {s : State} {edges : Nat} (h : s.Keeps) : (State.catchAon s edges).Keeps := by
  unfold State.catchAon
  repeat (any_goals (with_reducible first
    | assumption | refine State.onClk_stores ?_))
theorem State.nextStroke_stores {s : State} (h : s.Keeps) : (State.nextStroke s).Keeps := by
  unfold State.nextStroke
  repeat (any_goals (with_reducible first
    | assumption | refine State.at_stores ?_ | (intro x; refine keeps_let (x := x) ?_ ?_; unfold x; rotate_left; intro hx; clear_value x)
    | (intro x; try clear_value x) | lift_lets -underBinder | exact keeps_mk (State.Keeps.stores (by assumption))))
theorem State.catchGains_stores {s : State} {peaks : List (Nat × Int)} (h : s.Keeps) : (State.catchGains s peaks).Keeps := by
  unfold State.catchGains
  repeat (any_goals (with_reducible first
    | assumption | refine State.each_stores ?_ ?_ | refine State.agcCatch_stores ?_ | refine State.onGain_stores ?_ | (intro x; try clear_value x)))
theorem State.catchChanges_stores {s : State} (h : s.Keeps) : (State.catchChanges s).Keeps := by
  unfold State.catchChanges
  repeat (any_goals (with_reducible first
    | assumption | refine State.applyPlan_stores ?_ | refine State.applyTrim_stores ?_ | refine State.planEnergy_stores ?_ | refine State.catchConfig_stores ?_
    | refine State.onPwr_stores ?_ | refine State.setPolicy_stores ?_
    | (intro x; refine keeps_let (x := x) ?_ ?_; unfold x; rotate_left; intro hx; clear_value x) | lift_lets -underBinder | split))
theorem State.returnBuffers_stores {s : State} (h : s.Keeps) : (State.returnBuffers s).Keeps := by
  unfold State.returnBuffers
  repeat (any_goals (with_reducible first
    | assumption | refine State.onRx_stores ?_))
theorem State.settleLane_stores {s : State} {i : Nat} (h : s.Keeps) : (State.settleLane s i).Keeps := by
  unfold State.settleLane
  repeat (any_goals (with_reducible first
    | assumption | refine State.onLane_stores ?_ | refine State.setLane_stores ?_ | refine keeps_ite (fun _ => ?_) (fun _ => ?_)))
theorem State.signalAll_stores {s : State} (h : s.Keeps) : (State.signalAll s).Keeps := by
  unfold State.signalAll
  repeat (any_goals (with_reducible first
    | assumption | refine State.each_stores ?_ ?_ | refine State.onScull_stores ?_ | (intro x; try clear_value x)))
theorem State.giveList_stores {s : State} {c : Nat} (h : s.Keeps) : (State.giveList s c).Keeps := by
  unfold State.giveList
  repeat (any_goals (with_reducible first
    | assumption | refine State.each_stores ?_ ?_ | refine State.memWrite_stores ?_ | refine State.onScull_stores ?_
    | refine keeps_ite (fun _ => ?_) (fun _ => ?_) | (intro x; try clear_value x)))
theorem State.catchArray_stores {s : State} (h : s.Keeps) : (State.catchArray s).Keeps := by
  unfold State.catchArray
  repeat (any_goals (with_reducible first
    | assumption | refine State.each_stores ?_ ?_ | refine State.deadScull_stores ?_ | refine State.catchCrew_stores ?_ | refine State.signalAll_stores ?_
    | refine State.accountCrew_stores ?_ | refine State.giveList_stores ?_ | (intro x; try clear_value x)))
theorem State.catchWords_stores {s : State} (h : s.Keeps) : (State.catchWords s).Keeps := by
  unfold State.catchWords
  repeat (any_goals (with_reducible first
    | assumption | refine State.each_stores ?_ ?_ | refine State.audit_stores ?_ | refine State.setWord_stores ?_
    | (intro x; refine keeps_let (x := x) ?_ ?_; unfold x; rotate_left; intro hx; clear_value x) | (intro x; try clear_value x)
    | lift_lets -underBinder | split))
theorem State.stepLong_stores {s : State} {tag : U16} (h : s.Keeps) : (State.stepLong s tag).Keeps := by
  unfold State.stepLong
  repeat (any_goals (with_reducible first
    | assumption | refine State.draw_stores ?_ | refine State.steps_stores ?_))
theorem State.catchLong_stores {s : State} (h : s.Keeps) : (State.catchLong s).Keeps := by
  unfold State.catchLong
  repeat (any_goals (with_reducible first
    | assumption | refine State.each_stores ?_ ?_ | refine State.stepLong_stores ?_ | refine State.draw_stores ?_ | refine State.surveySteps_stores ?_
    | refine keeps_ite (fun _ => ?_) (fun _ => ?_) | (intro x; try clear_value x)))
theorem State.catch__stores {s : State} {i : CatchIn} (h : s.Keeps) : (State.catch_ s i).Keeps := by
  unfold State.catch_
  repeat (any_goals (with_reducible first
    | assumption | refine State.settleLane_stores ?_ | refine State.foldl_stores ?_ ?_ | refine State.catchLanes_stores ?_ | refine State.catchService_stores ?_
    | refine State.catchTemp_stores ?_ | refine State.catchAon_stores ?_ | refine State.nextStroke_stores ?_ | refine State.catchAudio_stores ?_
    | refine State.each_stores ?_ ?_ | refine State.catchGains_stores ?_ | refine State.catchGroup_stores ?_ | refine State.catchChanges_stores ?_
    | refine State.catchLeak_stores ?_ | refine State.catchEnergy_stores ?_ | refine State.catchTdm_stores ?_ | refine State.returnBuffers_stores ?_
    | refine State.catchArray_stores ?_ | refine State.openBlock_stores ?_ | refine State.catchWords_stores ?_ | refine State.dropEvent_stores ?_
    | refine State.missedEvent_stores ?_ | refine State.takeSamples_stores ?_ | refine State.grantChannels_stores ?_ | refine State.scaleCore_stores ?_
    | refine State.planner_stores ?_ | refine State.gateSculls_stores ?_ | refine State.catchLong_stores ?_ | refine State.catchTrim_stores ?_
    | (intro x; try clear_value x)))
theorem execStrokeCatch_stores {i : CatchIn} {s : State} (h : s.Keeps) : KeepsOut (execStrokeCatch i s) := by
  unfold execStrokeCatch
  repeat (any_goals (with_reducible first
    | assumption | refine State.catch__stores ?_ | refine keeps_next ?_ | refine keepsOut_ite (fun _ => ?_) (fun _ => ?_)))
theorem execCastling_stores {s : State} (h : s.Keeps) : KeepsOut (execCastling s) := by
  unfold execCastling
  repeat (any_goals (with_reducible first
    | assumption | refine State.catch__stores ?_ | refine keeps_next ?_ | refine keepsOut_ite (fun _ => ?_) (fun _ => ?_) | split))
theorem State.tick_stores {s : State} (h : s.Keeps) : (State.tick s).Keeps := by
  unfold State.tick
  repeat (any_goals (with_reducible first
    | assumption | refine State.catch__stores ?_ | refine keeps_ite (fun _ => ?_) (fun _ => ?_) | lift_lets -underBinder
    | exact keeps_mk (State.Keeps.stores (by assumption))))
theorem execDirRemove_stores {x0 : Hdr} {index : U32} {s : State} (h : s.Keeps) : KeepsOut (execDirRemove x0 index s) := by
  unfold execDirRemove
  repeat (any_goals (with_reducible first
    | assumption | refine State.host_stores ?_ ?_ | refine State.onDir_stores ?_ | refine State.dropKey_stores ?_ | refine State.dropSlot_stores ?_
    | refine State.answer_stores ?_ | refine keeps_next ?_ | (intro x; try clear_value x)))
theorem execDirRebuild_stores {x0 : Hdr} {mask : U16} {interval : U16} {flags : U16} {s : State} (h : s.Keeps) : KeepsOut (execDirRebuild x0 mask interval flags s) := by
  unfold execDirRebuild
  repeat (any_goals (with_reducible first
    | assumption | refine State.host_stores ?_ ?_ | refine State.onDir_stores ?_ | refine State.progress_stores ?_ | refine State.queued_stores ?_
    | refine keeps_next ?_ | (intro x; try clear_value x)))
theorem actDirAdd_stores {x0 : Hdr} {a : Addr} {interval : U16} {flags : U16} {wkey : Bytes} {s : State} (h : s.Keeps) :
    (actDirAdd x0 a interval flags wkey s).Keeps := by
  unfold actDirAdd
  repeat (any_goals (with_reducible first
    | assumption | refine State.answer_stores ?_ | refine State.addSlot_stores ?_ | refine State.setEntry_stores ?_ | split))
theorem execDirAdd_stores {x0 : Hdr} {mfr : U16} {ident : U32} {version : U8} {type : U8} {interval : U16} {flags : U16} {wkey : Bytes} {s : State} (h : s.Keeps) : KeepsOut (execDirAdd x0 mfr ident version type interval flags wkey s) := by
  unfold execDirAdd
  repeat (any_goals (with_reducible first
    | assumption | refine State.host_stores ?_ ?_ | refine actDirAdd_stores ?_ | refine keeps_next ?_ | (intro x; try clear_value x)))
theorem execKeyLoad_stores {x0 : Hdr} {index : U32} {wkey : Bytes} {s : State} (h : s.Keeps) : KeepsOut (execKeyLoad x0 index wkey s) := by
  unfold execKeyLoad
  repeat (any_goals (with_reducible first
    | assumption | refine State.host_stores ?_ ?_ | refine State.answer_stores ?_ | refine State.dropKey_stores ?_ | refine State.onEntry_stores ?_
    | refine keeps_next ?_ | (intro x; try clear_value x)))
theorem execDirQuery_stores {x0 : Hdr} {first : U32} {count : U16} {s : State} (h : s.Keeps) : KeepsOut (execDirQuery x0 first count s) := by
  unfold execDirQuery
  repeat (any_goals (with_reducible first
    | assumption | refine State.host_stores ?_ ?_ | refine State.answer_stores ?_ | refine keeps_next ?_ | (intro x; try clear_value x)))
theorem execHoldEnd_stores {s : State} (h : s.Keeps) : KeepsOut (execHoldEnd s) := by
  unfold execHoldEnd
  repeat (any_goals (with_reducible first
    | assumption | refine State.deliverTel_stores ?_ | refine State.onDir_stores ?_ | refine State.at_stores ?_ | refine keeps_next ?_ | split))
theorem execDirQuarantineEnd_stores {index : Nat} {s : State} (h : s.Keeps) : KeepsOut (execDirQuarantineEnd index s) := by
  unfold execDirQuarantineEnd
  repeat (any_goals (with_reducible first
    | assumption | refine State.onDir_stores ?_ | refine State.at_stores ?_ | refine keeps_next ?_ | split))
theorem execDirectoryProcessing_stores {s : State} (h : s.Keeps) : KeepsOut (execDirectoryProcessing s) := by
  unfold execDirectoryProcessing
  repeat (any_goals (with_reducible first
    | assumption | refine State.processFrame_stores ?_ | refine State.onRx_stores ?_ | refine keeps_next ?_
    | refine keepsOut_ite (fun _ => ?_) (fun _ => ?_) | lift_lets -underBinder | split))
theorem execDirUpdate_stores {x0 : Hdr} {index : U32} {mask : U16} {interval : U16} {flags : U16} {s : State} (h : s.Keeps) : KeepsOut (execDirUpdate x0 index mask interval flags s) := by
  unfold execDirUpdate
  repeat (any_goals (with_reducible first
    | assumption | refine State.host_stores ?_ ?_ | refine State.onEntry_stores ?_ | refine State.answer_stores ?_ | refine State.dropKey_stores ?_
    | refine keeps_next ?_ | refine keeps_ite (fun _ => ?_) (fun _ => ?_) | (intro x; try clear_value x)))
theorem execDirRebuildDone_stores {s : State} (h : s.Keeps) : KeepsOut (execDirRebuildDone s) := by
  unfold execDirRebuildDone
  repeat (any_goals (with_reducible first
    | assumption | refine State.finish_stores ?_ | refine State.onDir_stores ?_ | refine State.rebuildSlots_stores ?_ | refine State.lastSteps_stores ?_
    | refine keeps_next ?_ | split))
theorem State.missWindow_stores {s : State} {i : Nat} (h : s.Keeps) : (State.missWindow s i).Keeps := by
  unfold State.missWindow
  repeat (any_goals (with_reducible first
    | assumption | refine State.onEntry_stores ?_ | refine State.onEng_stores ?_ | refine State.pushEvent_stores ?_
    | refine keeps_ite (fun _ => ?_) (fun _ => ?_)))
theorem execWindowJudgement_stores {index : Nat} {s : State} (h : s.Keeps) : KeepsOut (execWindowJudgement index s) := by
  unfold execWindowJudgement
  repeat (any_goals (with_reducible first
    | assumption | refine State.missWindow_stores ?_ | refine State.at_stores ?_ | refine keeps_next ?_ | refine keepsOut_ite (fun _ => ?_) (fun _ => ?_)))
theorem execWakeExitDone_stores {s : State} (h : s.Keeps) : KeepsOut (execWakeExitDone s) := by
  unfold execWakeExitDone
  repeat (any_goals (with_reducible first
    | assumption | refine State.planner_stores ?_ | refine State.toRow_stores ?_ | refine keeps_next ?_ | refine keepsOut_ite (fun _ => ?_) (fun _ => ?_)))
theorem State.voltFails_stores {s : State} {addr : Nat} (h : s.Keeps) : (State.voltFails s addr).Keeps := by
  unfold State.voltFails
  repeat (any_goals (with_reducible first
    | assumption | refine State.flagFall_stores ?_ | refine State.onPwr_stores ?_))
theorem execVddSettleExpiry_stores {readMv : Nat} {statusBits : U8} {s : State} (h : s.Keeps) : KeepsOut (execVddSettleExpiry readMv statusBits s) := by
  unfold execVddSettleExpiry
  repeat (any_goals (with_reducible first
    | assumption | refine State.onPwr_stores ?_ | refine State.pmbusSend_stores ?_ | refine State.voltFails_stores ?_ | refine keeps_next ?_
    | refine keepsOut_ite (fun _ => ?_) (fun _ => ?_) | split))
theorem State.markListen_stores {s : State} {l : Bool} {on : Bool} (h : s.Keeps) : (State.markListen s l on).Keeps := by
  unfold State.markListen
  repeat (any_goals (with_reducible first
    | assumption | refine State.onPwr_stores ?_))
theorem execVigilListenStart_stores {l : Bool} {s : State} (h : s.Keeps) : KeepsOut (execVigilListenStart l s) := by
  unfold execVigilListenStart
  repeat (any_goals (with_reducible first
    | assumption | refine State.openPair_stores ?_ | refine State.markListen_stores ?_ | refine State.at_stores ?_ | refine keeps_next ?_
    | refine keepsOut_ite (fun _ => ?_) (fun _ => ?_) | lift_lets -underBinder | split))
theorem execMainsGpioEdge_stores {rising : Bool} {held : Nat} {s : State} (h : s.Keeps) : KeepsOut (execMainsGpioEdge rising held s) := by
  unfold execMainsGpioEdge
  repeat (any_goals (with_reducible first
    | assumption | refine State.wake_stores ?_ | refine State.onPwr_stores ?_ | refine keeps_next ?_ | refine keepsOut_ite (fun _ => ?_) (fun _ => ?_)))
theorem execPowerStateEntryDone_stores {edges : Nat} {at_ : Nat} {s : State} (h : s.Keeps) : KeepsOut (execPowerStateEntryDone edges at_ s) := by
  unfold execPowerStateEntryDone
  repeat (any_goals (with_reducible first
    | assumption | refine State.arrive_stores ?_ | refine State.at_stores ?_ | refine keeps_next ?_ | split))
theorem execVigilScan_stores {s : State} (h : s.Keeps) : KeepsOut (execVigilScan s) := by
  unfold execVigilScan
  repeat (any_goals (with_reducible first
    | assumption | refine State.at_stores ?_ | refine State.onPwr_stores ?_ | refine State.sendChain_stores ?_ | refine State.openPair_stores ?_
    | refine keeps_next ?_ | refine keepsOut_ite (fun _ => ?_) (fun _ => ?_)))
theorem execSpiCsFall_stores {ns : Nat} {s : State} (h : s.Keeps) : KeepsOut (execSpiCsFall ns s) := by
  unfold execSpiCsFall
  repeat (any_goals (with_reducible first
    | assumption | refine State.wake_stores ?_ | refine keeps_next ?_ | refine keepsOut_ite (fun _ => ?_) (fun _ => ?_)))
theorem execI2cFlagFall_stores {addr : BitVec 7} {s : State} (h : s.Keeps) : KeepsOut (execI2cFlagFall addr s) := by
  unfold execI2cFlagFall
  repeat (any_goals (with_reducible first
    | assumption | refine State.voltFails_stores ?_ | refine keeps_next ?_))
theorem execWakeAt_stores {x0 : Hdr} {dtime : U64} {cookie : U32} {s : State} (h : s.Keeps) : KeepsOut (execWakeAt x0 dtime cookie s) := by
  unfold execWakeAt
  repeat (any_goals (with_reducible first
    | assumption | refine State.host_stores ?_ ?_ | refine State.answer_stores ?_ | refine State.onPwr_stores ?_ | refine keeps_next ?_
    | refine keeps_ite (fun _ => ?_) (fun _ => ?_) | (intro x; try clear_value x)))
theorem execVigilListenEnd_stores {l : Bool} {s : State} (h : s.Keeps) : KeepsOut (execVigilListenEnd l s) := by
  unfold execVigilListenEnd
  repeat (any_goals (with_reducible first
    | assumption | refine State.markListen_stores ?_ | refine State.at_stores ?_ | refine State.onPwr_stores ?_ | refine State.sendChain_stores ?_
    | refine State.closePair_stores ?_ | refine keeps_next ?_ | refine keepsOut_ite (fun _ => ?_) (fun _ => ?_)
    | refine keeps_ite (fun _ => ?_) (fun _ => ?_)))
theorem execWakeTimer_stores {s : State} (h : s.Keeps) : KeepsOut (execWakeTimer s) := by
  unfold execWakeTimer
  repeat (any_goals (with_reducible first
    | assumption | refine State.wake_stores ?_ | refine State.onPwr_stores ?_ | refine State.at_stores ?_ | refine keeps_next ?_ | split))
theorem execGpioWake_stores {pin : Fin 16} {held : Nat} {s : State} (h : s.Keeps) : KeepsOut (execGpioWake pin held s) := by
  unfold execGpioWake
  repeat (any_goals (with_reducible first
    | assumption | refine State.wake_stores ?_ | refine keeps_next ?_ | refine keepsOut_ite (fun _ => ?_) (fun _ => ?_)))
theorem execPowerPolicy_stores {x0 : Hdr} {policy : U8} {deepest : U8} {s : State} (h : s.Keeps) : KeepsOut (execPowerPolicy x0 policy deepest s) := by
  unfold execPowerPolicy
  repeat (any_goals (with_reducible first
    | assumption | refine State.host_stores ?_ ?_ | refine State.onPwr_stores ?_ | refine State.setPolicy_stores ?_ | refine State.answer_stores ?_
    | refine keeps_next ?_ | (intro x; try clear_value x)))
theorem State.autoReply_stores {s : State} {f : Frame} (h : s.Keeps) : (State.autoReply s f).Keeps := by
  unfold State.autoReply
  repeat (any_goals (with_reducible first
    | assumption | refine State.countReply_stores ?_ | refine State.umpireDeny_stores ?_ | refine State.enqueueTx_stores ?_ | refine State.noteReply_stores ?_
    | refine keeps_ite (fun _ => ?_) (fun _ => ?_) | lift_lets -underBinder | split))
theorem State.passed_stores {s : State} {i : Nat} {c : Ctx} {f : Frame} (h : s.Keeps) : (State.passed s i c f).Keeps := by
  unfold State.passed
  repeat (any_goals (with_reducible first
    | assumption | refine State.onEng_stores ?_ | refine State.onRx_stores ?_ | refine State.onCap_stores ?_ | refine State.afterPass_stores ?_
    | refine State.autoReply_stores ?_))
theorem State.demodBlock_stores {s : State} {i : Nat} {x2 : Held} (h : s.Keeps) : (State.demodBlock s i x2).Keeps := by
  unfold State.demodBlock
  repeat (any_goals (with_reducible first
    | assumption | refine State.onCtx_stores ?_))
theorem State.buildStream_stores {s : State} {i : Nat} (h : s.Keeps) : (State.buildStream s i).Keeps := by
  unfold State.buildStream
  repeat (any_goals (with_reducible first
    | assumption | refine State.giveUp_stores ?_ | refine State.onCtx_stores ?_ | refine keeps_ite (fun _ => ?_) (fun _ => ?_)))
theorem State.followLength_stores {s : State} {i : Nat} {had : Bool} (h : s.Keeps) : (State.followLength s i had).Keeps := by
  unfold State.followLength
  repeat (any_goals (with_reducible first
    | assumption | refine State.onCtx_stores ?_ | refine State.afterFail_stores ?_ | refine State.onEng_stores ?_ | refine State.unpair_stores ?_
    | refine State.buildStream_stores ?_ | refine keeps_ite (fun _ => ?_) (fun _ => ?_)
    | (intro x; refine keeps_let (x := x) ?_ ?_; unfold x; rotate_left; intro hx; clear_value x) | (intro x; try clear_value x)
    | lift_lets -underBinder | split))
theorem State.processBlock_stores {s : State} {i : Nat} {x2 : Held} (h : s.Keeps) : (State.processBlock s i x2).Keeps := by
  unfold State.processBlock
  repeat (any_goals (with_reducible first
    | assumption | refine State.demodBlock_stores ?_ | refine State.confirm_stores ?_ | refine State.followLength_stores ?_
    | refine keeps_ite (fun _ => ?_) (fun _ => ?_) | (intro x; refine keeps_let (x := x) ?_ ?_; unfold x; rotate_left; intro hx; clear_value x)
    | (intro x; try clear_value x) | lift_lets -underBinder | split))
theorem execSweepTailLimit_stores {ctx : Fin 1024} {s : State} (h : s.Keeps) : KeepsOut (execSweepTailLimit ctx s) := by
  unfold execSweepTailLimit
  repeat (any_goals (with_reducible first
    | assumption | refine State.closeSweep_stores ?_ | refine keeps_next ?_ | refine keepsOut_ite (fun _ => ?_) (fun _ => ?_) | split))
theorem State.spillBlock_stores {s : State} {x1 : Held} {o : Nat} (h : s.Keeps) : (State.spillBlock s x1 o).Keeps := by
  unfold State.spillBlock
  repeat (any_goals (with_reducible first
    | assumption | refine State.memWrite_stores ?_))
theorem execSpillCopyDone_stores {ctx : Fin 1024} {s : State} (h : s.Keeps) : KeepsOut (execSpillCopyDone ctx s) := by
  unfold execSpillCopyDone
  repeat (any_goals (with_reducible first
    | assumption | refine State.onCap_stores ?_ | refine State.onCtx_stores ?_ | refine State.dropKept_stores ?_ | refine State.onRx_stores ?_
    | refine State.spillBlock_stores ?_ | refine keeps_next ?_ | refine keepsOut_ite (fun _ => ?_) (fun _ => ?_) | lift_lets -underBinder | split))
theorem execStreamCreditFlagFall_stores {ctx : Fin 1024} {s : State} (h : s.Keeps) : KeepsOut (execStreamCreditFlagFall ctx s) := by
  unfold execStreamCreditFlagFall
  repeat (any_goals (with_reducible first
    | assumption | refine State.at_stores ?_ | refine State.endCtx_stores ?_ | refine State.flagFall_stores ?_ | refine State.onCnt_stores ?_
    | refine keeps_next ?_ | (intro x; try clear_value x) | lift_lets -underBinder | split))
theorem State.blockOrder_stores {s : State} {i : Nat} {x2 : Nat} (h : s.Keeps) : (State.blockOrder s i x2).Keeps := by
  unfold State.blockOrder
  repeat (any_goals (with_reducible first
    | assumption | refine State.processBlock_stores ?_ | refine State.retain_stores ?_ | refine State.onCtx_stores ?_ | split))
theorem State.rerunRun_stores {s : State} {i : Nat} {fuel : Nat} {left : Nat} (h : s.Keeps) : (State.rerunRun s i fuel left).Keeps := by
  induction fuel generalizing s left with
  | zero => exact h
  | succ f ih =>
    unfold State.rerunRun
    repeat (any_goals (with_reducible first
      | assumption | apply ih | refine State.onCtx_stores ?_ | refine State.processBlock_stores ?_ | refine keeps_ite (fun _ => ?_) (fun _ => ?_)
      | lift_lets -underBinder | split))
theorem execWorkOrderComplete_stores {scull : Fin 64} {s : State} (h : s.Keeps) : KeepsOut (execWorkOrderComplete scull s) := by
  unfold execWorkOrderComplete
  repeat (any_goals (with_reducible first
    | assumption | refine State.blockOrder_stores ?_ | refine State.rerunRun_stores ?_ | refine State.issueCtx_stores ?_ | refine State.sweepOrder_stores ?_
    | refine State.onRx_stores ?_ | refine keeps_next ?_ | refine keeps_ite (fun _ => ?_) (fun _ => ?_) | split))
theorem State.parsed_stores {s : State} {i : Nat} (h : s.Keeps) : (State.parsed s i).Keeps := by
  unfold State.parsed
  repeat (any_goals (with_reducible first
    | assumption | refine State.onRx_stores ?_))
theorem execVerdict_stores {ctx : Fin 1024} {s : State} (h : s.Keeps) : KeepsOut (execVerdict ctx s) := by
  unfold execVerdict
  repeat (any_goals (with_reducible first
    | assumption | refine State.parsed_stores ?_ | refine State.afterFail_stores ?_ | refine State.onEng_stores ?_ | refine State.endCtx_stores ?_
    | refine State.deliver_stores ?_ | refine State.passed_stores ?_ | refine keeps_next ?_ | refine keepsOut_ite (fun _ => ?_) (fun _ => ?_)
    | (intro x; refine keeps_let (x := x) ?_ ?_; unfold x; rotate_left; intro hx; clear_value x) | (intro x; try clear_value x)
    | lift_lets -underBinder | split))
theorem execGambitRelease_stores {ctx : Fin 1024} {s : State} (h : s.Keeps) : KeepsOut (execGambitRelease ctx s) := by
  unfold execGambitRelease
  repeat (any_goals (with_reducible first
    | assumption | refine State.releaseGambit_stores ?_ | refine keeps_next ?_ | refine keepsOut_ite (fun _ => ?_) (fun _ => ?_) | split))
theorem execStreamOffer_stores {ctx : Fin 1024} {s : State} (h : s.Keeps) : KeepsOut (execStreamOffer ctx s) := by
  unfold execStreamOffer
  repeat (any_goals (with_reducible first
    | assumption | refine State.onEng_stores ?_ | refine State.onRx_stores ?_ | refine State.onCtx_stores ?_ | refine keeps_next ?_
    | refine keepsOut_ite (fun _ => ?_) (fun _ => ?_) | (intro x; try clear_value x) | lift_lets -underBinder | split))
theorem execContextOverrunAbort_stores {ctx : Fin 1024} {s : State} (h : s.Keeps) : KeepsOut (execContextOverrunAbort ctx s) := by
  unfold execContextOverrunAbort
  repeat (any_goals (with_reducible first
    | assumption | refine State.abortCtx_stores ?_ | refine keeps_next ?_ | refine keepsOut_ite (fun _ => ?_) (fun _ => ?_) | split))
theorem execWaitingExpiry_stores {ctx : Fin 1024} {s : State} (h : s.Keeps) : KeepsOut (execWaitingExpiry ctx s) := by
  unfold execWaitingExpiry
  repeat (any_goals (with_reducible first
    | assumption | refine State.onCap_stores ?_ | refine State.endCtx_stores ?_ | refine keeps_next ?_ | refine keepsOut_ite (fun _ => ?_) (fun _ => ?_)
    | split))
theorem execScullFlagFall_stores {c : Fin 64} {s : State} (h : s.Keeps) : KeepsOut (execScullFlagFall c s) := by
  unfold execScullFlagFall
  repeat (any_goals (with_reducible first
    | assumption | refine State.resetScull_stores ?_ | refine keeps_next ?_ | refine keepsOut_ite (fun _ => ?_) (fun _ => ?_)))
theorem execEi_stores {c : Fin 64} {rsv : Bool} {s : State} (h : s.Keeps) : KeepsOut (execEi c rsv s) := by
  unfold execEi
  repeat (any_goals (with_reducible first
    | assumption | refine State.issue_stores ?_))
theorem execHalt_stores {c : Fin 64} {rsv : Bool} {s : State} (h : s.Keeps) : KeepsOut (execHalt c rsv s) := by
  unfold execHalt
  repeat (any_goals (with_reducible first
    | assumption | refine State.issue_stores ?_))
theorem execRpt_stores {c : Fin 64} {n : Count} {rsv : Bool} {s : State} (h : s.Keeps) : KeepsOut (execRpt c n rsv s) := by
  unfold execRpt
  repeat (any_goals (with_reducible first
    | assumption | refine State.issue_stores ?_))
theorem State.branchTo_stores {s : State} {c : Nat} {cond : BitVec 4} {t : Target} {link : Bool} {rsv : Bool} (h : s.Keeps) : KeepsOut (State.branchTo s c cond t link rsv) := by
  unfold State.branchTo
  repeat (any_goals (with_reducible first
    | assumption | refine State.issue_stores ?_))
theorem execCall_stores {c : Fin 64} {cond : BitVec 4} {t : Target} {rsv : Bool} {s : State} (h : s.Keeps) : KeepsOut (execCall c cond t rsv s) := by
  unfold execCall
  repeat (any_goals (with_reducible first
    | assumption | refine State.branchTo_stores ?_))
theorem execIdle_stores {c : Fin 64} {rsv : Bool} {s : State} (h : s.Keeps) : KeepsOut (execIdle c rsv s) := by
  unfold execIdle
  repeat (any_goals (with_reducible first
    | assumption | refine State.issue_stores ?_))
theorem execLoop_stores {c : Fin 64} {n : Count} {km1 : BitVec 3} {rsv : Bool} {s : State} (h : s.Keeps) : KeepsOut (execLoop c n km1 rsv s) := by
  unfold execLoop
  repeat (any_goals (with_reducible first
    | assumption | refine State.issue_stores ?_))
theorem execBr_stores {c : Fin 64} {cond : BitVec 4} {code : BitVec 7} {rsv : Bool} {s : State} (h : s.Keeps) : KeepsOut (execBr c cond code rsv s) := by
  unfold execBr
  repeat (any_goals (with_reducible first
    | assumption | refine State.branchTo_stores ?_))
theorem execB_stores {c : Fin 64} {cond : BitVec 4} {ofs : BitVec 22} {s : State} (h : s.Keeps) : KeepsOut (execB c cond ofs s) := by
  unfold execB
  repeat (any_goals (with_reducible first
    | assumption | refine State.branchTo_stores ?_))
theorem execDi_stores {c : Fin 64} {rsv : Bool} {s : State} (h : s.Keeps) : KeepsOut (execDi c rsv s) := by
  unfold execDi
  repeat (any_goals (with_reducible first
    | assumption | refine State.issue_stores ?_))
theorem execReti_stores {c : Fin 64} {rsv : Bool} {s : State} (h : s.Keeps) : KeepsOut (execReti c rsv s) := by
  unfold execReti
  repeat (any_goals (with_reducible first
    | assumption | refine State.issue_stores ?_))
theorem execNop_stores {c : Fin 64} {rsv : Bool} {s : State} (h : s.Keeps) : KeepsOut (execNop c rsv s) := by
  unfold execNop
  repeat (any_goals (with_reducible first
    | assumption | refine State.issue_stores ?_))
theorem execRet_stores {c : Fin 64} {s : State} (h : s.Keeps) : KeepsOut (execRet c s) := by
  unfold execRet
  repeat (any_goals (with_reducible first
    | assumption | refine State.branchTo_stores ?_))
theorem State.alu_stores {s : State} {c : Nat} {bad : Bool} {write : Bool} {f : AluF} {g : BitVec 16 → BitVec 16 → Bool → BitVec 16 × Flags} (h : s.Keeps) : KeepsOut (State.alu s c bad write f g) := by
  unfold State.alu
  repeat (any_goals (with_reducible first
    | assumption | refine State.issue_stores ?_))
theorem execShl_stores {c : Fin 64} {f : AluF} {s : State} (h : s.Keeps) : KeepsOut (execShl c f s) := by
  unfold execShl
  repeat (any_goals (with_reducible first
    | assumption | refine State.alu_stores ?_))
theorem State.accClass_stores {s : State} {c : Nat} {bad : Bool} {write : Bool} {f : AccF} {g : BitVec 40 → BitVec 40 → BitVec 16 → BitVec 40 × Flags} (h : s.Keeps) : KeepsOut (State.accClass s c bad write f g) := by
  unfold State.accClass
  repeat (any_goals (with_reducible first
    | assumption | refine State.issue_stores ?_))
theorem execLda_stores {c : Fin 64} {f : AccF} {s : State} (h : s.Keeps) : KeepsOut (execLda c f s) := by
  unfold execLda
  repeat (any_goals (with_reducible first
    | assumption | refine State.accClass_stores ?_))
theorem execAdda_stores {c : Fin 64} {f : AccF} {s : State} (h : s.Keeps) : KeepsOut (execAdda c f s) := by
  unfold execAdda
  repeat (any_goals (with_reducible first
    | assumption | refine State.accClass_stores ?_))
theorem execCmpa_stores {c : Fin 64} {f : AccF} {s : State} (h : s.Keeps) : KeepsOut (execCmpa c f s) := by
  unfold execCmpa
  repeat (any_goals (with_reducible first
    | assumption | refine State.accClass_stores ?_))
theorem execAddd_stores {c : Fin 64} {f : AccF} {s : State} (h : s.Keeps) : KeepsOut (execAddd c f s) := by
  unfold execAddd
  repeat (any_goals (with_reducible first
    | assumption | refine State.accClass_stores ?_))
theorem execSuba_stores {c : Fin 64} {f : AccF} {s : State} (h : s.Keeps) : KeepsOut (execSuba c f s) := by
  unfold execSuba
  repeat (any_goals (with_reducible first
    | assumption | refine State.accClass_stores ?_))
theorem State.macClass_stores {s : State} {c : Nat} {op : MacOp} {f : MacF} (h : s.Keeps) : KeepsOut (State.macClass s c op f) := by
  unfold State.macClass
  repeat (any_goals (with_reducible first
    | assumption | refine State.issue_stores ?_))
theorem execSbc_stores {c : Fin 64} {f : AluF} {s : State} (h : s.Keeps) : KeepsOut (execSbc c f s) := by
  unfold execSbc
  repeat (any_goals (with_reducible first
    | assumption | refine State.alu_stores ?_))
theorem execAsr_stores {c : Fin 64} {f : AluF} {s : State} (h : s.Keeps) : KeepsOut (execAsr c f s) := by
  unfold execAsr
  repeat (any_goals (with_reducible first
    | assumption | refine State.alu_stores ?_))
theorem State.condClass_stores {s : State} {c : Nat} {bad : Bool} {f : CondF} {g : Scull → Scull → Scull} (h : s.Keeps) : KeepsOut (State.condClass s c bad f g) := by
  unfold State.condClass
  repeat (any_goals (with_reducible first
    | assumption | refine State.issue_stores ?_))
theorem execCsub_stores {c : Fin 64} {f : CondF} {s : State} (h : s.Keeps) : KeepsOut (execCsub c f s) := by
  unfold execCsub
  repeat (any_goals (with_reducible first
    | assumption | refine State.condClass_stores ?_))
theorem execNot_stores {c : Fin 64} {f : AluF} {s : State} (h : s.Keeps) : KeepsOut (execNot c f s) := by
  unfold execNot
  repeat (any_goals (with_reducible first
    | assumption | refine State.alu_stores ?_))
theorem execAdc_stores {c : Fin 64} {f : AluF} {s : State} (h : s.Keeps) : KeepsOut (execAdc c f s) := by
  unfold execAdc
  repeat (any_goals (with_reducible first
    | assumption | refine State.alu_stores ?_))
theorem execMov_stores {c : Fin 64} {f : AluF} {s : State} (h : s.Keeps) : KeepsOut (execMov c f s) := by
  unfold execMov
  repeat (any_goals (with_reducible first
    | assumption | refine State.alu_stores ?_))
theorem execCmov_stores {c : Fin 64} {f : CondF} {s : State} (h : s.Keeps) : KeepsOut (execCmov c f s) := by
  unfold execCmov
  repeat (any_goals (with_reducible first
    | assumption | refine State.condClass_stores ?_))
theorem execSub_stores {c : Fin 64} {f : AluF} {s : State} (h : s.Keeps) : KeepsOut (execSub c f s) := by
  unfold execSub
  repeat (any_goals (with_reducible first
    | assumption | refine State.alu_stores ?_))
theorem execOr_stores {c : Fin 64} {f : AluF} {s : State} (h : s.Keeps) : KeepsOut (execOr c f s) := by
  unfold execOr
  repeat (any_goals (with_reducible first
    | assumption | refine State.alu_stores ?_))
theorem execNega_stores {c : Fin 64} {f : AccF} {s : State} (h : s.Keeps) : KeepsOut (execNega c f s) := by
  unfold execNega
  repeat (any_goals (with_reducible first
    | assumption | refine State.accClass_stores ?_))
theorem execCsuba_stores {c : Fin 64} {f : CondF} {s : State} (h : s.Keeps) : KeepsOut (execCsuba c f s) := by
  unfold execCsuba
  repeat (any_goals (with_reducible first
    | assumption | refine State.condClass_stores ?_))
theorem execShr_stores {c : Fin 64} {f : AluF} {s : State} (h : s.Keeps) : KeepsOut (execShr c f s) := by
  unfold execShr
  repeat (any_goals (with_reducible first
    | assumption | refine State.alu_stores ?_))
theorem execAsra_stores {c : Fin 64} {f : AccF} {s : State} (h : s.Keeps) : KeepsOut (execAsra c f s) := by
  unfold execAsra
  repeat (any_goals (with_reducible first
    | assumption | refine State.accClass_stores ?_))
theorem execCadd_stores {c : Fin 64} {f : CondF} {s : State} (h : s.Keeps) : KeepsOut (execCadd c f s) := by
  unfold execCadd
  repeat (any_goals (with_reducible first
    | assumption | refine State.condClass_stores ?_))
theorem execDstp_stores {c : Fin 64} {first : Bool} {an : BitVec 2} {ds : BitVec 3} {rsv : Bool} {s : State} (h : s.Keeps) : KeepsOut (execDstp c first an ds rsv s) := by
  unfold execDstp
  repeat (any_goals (with_reducible first
    | assumption | refine State.issue_stores ?_))
theorem execDend_stores {c : Fin 64} {an : BitVec 2} {ds : BitVec 3} {dd : BitVec 3} {rsv : Bool} {s : State} (h : s.Keeps) : KeepsOut (execDend c an ds dd rsv s) := by
  unfold execDend
  repeat (any_goals (with_reducible first
    | assumption | refine State.issue_stores ?_))
theorem execQmrg_stores {c : Fin 64} {f : AccF} {s : State} (h : s.Keeps) : KeepsOut (execQmrg c f s) := by
  unfold execQmrg
  repeat (any_goals (with_reducible first
    | assumption | refine State.issue_stores ?_))
theorem execCadda_stores {c : Fin 64} {f : CondF} {s : State} (h : s.Keeps) : KeepsOut (execCadda c f s) := by
  unfold execCadda
  repeat (any_goals (with_reducible first
    | assumption | refine State.condClass_stores ?_))
theorem execMsu_stores {c : Fin 64} {f : MacF} {s : State} (h : s.Keeps) : KeepsOut (execMsu c f s) := by
  unfold execMsu
  repeat (any_goals (with_reducible first
    | assumption | refine State.macClass_stores ?_))
theorem execNeg_stores {c : Fin 64} {f : AluF} {s : State} (h : s.Keeps) : KeepsOut (execNeg c f s) := by
  unfold execNeg
  repeat (any_goals (with_reducible first
    | assumption | refine State.alu_stores ?_))
theorem execXor_stores {c : Fin 64} {f : AluF} {s : State} (h : s.Keeps) : KeepsOut (execXor c f s) := by
  unfold execXor
  repeat (any_goals (with_reducible first
    | assumption | refine State.alu_stores ?_))
theorem execMpy_stores {c : Fin 64} {f : MacF} {s : State} (h : s.Keeps) : KeepsOut (execMpy c f s) := by
  unfold execMpy
  repeat (any_goals (with_reducible first
    | assumption | refine State.macClass_stores ?_))
theorem execClra_stores {c : Fin 64} {f : AccF} {s : State} (h : s.Keeps) : KeepsOut (execClra c f s) := by
  unfold execClra
  repeat (any_goals (with_reducible first
    | assumption | refine State.accClass_stores ?_))
theorem execAsla_stores {c : Fin 64} {f : AccF} {s : State} (h : s.Keeps) : KeepsOut (execAsla c f s) := by
  unfold execAsla
  repeat (any_goals (with_reducible first
    | assumption | refine State.accClass_stores ?_))
theorem execTst_stores {c : Fin 64} {f : AluF} {s : State} (h : s.Keeps) : KeepsOut (execTst c f s) := by
  unfold execTst
  repeat (any_goals (with_reducible first
    | assumption | refine State.alu_stores ?_))
theorem execMova_stores {c : Fin 64} {f : AccF} {s : State} (h : s.Keeps) : KeepsOut (execMova c f s) := by
  unfold execMova
  repeat (any_goals (with_reducible first
    | assumption | refine State.accClass_stores ?_))
theorem execSubd_stores {c : Fin 64} {f : AccF} {s : State} (h : s.Keeps) : KeepsOut (execSubd c f s) := by
  unfold execSubd
  repeat (any_goals (with_reducible first
    | assumption | refine State.accClass_stores ?_))
theorem execAnd_stores {c : Fin 64} {f : AluF} {s : State} (h : s.Keeps) : KeepsOut (execAnd c f s) := by
  unfold execAnd
  repeat (any_goals (with_reducible first
    | assumption | refine State.alu_stores ?_))
theorem execCmp_stores {c : Fin 64} {f : AluF} {s : State} (h : s.Keeps) : KeepsOut (execCmp c f s) := by
  unfold execCmp
  repeat (any_goals (with_reducible first
    | assumption | refine State.alu_stores ?_))
theorem execCmova_stores {c : Fin 64} {f : CondF} {s : State} (h : s.Keeps) : KeepsOut (execCmova c f s) := by
  unfold execCmova
  repeat (any_goals (with_reducible first
    | assumption | refine State.condClass_stores ?_))
theorem execAdd_stores {c : Fin 64} {f : AluF} {s : State} (h : s.Keeps) : KeepsOut (execAdd c f s) := by
  unfold execAdd
  repeat (any_goals (with_reducible first
    | assumption | refine State.alu_stores ?_))
theorem execMac_stores {c : Fin 64} {f : MacF} {s : State} (h : s.Keeps) : KeepsOut (execMac c f s) := by
  unfold execMac
  repeat (any_goals (with_reducible first
    | assumption | refine State.macClass_stores ?_))
theorem State.setPointer_stores {s : State} {c : Nat} {f : PtrF} {g : U32 → U32} (h : s.Keeps) : KeepsOut (State.setPointer s c f g) := by
  unfold State.setPointer
  repeat (any_goals (with_reducible first
    | assumption | refine State.issue_stores ?_))
theorem execSetl_stores {c : Fin 64} {f : PtrF} {s : State} (h : s.Keeps) : KeepsOut (execSetl c f s) := by
  unfold execSetl
  repeat (any_goals (with_reducible first
    | assumption | refine State.setPointer_stores ?_))
theorem execMovr_stores {c : Fin 64} {rd : BitVec 7} {rs : BitVec 7} {rsv : Bool} {s : State} (h : s.Keeps) : KeepsOut (execMovr c rd rs rsv s) := by
  unfold execMovr
  repeat (any_goals (with_reducible first
    | assumption | refine State.issue_stores ?_))
theorem execSt_stores {c : Fin 64} {f : MemF} {s : State} (h : s.Keeps) : KeepsOut (execSt c f s) := by
  unfold execSt
  repeat (any_goals (with_reducible first
    | assumption | refine State.issue_stores ?_))
theorem execSacc_stores {c : Fin 64} {f : SaccF} {s : State} (h : s.Keeps) : KeepsOut (execSacc c f s) := by
  unfold execSacc
  repeat (any_goals (with_reducible first
    | assumption | refine State.issue_stores ?_))
theorem execSeth_stores {c : Fin 64} {f : PtrF} {s : State} (h : s.Keeps) : KeepsOut (execSeth c f s) := by
  unfold execSeth
  repeat (any_goals (with_reducible first
    | assumption | refine State.setPointer_stores ?_))
theorem execAddi_stores {c : Fin 64} {f : PtrF} {s : State} (h : s.Keeps) : KeepsOut (execAddi c f s) := by
  unfold execAddi
  repeat (any_goals (with_reducible first
    | assumption | refine State.setPointer_stores ?_))
theorem execLd_stores {c : Fin 64} {f : MemF} {s : State} (h : s.Keeps) : KeepsOut (execLd c f s) := by
  unfold execLd
  repeat (any_goals (with_reducible first
    | assumption | refine State.issue_stores ?_))
theorem execModp_stores {c : Fin 64} {f : PtrF} {s : State} (h : s.Keeps) : KeepsOut (execModp c f s) := by
  unfold execModp
  repeat (any_goals (with_reducible first
    | assumption | refine State.issue_stores ?_))
theorem State.withFetchWord_stores {s : State} {nbits : Nat} {w : Nat} (h : s.Keeps) : (State.withFetchWord s nbits w).Keeps := by
  unfold State.withFetchWord
  repeat (any_goals (with_reducible first
    | assumption | exact keeps_mk (State.Keeps.stores (by assumption)) | split))

end Sys2Proof.Machine
end

