-- ==== Sys2Proof/Laws/Memory.lean ====
section
/-! SUPPORT. Memory: a byte read after a write, and the canonical form under every operation over the byte store. -/

namespace Sys2Proof.Machine

set_option Elab.async false

/-! ### Addresses written since a loss -/

@[simp] theorem mem_insertAddr (x y : Nat) (l : List Nat) : y ∈ insertAddr x l ↔ y = x ∨ y ∈ l := by
  induction l with
  | nil => simp [insertAddr]
  | cons z l ih =>
    unfold insertAddr
    split
    · simp
    · split
      · next h => simp only [beq_iff_eq] at h; subst h; simp
      · simp only [List.mem_cons, ih]
        exact ⟨fun h => h.elim (.inr ∘ .inl) (fun k => k.elim .inl (.inr ∘ .inr)), fun h => h.elim (.inr ∘ .inl) (fun k => k.elim .inl (.inr ∘ .inr))⟩

/-! ### What a write leaves alone -/

theorem State.pokeByte_frame (s : State) (a : Nat) (b : U8) :
    s.pokeByte a b = { s with mem := { s.mem with cells := (s.pokeByte a b).mem.cells, fresh := (s.pokeByte a b).mem.fresh } } := by
  unfold State.pokeByte
  split <;> rfl

@[simp] theorem State.pokeByte_dir (s : State) (a : Nat) (b : U8) : (s.pokeByte a b).dir = s.dir := by
  rw [State.pokeByte_frame]

@[simp] theorem State.pokeByte_insts (s : State) (a : Nat) (b : U8) : (s.pokeByte a b).mem.insts = s.mem.insts := by
  rw [State.pokeByte_frame]

@[simp] theorem State.pokeByte_place (s : State) (a : Nat) (b : U8) (x : Nat) : (s.pokeByte a b).place x = s.place x := by
  simp [State.place]

@[simp] theorem State.pokeByte_inst (s : State) (a : Nat) (b : U8) (n : Nat) : (s.pokeByte a b).inst n = s.inst n := by
  simp [State.inst]

/-! ### A read after a write -/

/-- A byte written is read back. -/
theorem State.memByte_pokeByte (s : State) (a : Nat) (b : U8) (h : s.mem.wf = true) : (s.pokeByte a b).memByte a = b := by
  have r : readCell (fun _ => 0) (writeCell (fun _ => 0) s.mem.cells a b) a = b := readCell_writeCell _ _ 0 _ _ h
  unfold State.memByte
  simp only [State.pokeByte_place, State.pokeByte_inst]
  unfold State.pokeByte
  cases s.place a with
  | inst n =>
    dsimp only [State.onMem]
    by_cases l : (s.inst n).lost = 0
    · simp only [l, bne_self_eq_false, Bool.false_and]
      exact r
    · simpa [l] using r
  | _ => exact r

/-- A write leaves every other byte as it was. -/
theorem State.memByte_pokeByte_ne (s : State) (a x : Nat) (b : U8) (h : x ≠ a) : (s.pokeByte a b).memByte x = s.memByte x := by
  have r : readCell (fun _ => 0) (writeCell (fun _ => 0) s.mem.cells a b) x = readCell (fun _ => 0) s.mem.cells x :=
    readCell_writeCell_ne _ _ _ _ _ h
  have c : (s.pokeByte a b).mem.cells = writeCell (fun _ => 0) s.mem.cells a b := by
    unfold State.pokeByte; split <;> rfl
  have f : (s.pokeByte a b).mem.fresh.contains x = s.mem.fresh.contains x := by
    unfold State.pokeByte
    split
    · simp only [State.onMem_mem]
      split
      · simp [h]
      · rfl
    · rfl
  unfold State.memByte
  simp only [State.pokeByte_place, State.pokeByte_inst, c, f, r]

/-- Bytes written leave every byte outside them as it was. -/
theorem State.memByte_pokeBytes_out (s : State) (a x : Nat) (b : Bytes) (h : x < a ∨ a + b.length ≤ x) :
    (s.pokeBytes a b).memByte x = s.memByte x := by
  induction b generalizing s a with
  | nil => rfl
  | cons c b ih =>
    simp only [List.length_cons] at h
    rw [State.pokeBytes, ih _ _ (by omega), State.memByte_pokeByte_ne _ _ _ _ (by omega)]

/-- Bytes written are read back. -/
theorem State.memByte_pokeBytes (s : State) (a i : Nat) (b : Bytes) (h : s.storesWf = true) (hi : i < b.length) :
    (s.pokeBytes a b).memByte (a + i) = b[i] := by
  induction b generalizing s a i with
  | nil => simp at hi
  | cons c b ih =>
    have hs : s.Keeps := ⟨h⟩
    cases i with
    | zero =>
      rw [State.pokeBytes, State.memByte_pokeBytes_out _ _ _ _ (by omega)]
      exact State.memByte_pokeByte s a c hs.stores.cells
    | succ i =>
      have := ih (s.pokeByte a c) (a + 1) i (State.pokeByte_stores hs).wf (by simpa using hi)
      rw [State.pokeBytes, show a + (i + 1) = a + 1 + i by omega, this]
      rfl

/-! ### The canonical form of memory -/

/-- Memory right after reset is in its canonical form. -/
theorem reset_mem_wf : State.reset.mem.wf = true := rfl

/-- A byte written keeps memory canonical. -/
theorem State.pokeByte_wf (s : State) (a : Nat) (b : U8) (h : s.mem.wf = true) : (s.pokeByte a b).mem.wf = true := by
  unfold State.pokeByte
  split <;> exact cellsWf_writeCell _ _ _ _ h

/-- Bytes written keep memory canonical. -/
theorem State.pokeBytes_wf (s : State) (a : Nat) (b : Bytes) (h : s.mem.wf = true) : (s.pokeBytes a b).mem.wf = true := by
  induction b generalizing s a with
  | nil => exact h
  | cons c b ih => exact ih _ _ (State.pokeByte_wf s a c h)

@[simp] theorem State.touchWindow_cells (s : State) (a : Nat) : (s.touchWindow a).mem.cells = s.mem.cells := by
  unfold State.touchWindow
  split
  · dsimp only
    split <;> rfl
  · rfl

/-- A write by a processor, a producer or DMA keeps memory canonical. -/
theorem State.memWrite_wf (s : State) (a : Nat) (b : Bytes) (h : s.mem.wf = true) : (s.memWrite a b).mem.wf = true := by
  unfold State.memWrite
  refine State.pokeBytes_wf _ _ _ ?_
  split
  · exact h
  · simpa [Mems.wf] using h

/-- An instance that loses its content leaves memory canonical. -/
theorem State.loseInst_wf (s : State) (n : Nat) (h : s.mem.wf = true) : (s.loseInst n).mem.wf = true := cellsWf_filter _ _ _ h

/-- An instance that is cleared leaves memory canonical. -/
theorem State.clearInst_wf (s : State) (n : Nat) (h : s.mem.wf = true) : (s.clearInst n).mem.wf = true := cellsWf_filter _ _ _ h

end Sys2Proof.Machine
end

