-- ==== Sys2Proof/Laws/Scull.lean ====
section
/-! SUPPORT. What the shared operation behind every scull instruction does: when the instruction issues, and what it leaves when it
only writes registers. -/

namespace Sys2Proof.Machine

/-- The parts of `State.plainAt`. -/
theorem plainAt_iff (s : State) (c : Nat) : s.plainAt c = true ↔
    s.scullRuns c = true ∧ (s.scull c).accepts = false ∧ s.fetchTrap c (s.scull c).pc = none ∧ (s.inst (3 * c)).power = 2
    ∧ (s.scull c).branch = none ∧ (s.scull c).rpt = none ∧ (s.scull c).lk = 0 ∧ (s.scull c).flights = []
    ∧ (s.scull c).stores = [] ∧ (s.scull c).agOld = [] := by
  simp [State.plainAt, and_assoc]

/-- An instruction in place that breaks no check and makes no access is carried out. -/
theorem issue_plain (s : State) (c : Nat) (k : Stand) (usesC : Bool) (e : Scull → Eff) (h : s.plainAt c = true)
    (ht : s.effTrap c (e (s.scull c)) = none) : s.issue c k false usesC e = .next (s.perform c (e (s.scull c))) := by
  obtain ⟨h1, h2, h3, _, h5, h6, h7, _⟩ := (plainAt_iff s c).1 h
  have hm : (s.scull c).misplaced k usesC = false := by cases k <;> simp [Scull.misplaced, h5, h6, h7, Scull.inLoop]
  simp [State.issue, h1, h2, h3, hm, ht]

/-- Outside slots, repeats and loops the next word follows. -/
theorem sequence_next (z : Scull) (h5 : z.branch = none) (h6 : z.rpt = none) (h7 : z.lk = 0) :
    z.sequence .next = { z with pc := z.pc + 4 } := by
  simp [Scull.sequence, Scull.advance, h5, h6, Scull.past, h7]

/-- An instruction that only writes registers of its scull changes that scull alone. -/
theorem perform_put (s : State) (c : Nat) (h : s.plainAt c = true) (p : Scull → Scull)
    (hp : ∀ y, (p y).rpt = y.rpt ∧ (p y).branch = y.branch ∧ (p y).lk = y.lk ∧ (p y).pc = y.pc) :
    s.perform c { put := p } = s.setScull c ((s.scull c).ran 1 p) := by
  obtain ⟨_, _, _, h4, h5, h6, h7, h8, h9, h10⟩ := (plainAt_iff s c).1 h
  have hw : s.wakeFor c (3 * c) = s := by simp [State.wakeFor, h4]
  simp only [State.perform, State.touched, hw, State.each_cons, State.each_nil, List.flatMap_nil, List.filterMap_nil, State.collide,
    List.foldl_nil, State.onScull]
  generalize s.scull c = x at *
  obtain ⟨⟩ := x
  simp only at h5 h6 h7 h8 h9 h10
  subst h5 h6 h7 h8 h9 h10
  simp only [List.filter_nil, List.map_nil, List.any_nil, State.each_nil, State.setScull_setScull, State.scull_setScull, Scull.tick]
  rw [sequence_next]
  · simp [Scull.ran, Scull.tick, hp]
  all_goals simp [hp]

/-- The outcome of an instruction that only writes registers. -/
theorem issue_put (s : State) (c : Nat) (k : Stand) (usesC : Bool) (e : Scull → Scull → Scull) (h : s.plainAt c = true)
    (hp : ∀ x y, (e x y).rpt = y.rpt ∧ (e x y).branch = y.branch ∧ (e x y).lk = y.lk ∧ (e x y).pc = y.pc) :
    s.issue c k false usesC (fun x => { put := e x }) = s.ranOn c 1 (e (s.scull c)) := by
  rw [issue_plain _ _ _ _ _ h (by simp [State.effTrap])]
  simp only [State.ranOn]
  rw [perform_put s c h _ (hp _)]

end Sys2Proof.Machine
end

