-- ==== Sys2Proof/Tests/Slice0.lean ====
section
/-! SUPPORT. Tests: words of the spec and what they decode to, ill-formed terms, single steps, and for every obligation with hypotheses
concrete states and operands that meet them (`meets_<Name>`). -/

namespace Sys2Proof.Tests

open Sys2Proof Sys2Proof.Machine

set_option Elab.async false

/-! ### Words of the spec and the instructions they stand for -/

/-- The words of the spec's first worked sequence (15_scull_isa.md). -/
theorem test_words_filter :
    scullInstr 3 0x56A00002 = some (.ld 3 { w := 1, sx := true, ptr := 2, am := 2, reg := 0, imm := 2, rsv := false })
    ∧ scullInstr 3 0x43000000 = some (.clra 3 { an := 0, am := 0, dx := 0, k := 0, rsv := false })
    ∧ scullInstr 3 0x64100000 = some (.st 3 { w := 1, sx := false, ptr := 0, am := 1, reg := 0, imm := 0, rsv := false })
    ∧ scullInstr 3 0x04000030 = some (.rpt 3 (.imm 48) false)
    ∧ scullInstr 3 0x24884000 = some (.mac 3 { acc1 := 0, s1 := true, r1 := 0, s2 := 2, r2 := 0, pm1 := true, pm2 := false, dual := none, rsv := false })
    ∧ scullInstr 3 0x70F38002 = some (.sacc 3 { acc := 0, w32 := false, sh := 15, toD := false, ptr := 3, am := 2, imm := 2, rsv := false }) := by
  decide +kernel

/-- The words of the spec's second worked sequence (15_scull_isa.md), and RET (R373). -/
theorem test_words_division :
    scullInstr 9 0x5D052000 = some (.ld 9 { w := 3, sx := false, ptr := 4, am := 0, reg := 0x29, imm := 0, rsv := false })
    ∧ scullInstr 9 0x38A20007 = some (.mov 9 { dd := 5, ds := 0, op := .imm 7, rsv := false })
    ∧ scullInstr 9 0xA5A00000 = some (.dstp 9 true 1 5 false)
    ∧ scullInstr 9 0xA1A00000 = some (.dstp 9 false 1 5 false)
    ∧ scullInstr 9 0xA9B80000 = some (.dend 9 1 5 6 false)
    ∧ scullInstr 9 0x10400044 = some (.ret 9) := by
  decide +kernel

/-- One word of each remaining class, written out from its field table (R370, R372, R378, R379, R383, R384). -/
theorem test_words_other_classes :
    scullInstr 0 0b00000110000000110000000000000101 = some (.loop 0 (.imm 5) 3 false)
    ∧ scullInstr 0 0b00010001100000000000000000000100 = some (.call 0 1 (.rel 4) false)
    ∧ scullInstr 0 0b00010010010000000000000000001010 = some (.br 0 2 10 false)
    ∧ scullInstr 0 0b01001000110110000001100000000000 = some (.asla 0 { an := 3, am := 1, dx := 4, k := 3, rsv := false })
    ∧ scullInstr 0 0b10000000010010100000000000000000 = some (.movr 0 2 0x28 false)
    ∧ scullInstr 0 0b10010110110000001111111111111110 = some (.addi 0 { kind := 1, n := 5, imm := 0xFFFE, rsv := false })
    ∧ scullInstr 0 0b10110011000100110000000000000000 = some (.cmov 0 { cond := 3, dst := 4, src := 6, rsv := false }) := by
  decide +kernel

/-- A set reserved field is kept in the instruction, and classes 12 to 15 are none (R362, R363). -/
theorem test_words_reserved :
    scullInstr 0 0x00000001 = some (.nop 0 true) ∧ scullInstr 0 0xC0000000 = none ∧ scullInstr 0 0x0A000000 = none
    ∧ scullInstr 0 0x2C000000 = none ∧ scullInstr 0 0x3F000000 = none := by
  decide +kernel

/-! ### Ill-formed terms -/

/-- A header that announces so many payload bytes. -/
def hd (n : Nat) : Hdr := { src := .spi, tag := 5, version := 1, rsv := 0, flags := 0, status := 0, len := n, crc := 77 }
/-- The same, from a UDP source. -/
def hu (n : Nat) : Hdr := { hd n with src := .udp 0x0A000001 600 }
/-- A peak. -/
def pk : Peak := { j := 5, rho := 200, level := -300, offset := 100, frac := 3 }
/-- A transmit request. -/
def rq : TxReq :=
  { band := 0, timing := 1, profile := 1, reserved := 0, start := 96100000, latest := 0, frequency := 870000000, power := 10, length := 16
    frame := [15, 0x44, 1, 2, 3, 4, 5, 6, 7, 8, 0x7A, 1, 0, 0, 0, 9] }
/-- A block of an RDS group: 16 bits of information and the check bits with offset word `k` (R272). -/
def rdsBlk (info k : Nat) : List Bool :=
  let v := info * 1024 + (rdsRemainder ((List.range 26).map fun i => (info * 1024).testBit (25 - i)) ^^^ rdsOffset k)
  (List.range 26).map fun i => v.testBit (25 - i)
/-- Signs of the biphase symbols that key a list of bits differentially, from a first symbol (R271). -/
def keyUp : Bool → List Bool → List Bool
  | b, [] => [b]
  | b, x :: l => b :: keyUp (b != x) l
/-- A group as keyed: clock time. -/
def ctGroup : RdsIn :=
  { keyed := keyUp false (rdsBlk 0x4321 0 ++ rdsBlk 0x4001 1 ++ rdsBlk 0xBEEF 2 ++ rdsBlk 0x1234 4), at_ := 95000000, rssi := 0 }
/-- A catch with nothing sampled. -/
def ci : CatchIn :=
  { peaks := [], aonEdges := 10, extraLoad := [], bins := [], streams := [], dieTemp := 99, oscCount := 0, fsEdges := [], vhf := [], lfmf := [] }
/-- A sample of a bin. -/
def bs : BinSample := { ai := 3, aq := 0, bi := 5, bq := 0 }
/-- A condition field. -/
def cf : CondF := { cond := 0, dst := 3, src := 1, rsv := false }
/-- A load field. -/
def mf : MemF := { w := 1, sx := false, ptr := 2, am := 0, reg := 1, imm := 0, rsv := false }

/-- A command that carries more payload bytes than its message announces is no message (R37). -/
theorem test_wf_refuses_payloads :
    Instr.wf (.ping (hd 1) [1, 2]) = false ∧ Instr.wf (.ping (hd 4097) []) = false ∧ Instr.wf (.cfgWrite (hd 8) 1 0 0 1 0 [1]) = false
    ∧ Instr.wf (.txSubmit (hd 39) rq) = false ∧ Instr.wf (.ruleCardBurn (hd 0) [1]) = false
    ∧ Instr.wf (.dirAdd (hd 0) 1 2 3 4 5 1 [1]) = false ∧ Instr.wf (.keyLoad (hd 0) 1 [1]) = false ∧ Instr.wf (.bcAf (hd 0) 1 1 5 [7]) = false
    ∧ Instr.wf (.crewLoadChunk (hd 8) 6 0 0 1 [1]) = false ∧ Instr.wf (.fwUpdateChunk (hd 8) 0 0 0 1 [1]) = false
    ∧ Instr.wf (.crewLoadChunk (hd 9) 6 1 0 1 [1]) = false ∧ Instr.wf (.fwUpdateChunk (hd 9) 0 1 0 1 [1]) = false
    ∧ Instr.wf (.fieldResponse (hd 0) [1]) = false ∧ Instr.wf (.diagPoke (hd 8) 5 1 0 [1]) = false ∧ Instr.wf (.txSubmit (hd 40) rq) = true := by
  decide +kernel

/-- Units, peaks, block states and fields that do not exist. -/
theorem test_wf_refuses_units :
    Instr.wf (.registerWrite (.dma 0 0x14) 1) = false ∧ Instr.wf (.registerWrite (.bump 9 0) 1) = false
    ∧ Instr.wf (.strokeCatch { ci with peaks := [(6, 0)] }) = false ∧ Instr.wf (.strokeCatch { ci with extraLoad := [{ scull := 3, cls := 0, cycles := 1, unit := 30 }] }) = false
    ∧ Instr.wf (.strokeCatch { ci with bins := [{ pair := 1, bin := 16, samples := [] }] }) = false
    ∧ Instr.wf (.strokeCatch { ci with vhf := List.replicate 1201 { i := 0, q := 0 } }) = false
    ∧ Instr.wf (.preambleHit 3 (List.replicate 301 bs)) = false ∧ Instr.wf (.rdsGroup { ctGroup with keyed := [true] }) = false
    ∧ Instr.wf (.rdsSyncFound [true]) = false ∧ Instr.wf (.cmova 0 { cf with dst := 4 }) = false
    ∧ Instr.wf (.cadda 0 { cf with src := 4 }) = false ∧ Instr.wf (.csuba 0 { cf with dst := 7 }) = false
    ∧ Instr.wf (.ld 0 { mf with rsv := true }) = false ∧ Instr.wf (.st 0 { mf with rsv := true }) = false ∧ Instr.wf (.strokeCatch ci) = true := by
  decide +kernel

/-! ### States and operands that meet the hypotheses: sculls -/

/-- A running scull: data and accumulators at their bounds, pointers into X memory. -/
def sc : Scull :=
  { halted := false, run := true, pc := 0x100, d := [0x8000, 0xFFFF, 1, 0x7FFF, 0, 31, 16, 2], a := [0x8000000000, 0x7FFFFFFFFF, 0xFFFFFFFFFF, 5]
    q2 := 0xFFFFFFFFFF, p := [0x10000, 0x10002, 0x10010, 0x10020, 0x10040, 0x10080, 0x10100, 0x40], ws := [2, 2, 2, 2, 2, 2, 2, 2], lr := 0x200
    ipc := 0x300, iss := 0x8005, vb := 0x400, sr := 0x000F, srPrev := 0x0001 }
/-- The machine with scull 3 in that state, changed by `f`. -/
def sst (f : Scull → Scull) : State := State.reset.setScull 3 (f sc)
/-- A two-operand instruction. -/
def af : AluF := { dd := 1, ds := 0, op := .reg 2, rsv := false }
/-- An accumulator instruction. -/
def acf : AccF := { an := 2, am := 0, dx := 0, k := 0, rsv := false }
/-- A single MAC instruction on X and a register, and a dual one with the coefficient. -/
def m1 : MacF := { acc1 := 0, s1 := true, r1 := 0, s2 := 0, r2 := 3, pm1 := true, pm2 := false, dual := none, rsv := false }
def m2 : MacF :=
  { acc1 := 0, s1 := false, r1 := 0, s2 := 2, r2 := 0, pm1 := false, pm2 := false
    dual := some { op2 := 2, acc2 := 1, r3 := 1, s4 := true, r4 := 2 }, rsv := false }
/-- An accumulator store to a register and to memory. -/
def sf : SaccF := { acc := 2, w32 := false, sh := 1, toD := true, ptr := 3, am := 0, imm := 0, rsv := false }
def sfm : SaccF := { sf with w32 := true, toD := false, am := 2, imm := 4 }

theorem meets_AluResults :
    (sst id).plainAt (3 : Fin 64) = true ∧ af.rsv = false ∧ af.ds = 0 ∧ { af with dd := 0 }.dd = 0 ∧ { af with dd := 0 }.rsv = false := by
  decide +kernel
theorem meets_ShiftResults : (sst id).plainAt (3 : Fin 64) = true ∧ { af with op := .imm 31 }.rsv = false := by decide +kernel
theorem meets_AccumulatorResults :
    (sst id).plainAt (3 : Fin 64) = true ∧ acf.rsv = false ∧ (acf.dx = 0 ∧ acf.k = 0) ∧ acf.am = 0 ∧ 2 ≤ acf.an.toNat
    ∧ { acf with k := 39 }.k.toNat ≤ 39 := by
  decide +kernel
theorem meets_MacResults_single :
    (sst id).plainAt (3 : Fin 64) = true ∧ (∀ n, ((sst id).inst n).power = 2) ∧ macBad m1 = false
    ∧ ∀ op, (sst id).effTrap (3 : Fin 64) ((sst id).macEff (3 : Fin 64) op m1 ((sst id).scull (3 : Fin 64))) = none := by
  refine ⟨by decide +kernel, fun n => rfl, by decide +kernel, fun op => ?_⟩
  cases op <;> decide +kernel
theorem meets_MacResults_dual :
    (sst id).plainAt (3 : Fin 64) = true ∧ (∀ n, ((sst id).inst n).power = 2) ∧ macBad m2 = false
    ∧ ∀ op, (sst id).effTrap (3 : Fin 64) ((sst id).macEff (3 : Fin 64) op m2 ((sst id).scull (3 : Fin 64))) = none := by
  refine ⟨by decide +kernel, fun n => rfl, by decide +kernel, fun op => ?_⟩
  cases op <;> decide +kernel
theorem meets_DivisionResults : (sst fun x => { x with sr := 0x80 }).plainAt (3 : Fin 64) = true := by decide +kernel
theorem meets_ConditionalResults :
    (sst id).plainAt (3 : Fin 64) = true ∧ cf.rsv = false ∧ cf.accWf = true ∧ { cf with dst := 7 }.rsv = false := by decide +kernel
theorem meets_SaccResults :
    (sst id).plainAt (3 : Fin 64) = true ∧ saccBad sf = false ∧ sf.toD = true ∧ saccBad sfm = false ∧ sfm.toD = false := by
  decide +kernel
theorem meets_SaccResults_data :
    let x := (sst id).scull (3 : Fin 64)
    (sst id).dataOk (3 : Fin 64) [{ addr := (x.memAddr sfm.ptr sfm.am sfm.imm).1, n := 4, write := true }] :=
  ⟨fun n => rfl, by decide +kernel⟩
theorem meets_PointerAndMoveResults :
    let x := (sst id).scull (3 : Fin 64)
    let f : PtrF := { kind := 0, n := 7, imm := 0xFFFE, rsv := false }
    (sst id).plainAt (3 : Fin 64) = true ∧ f.rsv = false ∧ f.kind = 0 ∧ x.wl.getD f.n.toNat 0 = 0 ∧ regCode (0x47#7).toNat = true
    ∧ regCode (0x40#7).toNat = true ∧ regCode (0x7#7).toNat = true ∧ 8 ≤ (0x8#7).toNat := by
  decide +kernel
theorem meets_LoadResults :
    let a := (((sst id).scull (3 : Fin 64)).memAddr mf.ptr mf.am mf.imm).1
    (sst id).plainAt (3 : Fin 64) = true ∧ memBad mf = false ∧ isDma a = false ∧ mf.reg.toNat < 8
    ∧ ((sst id).scull (3 : Fin 64)).pc.toNat + 4 < 0x8000 ∧ a % 2 = 0 := by
  decide +kernel
theorem meets_LoadResults_data :
    let a := (((sst id).scull (3 : Fin 64)).memAddr mf.ptr mf.am mf.imm).1
    (sst id).dataOk (3 : Fin 64) [{ addr := a, n := 2 ^ mf.w.toNat, write := false }] :=
  ⟨fun n => rfl, by decide +kernel⟩
theorem meets_LoadResults_accepts :
    ∃ t, exec (.ld 3 mf) (sst id) = .next t ∧ (t.scull (3 : Fin 64)).accepts = false := ⟨_, rfl, by decide +kernel⟩
theorem meets_StoreResults :
    let x := (sst id).scull (3 : Fin 64)
    (sst id).plainAt (3 : Fin 64) = true ∧ memBad mf = false ∧ mf.sx = false ∧ isDma (x.memAddr mf.ptr mf.am mf.imm).1 = false
    ∧ x.pc.toNat + 8 < 0x8000 ∧ x.causes = 0 ∧ (sst id).mem.wf = true := by
  decide +kernel
theorem meets_StoreResults_data :
    let a := (((sst id).scull (3 : Fin 64)).memAddr mf.ptr mf.am mf.imm).1
    (sst id).dataOk (3 : Fin 64) [{ addr := a, n := 2 ^ mf.w.toNat, write := true }] :=
  ⟨fun n => rfl, by decide +kernel⟩
theorem meets_BranchResults :
    let s := sst fun x => { x with pc := 0x7FF4 }
    s.plainAt (3 : Fin 64) = true ∧ (s.scull (3 : Fin 64)).pc.toNat + 8 < 0x8000 := by decide +kernel
theorem meets_ControlResults : (sst fun x => { x with ipr := 2 }).plainAt (3 : Fin 64) = true := by decide +kernel
theorem meets_IllegalInstructionsTrap :
    (sst id).plainAt (3 : Fin 64) = true ∧ (sst fun x => { x with fsr := 0x8002 }).plainAt (3 : Fin 64) = true
    ∧ { af with rsv := true }.rsv = true ∧ { m1 with s2 := 3 }.s2 = 3 ∧ 40 ≤ { acf with k := 40 }.k.toNat
    ∧ { mf with reg := 0x3A }.reg = 0x3A#7 ∧ { sf with w32 := true }.w32 = true ∧ sf.toD = true := by
  decide +kernel
theorem meets_InterruptEntries :
    let f (x : Scull) : Scull := { x with ipr := 0x06, imr := 0x3E, ieSeen := true }
    let s := sst f
    let u := sst fun x => { f x with idle := true, sr := 0x8000 }
    let v := sst fun x => { f x with idle := true }
    let x := s.scull (3 : Fin 64)
    let w := x.ipr &&& x.imr
    (w.getLsbD 2 = true ∧ w.getLsbD 3 = false ∧ w.getLsbD 4 = false ∧ w.getLsbD 5 = false) ∧ x.flights = [] ∧ x.stores = [] ∧ x.agOld = []
    ∧ s.scullRuns (3 : Fin 64) = true ∧ x.ieSeen = true ∧ x.branch = none ∧ x.rpt = none
    ∧ ((u.scull (3 : Fin 64)).idle = true ∧ (u.scull (3 : Fin 64)).sr.getLsbD 15 = true)
    ∧ (v.scull (3 : Fin 64)).idle = true ∧ (v.scull (3 : Fin 64)).sr.getLsbD 15 = false := by
  decide +kernel
theorem meets_DmaChannel :
    let d : Desc := { src := 0, dst := 0x10000000, len := 4 }
    let s (n : Nat) := sst fun x => { x with dmaQ := List.replicate n d, dmaLen := 9 }
    (((s 3).scull (3 : Fin 64)).dmaQ.length < 4 ∧ ((s 3).scull (3 : Fin 64)).dmaLen ≠ 0 ∧ ∀ d ∈ ((s 3).scull (3 : Fin 64)).dmaQ, d.len ≠ 0)
    ∧ 4 ≤ ((s 4).scull (3 : Fin 64)).dmaQ.length ∧ ((s 4).scull (3 : Fin 64)).dmaQ.length ≤ 4
    ∧ (((s 2).scull (3 : Fin 64)).dmaQ = d :: [d] ∧ d.len ≠ 0 ∧ (s 2).dmaMay (3 : Fin 64) d.src.toNat false = false ∧ ∀ r ∈ [d], r.len ≠ 0)
    ∧ ((s 2).scull (3 : Fin 64)).doneCnt ≠ 0xFFFF#16 ∧ ((s 2).scull (3 : Fin 64)).starved = false ∧ (s 2).links.events.length < 256 := by
  decide +kernel
/-- A copy from one memory to another, of four bytes that the channel may read and write. -/
theorem meets_DmaChannel_copy :
    let d : Desc := { src := 0x10000000, dst := 0x10000100, len := 4 }
    let s := sst fun x => { x with dmaQ := [d] }
    (s.scull (3 : Fin 64)).dmaQ = d :: [] ∧ d.len ≠ 0 ∧ s.mem.wf = true ∧ s.mem.refresh = false ∧ (∀ n, (s.inst n).power = 2)
    ∧ (∀ i, i < d.len → s.place (d.src.toNat + i) = .inst 192 ∧ s.place (d.dst.toNat + i) = .inst 192
      ∧ s.dmaMay (3 : Fin 64) (d.src.toNat + i) false = true ∧ s.dmaMay (3 : Fin 64) (d.dst.toNat + i) true = true)
    ∧ d.src.toNat + d.len ≤ d.dst.toNat :=
  ⟨rfl, by decide, by decide, rfl, fun _ => rfl, by decide +kernel, by decide⟩
theorem meets_RegisterWrites : (0x80#32).getLsbD 7 = true ∧ (State.reset.chain (4 : Fin 5)).w.genAt ≠ some State.reset.dtime := by decide +kernel
/-- A word of an instruction, the same word read back, and a word that is none (R362, R370). -/
theorem meets_ScullWordRoundTrip :
    issuer (.add 3 af) = some 3 ∧ rsvClear (.add 3 af) = true ∧ scullWord (.add 3 af) = some 0x30208000
    ∧ scullInstr 3 0x30208000 = some (.add 3 af) ∧ (Instr.add 3 af) ≠ .br 3 0 0x44 false := by
  decide +kernel

/-! ### Single steps of a scull -/

/-- 0x8000 + 1 sets N and no other flag; 0x8000 + 0x8000 wraps to 0 with C and V (R376). -/
theorem test_add :
    (match exec (.add 3 af) (sst id) with
      | .next t => ((t.scull 3).d.getD 1 0, (t.scull 3).sr &&& 0xF, (t.scull 3).pc) | _ => default) = (0x8001#16, 0x2#16, 0x104#32)
    ∧ (match exec (.add 3 { af with op := .reg 0 }) (sst id) with
      | .next t => ((t.scull 3).d.getD 1 0, (t.scull 3).sr &&& 0xF) | _ => default) = (0#16, 0xD#16) := by
  decide +kernel
/-- A count of 16 shifts everything out, bit 0 last (R377). -/
theorem test_shl_16 :
    (match exec (.shl 3 { af with ds := 1, op := .imm 16 }) (sst id) with
      | .next t => ((t.scull 3).d.getD 1 0, (t.scull 3).sr &&& 0xF) | _ => default) = (0#16, 0x5#16) := by
  decide +kernel
/-- A call leaves the address after its delay slots in LR (R372). -/
theorem test_call_link :
    (match exec (.call 3 0 (.rel 4) false) (sst id) with | .next t => (t.scull 3).lr | _ => 0) = 0x10C#32 := by
  decide +kernel

/-! ### States and operands that meet the hypotheses: host commands -/

/-- The machine in service over SPI at stroke 10,000. -/
def w : State :=
  { State.reset with
    links := { State.reset.links with ready := true }
    cfg := { State.reset.cfg with active := writeCells cfgReset State.reset.cfg.active (cfgKey 10 0) [0x40] }
    dtime := 96000123, stroke := 10000 }
/-- A configuration set whose agreement checks pass, with the SPI and the UDP port on. -/
def goodSet : List Host.Cell :=
  writeCells cfgReset (writeCells cfgReset (writeCells cfgReset [] (cfgKey 1 4) (le 4 868800000)) (cfgKey 1 36) (le 4 868800000)) (cfgKey 7 1) [1]
def good (s : State) : State :=
  { s with cfg := { s.cfg with shadow := goodSet, active := writeCells cfgReset goodSet (cfgKey 10 0) [0x40, 1, 0x98, 0xB7, 1, 2, 3, 4] } }
/-- An outstanding command on tag 9. -/
def e0 : TagEntry := { tag := 9, opcode := 0x80, crc := 3, src := .spi, received := 0, long := true, stepAt := 0, done := 3, total := 7 }
/-- The machine in service with that command outstanding. -/
def w9 : State := { w with links := { w.links with tags := [e0] } }

theorem meets_StrokeInterface_after :
    let after (a b : U32) : Prop := 1 ≤ (b - a).toNat ∧ (b - a).toNat < 2 ^ 31
    (after 90 100 ∧ ¬ after (101 - 1) 100) ∧ (¬ after 100 100) ∧ (after 0xFFFFFFFF 0 ∧ ¬ after (1 - 1) 0) := by
  decide +kernel
theorem meets_IdleTick :
    (let s := { w with clk := { w.clk with stopped := true } }; s.pending = [] ∧ (s.boot.held = true ∨ s.clk.stopped = true))
    ∧ (w.pending = [] ∧ w.boot.held = false ∧ w.clk.stopped = false ∧ w.dtime + 1 < 9600 * (w.stroke + 1))
    ∧ { w with dtime := 96009598 }.dtime + 1 < 9600 * (w.stroke + 1) := by
  decide +kernel
theorem meets_StatusCommands :
    ((w.takes (hd 3) 0x0001 = true ∧ (hd 3).len = [1, 2, 3].length) ∧ (hd 3).len ≤ 4096)
    ∧ ((good w).takes (hu 1452) 0x0001 = true ∧ (hu 1452).len = (List.replicate 1452 (0 : U8)).length ∧ (hu 1452).len ≤ 1452)
    ∧ (w.takes (hd 0) 0x0002 = true ∧ (hd 0).len = 0)
    ∧ (w.takes (hd 4) 0x0003 = true ∧ (hd 4).len = 4 ∧ (1#32).toNat ≤ 1 ∧ w.cnt.crewMissed.length = 8)
    ∧ (w9.takes (hd 4) 0x00C0 = true ∧ (9#16) ≠ 0 ∧ w9.outstanding 9 = some e0 ∧ e0.long = true ∧ e0.done < e0.total)
    ∧ { e0 with long := false }.long = false ∧ w9.outstanding 8 = none := by
  decide +kernel
theorem meets_CommandRefusals :
    (w.takes (hd 4) 0x0001 = true ∧ (hd 4).len ≠ [1].length) ∧ (w.takes (hd 4) 0x0002 = true ∧ (hd 4).len ≠ 0)
    ∧ (w.takes (hd 1) 0x0013 = true ∧ (hd 1).len = 1 ∧ 1 < (2#8).toNat)
    ∧ (let s := { w with cfg := { w.cfg with castle := .checking 7 0 5 } }
       s.takes (hd 8) 0x0012 = true ∧ (hd 8).len = 8 ∧ s.cfg.castle.isIdle = false)
    ∧ (w.takes (hd 0) 0x0001 = true ∧ (hd 0).len = 0 ∧ (List.replicate 64 e0).length = 64 ∧ ∀ e ∈ List.replicate 64 e0, e.tag ≠ (hd 0).tag)
    ∧ (hd 3).tag = (hd 0).tag ∧ (hd 3).src = (hd 0).src := by
  decide +kernel
theorem meets_ConfigurationAccess :
    (let h := hd 10
     w.takes h 0x0010 = true ∧ h.len = 8 + [0x10, 0x20].length ∧ (2#16).toNat = [0x10, 0x20].length ∧ sectionSize (0#8).toNat = 0
     ∧ sectionSize (10#8).toNat ≠ 0 ∧ (30#16).toNat + 2 ≤ sectionSize 10 ∧ reservedClear 10 8 [0x10, 0x20] = true
     ∧ rangesOk (putSet w.cfg.shadow 10 8 [0x10, 0x20]) 10 8 2 = true ∧ w.castleBusy = false ∧ w.cfg.waits = []
     ∧ cellsWf cfgReset w.cfg.shadow = true ∧ { w with cfg := { w.cfg with castle := .checking 7 0 5 } }.castleBusy = true
     ∧ (let x := { w with cfg := { w.cfg with waits := [(7, 5, .check true)] } }; x.cfg.waits ≠ [] ∧ x.castleBusy = false)
     ∧ rangesOk (putSet (overlay w.cfg.active w.cfg.direct) 10 8 [0x10, 0x20]) 10 8 2 = true
     ∧ changesGrouped w.cfg.active 10 8 [0x10, 0x20] = false)
    ∧ (changesGrouped w.cfg.active 7 1 [1] = true ∧ reservedClear 7 1 [1] = true
       ∧ rangesOk (putSet (overlay w.cfg.active w.cfg.direct) 7 1 [1]) 7 1 1 = true)
    ∧ (w.takes (hd 6) 0x0011 = true ∧ (hd 6).len = 6 ∧ sectionSize (10#8).toNat ≠ 0 ∧ (sectionSize 10 - 1) + (1#16).toNat ≤ sectionSize 10
      ∧ w.setsFree = true ∧ { w with cfg := { w.cfg with castle := .checking 7 0 5 } }.setsFree = false) := by
  decide +kernel
theorem meets_CastleProgress_command :
    (w.takes (hd 8) 0x0012 = true ∧ (hd 8).len = 8 ∧ w.castleBusy = false ∧ w.cfg.waits = []
      ∧ (w.dtime / 9600 ≤ (14000#64).toNat ∧ (14000#64).toNat ≤ w.dtime / 9600 + 4000))
    ∧ (w.takes (hd 1) 0x0013 = true ∧ (hd 1).len = 1) := by
  decide +kernel
theorem meets_CastleProgress_check :
    let s := { w9 with cfg := { w9.cfg with waits := [(9, 95990000, .check false)] } }
    s.cfg.castle = .idle ∧ s.cfg.waits = [(e0.tag, 95990000, .check false)] ∧ s.outstanding e0.tag = some e0 ∧ s.reachable e0.src = true
    ∧ (s.failing (s.setNamed false)).head?.isSome = true ∧ (good s).failing ((good s).setNamed false) = [] ∧ s.clk.stopped = false := by
  decide +kernel
theorem meets_CastleProgress_end :
    (let s := { w9 with cfg := { w9.cfg with castle := .checking 9 0 5 } }
     s.cfg.castle = .checking e0.tag 0 5 ∧ s.cfg.waits = [] ∧ s.outstanding e0.tag = some e0 ∧ s.reachable e0.src = true
     ∧ (s.failing s.cfg.shadow).head?.isSome = true ∧ (good s).failing (good s).cfg.shadow = [] ∧ (good s).reachable e0.src = true
     ∧ s.clk.stopped = false ∧ s.links.events.length < 256)
    ∧ (let s := { w9 with cfg := { w9.cfg with castle := .copying (some 9) 8 true 7 } }
       s.cfg.castle = .copying (some e0.tag) 8 true 7 ∧ s.cfg.waits = [] ∧ s.outstanding e0.tag = some e0 ∧ s.reachable e0.src = true ∧ s.links.events.length < 256) := by
  decide +kernel

/-! ### Directory, delivery and host links -/

/-- A key that unwraps under the wrapping key of reset. -/
def wkOk : Bytes :=
  [97, 11, 191, 7, 138, 39, 251, 246, 87, 191, 234, 126, 118, 242, 186, 153, 171, 79, 80, 73, 98, 33, 5, 222]
/-- A received frame, a directory entry for its meter, and a hold place. -/
def fr : Frame :=
  { fmtB := false, profile := 1, lane := 5, branchB := false, freqOff := 0, rssi := 0, snr := 0, lqi := 0, tSync := 0, tEnd := 96000000
    bytes := [20, 0x44, 1, 2, 3, 4, 5, 6, 7, 8, 0x7A, 1, 0, 0, 0, 9, 9, 9, 9, 9, 9], flags := 0, devErr := 0, gen := 0 }
def hr := headerOf fr.bytes
def ent : DirEntry :=
  { ident := hr.addr.1, mfr := hr.addr.2.1, version := hr.addr.2.2.1, type_ := hr.addr.2.2.2, flags := 0x61, expInterval := 60, window := 9000000
    missed := 2, lastAcc := 1, lastCrc := crc32 (fr.bytes.drop 1), lastDupT := 95000000 }

/-- The machine with two entries in the directory: index 0, and the one of the frame's meter at index 3. -/
def dw : State := { w with dir := { w.dir with entries := [(0, { ent with ident := 5, flags := 0x21 }), (3, ent)] } }
def hp : HoldPlace :=
  { best := { key := hr.addr, dirIndex := none, tEnd := 95900000, lane := 5, branchB := false, profile := 1, lqi := 0, rssi := 0, snr := 0
              freqOff := 0, devErr := 0, gen := 0, flags := 0x40, access := 0, security := 0, dedup := 0, payload := [1, 2, 3] }
    ends := 96500000 }

theorem meets_DirectoryAdd :
    let s := { dw with dir := { dw.dir with rebuild := some (9, 1) } }
    ((s.takes (hd 12) 0x0040 = true ∧ (hd 12).len = 12 ∧ ([] : Bytes).length = 0) ∧ s.dir.rebuild.isSome = true)
    ∧ ((dw.takes (hd 36) 0x0040 = true ∧ (hd 36).len = 36 ∧ wkOk.length = 24) ∧ dw.dir.rebuild = none
      ∧ dw.lookup hr.addr = some 3 ∧ dw.lookup (7, 0x7244, 1, 7) = none ∧ dw.freeIndex = some 1
      ∧ (3#32).toNat < dw.capacity ∧ (dw.entry 3).has fInUse = true ∧ dw.takes (hd 10) 0x0041 = true ∧ dw.takes (hd 4) 0x0042 = true
      ∧ dw.takes (hd 28) 0x0044 = true ∧ dw.takes (hd 6) 0x0043 = true ∧ (45#16).toNat ≤ 45) := by
  decide +kernel
/-- The key clauses of DirectoryAdd and DirectoryCommands: a key that unwraps, and a state in which none does. -/
theorem meets_keys :
    (unwrapKey dw.boot.wrapKey wkOk).isSome = true
    ∧ unwrapKey { dw.boot with wrapKey := [] }.wrapKey (List.replicate 24 1) = none := by
  rw [Laws.unwrapKey_isSome]
  decide +kernel
theorem meets_DirectoryCommands :
    let s := { dw with dir := { dw.dir with rebuild := some (9, 1) } }
    ((3#32).toNat < dw.capacity ∧ dw.dir.rebuild = none ∧ (dw.entry 3).has fInUse = true)
    ∧ (dw.takes (hd 10) 0x0041 = true ∧ (hd 10).len = 10 ∧ (7#16) ≠ 0 ∧ (7#16).toNat < 8)
    ∧ (dw.takes (hd 4) 0x0042 = true ∧ (hd 4).len = 4 ∧ (dw.dir.entries.map (·.1)).Nodup)
    ∧ (dw.takes (hd 28) 0x0044 = true ∧ (hd 28).len = 28 ∧ wkOk.length = 24)
    ∧ (dw.capacity ≤ (BitVec.ofNat 32 dw.capacity).toNat ∧ (BitVec.ofNat 32 (dw.capacity - 1)).toNat < dw.capacity
      ∧ (s.takes (hd 4) 0x0042 = true ∧ s.dir.rebuild.isSome = true) ∧ (dw.entry 1).has fInUse = false)
    ∧ (dw.takes (hd 6) 0x0043 = true ∧ (hd 6).len = 6 ∧ (127#16).toNat ≤ 127) ∧ s.takes (hd 10) 0x0041 = true := by
  decide +kernel
theorem meets_DirectoryEvents_frames :
    let s := { w with rx := { w.rx with frames := [fr] } }
    let u := { dw with rx := { w.rx with frames := [fr] } }
    (s.mem.refresh = false ∧ s.rx.frames = fr :: [] ∧ s.lookup (headerOf fr.bytes).addr = none ∧ s.dir.hold.length < 4096
      ∧ ∀ p ∈ s.dir.hold, p.best.dedup ≠ crc32 (fr.bytes.drop 1))
    ∧ (u.mem.refresh = false ∧ u.rx.frames = fr :: [] ∧ u.lookup (headerOf fr.bytes).addr = some 3 ∧ (u.entry 3).has fHasLast = true
      ∧ (u.entry 3).lastAcc = BitVec.ofNat 8 (headerOf fr.bytes).access ∧ (u.entry 3).lastCrc = crc32 (fr.bytes.drop 1)
      ∧ (fr.tEnd : Int) - (u.entry 3).lastDupT ≤ 4608000000 ∧ ((u.entry 3).lastDupT : Int) - fr.tEnd ≤ 4608000000) := by
  decide +kernel
theorem meets_DirectoryEvents_times :
    (let s := { dw with dir := { dw.dir with hold := [hp, hp] } }
     s.dir.hold = hp :: [hp] ∧ s.links.endpoint = none ∧ s.dlv.queue.length < 1048576 ∧ s.clk.stopped = false)
    ∧ ((dw.entry 3).has fInUse = true ∧ (dw.entry 3).has fPredicting = true ∧ dw.judgedNext 3 = true ∧ (dw.entry 3).interval ≠ 0 ∧ (dw.entry 3).missed < 7)
    ∧ (let s := { dw with dir := { dw.dir with quarantine := [(3, 96005000)] } }; s.dir.quarantine = [(3, 96005000)])
    ∧ (let s := { w9 with dir := { dw.dir with rebuild := some (9, 1) } }
       s.dir.rebuild = some (e0.tag, 1) ∧ s.outstanding e0.tag = some e0 ∧ s.reachable e0.src = true) := by
  decide +kernel

/-- A batch with two records, and records of which two were sent. -/
def bt : Batch := { dst := .spi, recs := [⟨5, [1, 2, 3], true⟩, ⟨6, [1, 2, 3, 4], true⟩], opened := 96000100 }
def sent3 : List Rec := [⟨4, [1], true⟩, ⟨5, [2, 3], true⟩, ⟨6, [4], false⟩]
/-- A reply that waits, and a batch in the mailbox. -/
def om (d : Src) : OutMsg := { kind := .reply, opcode := 5, tag := 3, flags := 0x2000, status := 0, payload := [1, 2, 3], dst := d, recs := [] }
def fm : FifoMsg := { left := [1, 2, 3, 4, 5], recs := [5], ctl := false }
/-- A whole message with an unknown opcode. -/
def unknown : Bytes :=
  let b : Bytes := [0x4C, 0x4D, 1, 0, 0x99, 0x99, 7, 0, 0, 0, 2, 0, 0, 0, 0, 0, 1, 2]
  b ++ le 4 (crc32 b).toNat
/-- The machine with its UDP port and its Ethernet link up. -/
def net : State := let s := good w; { s with links := { s.links with ethUp := true, refclk := true } }

theorem meets_DeliveryStream :
    (w.takes (hd 12) 0x0050 = true ∧ (hd 12).len = 12 ∧ w.dlv.credit + (16777215#32).toNat ≤ 16777215
      ∧ 16777215 < w.dlv.credit + (16777216#32).toNat ∧ w.dlv.queue = [])
    ∧ (let s := { net with dlv := { net.dlv with queue := sent3, highSent := some 5 } }
       s.takes (hu 12) 0x0050 = true ∧ (hu 12).src ≠ .spi ∧ s.dlv.highSent = some 5 ∧ (s.dlv.queue.map (·.seq)).Nodup
       ∧ ⟨5, [2, 3], true⟩ ∈ s.dlv.queue ∧ ((5#32) - 5#32).toNat < 2 ^ 31)
    ∧ (let s := { w with dlv := { w.dlv with batch := some bt } }; s.dlv.batch = some bt)
    ∧ (let s := { net with dlv := { net.dlv with queue := sent3, ackAt := some 95999000 }, links := { net.links with endpoint := some (.udp 5 6) } }
       s.links.endpoint = some (.udp 5 6) ∧ s.dlv.ackAt = some 95999000 ∧ s.udpOn = true ∧ s.links.ready = true ∧ s.dlv.credit = 0
       ∧ ∃ r ∈ s.dlv.queue, r.sent = true) := by
  decide +kernel
theorem meets_OutboundMessages :
    let s (d : Src) (l : List FifoMsg) : State := { net with links := { net.links with waiting := [om d], outFifo := l } }
    let fill (t : State) : Nat := (t.links.outFifo.map fun x => x.left.length).sum
    ((om .spi).kind = .reply ∧ (s .spi []).links.waiting = om .spi :: [] ∧ (s .spi []).links.ready = true ∧ (s .spi []).spiOn = true)
    ∧ 16384 < fill (s .spi [{ fm with left := List.replicate 16362 1 }]) + (om .spi).payload.length + 20
    ∧ fill (s .spi [{ fm with left := List.replicate 16361 1 }]) + (om .spi).payload.length + 20 ≤ 16384
    ∧ ((om (.udp 5 6)).kind = .reply ∧ (s (.udp 5 6) []).udpOn = true ∧ (om (.udp 5 6)).dst = .udp 5 6)
    ∧ ((s .spi [fm]).spiOn = true ∧ (s .spi [fm]).links.outFifo = fm :: [] ∧ 4 < fm.left.length ∧ fm.recs ≠ []) := by
  decide +kernel
theorem meets_MailboxInput :
    (w.links.ready = true ∧ w.spiOn = true ∧ w.links.inDrop = false ∧ w.links.inFifo = [] ∧ (List.replicate 15 (7 : U8)).length < 16
      ∧ w.links.partialAt = none)
    ∧ (16 ≤ (List.replicate 16 (7 : U8)).length ∧ (List.replicate 8192 (7 : U8)).length ≤ 8192 ∧ (List.replicate 16 (7 : U8)).getD 0 0 ≠ 0x4C)
    ∧ 8192 < w.links.inFifo.length + (List.replicate 8193 (7 : U8)).length
    ∧ (State.reset.links.ready = false ∧ ([1] : Bytes) ≠ [])
    ∧ (let s := { w with links := { w.links with partialAt := some 95999000, inFifo := [1, 2, 3] } }
       s.links.partialAt = some 95999000 ∧ s.links.inFifo.length < 16 ∧ s.links.events.length < 256)
    ∧ (w.links.ready = true ∧ w.reachable .spi = true ∧ net.links.ready = true ∧ net.reachable (.udp 5 6) = true) := by
  decide +kernel
theorem meets_CommandTimeouts :
    (let s := { w with links := { w.links with tags := [{ e0 with long := false, opcode := 0x20 }] } }
     s.outstanding 9 = some { e0 with long := false, opcode := 0x20 } ∧ s.reachable e0.src = true ∧ (0x20 : Nat) ≠ 0x0030)
    ∧ (w9.outstanding e0.tag = some e0 ∧ w9.reachable e0.src = true ∧ e0.opcode ≠ 0x0030 ∧ e0.long = true ∧ w9.links.events.length < 255) := by
  decide +kernel
theorem meets_EthernetAndConsole :
    let d : Datagram := { srcIp := 0x04030205, srcPort := 8, dstPort := 47000, fcsOk := true, fragmented := false, payload := unknown }
    (net.netUp = true ∧ { d with fcsOk := false }.fcsOk = false)
    ∧ (d.fcsOk = true ∧ net.udpOn = true ∧ d.dstPort.toNat = net.cfgNat 10 2 2 ∧ net.pwr.st = .row ∧ net.pwr.entering = none
      ∧ { d with fragmented := true }.fragmented = true ∧ d.fragmented = false ∧ net.onSubnet d.srcIp.toNat = true ∧ net.links.ready = true
      ∧ ([1, 2] : Bytes).length < 20 ∧ headOf 1452 d.payload = .whole d.payload.length ∧ knownOpcode (fieldAt 4 2 d.payload) = false)
    ∧ (let s := { w with cfg := { w.cfg with active := writeCells cfgReset w.cfg.active (cfgKey 10 13) [31] } }
       s.cfgNat 10 13 1 ≤ 31 ∧ { s.links with refclk := false }.refclk = false)
    ∧ (net.links.refclk = true ∧ net.links.events.length < 256 ∧ 31 < net.cfgNat 10 13 1)
    ∧ (net.netUp = true ∧ net.udpOn = true
      ∧ (let rest : Bytes := [1, 2, 3, 4]; onesSum ([8, 0] ++ be 2 (65535 - onesSum ([8, 0, 0, 0] ++ rest)) ++ rest) = 0xFFFF ∧ 4 ≤ rest.length))
    ∧ true ∈ (List.replicate 160 true).take 8
    ∧ (0x0E#8) ≠ 0x0D ∧ (w.links.ready = true ∧ w.links.uartFill + 18 + w.counterLine.length ≤ 4096) := by
  decide +kernel

/-! ### Chains, synthesisers, contexts and streams -/

/-- A state word that stands at a code. -/
def word (n : Nat) : Word := { gen := 3, st := n, mgGen := 3, mgSt := n }
/-- The outstanding command of tag 9, not long. -/
def tg : TagEntry := { e0 with long := false }
/-- The machine in service with these chains, and every synthesiser LOCKED. -/
def ch (l : List (Nat × Chain)) (f : Synth → Synth) : State :=
  { good w with chains := l, synths := (List.range 6).map fun y => (y, f { w := word 2, n := 25, d := 24 }) }

theorem meets_ChainCommands :
    let free (s : State) : Prop :=
      let c := s.chain (2 : Fin 5)
      c.waits = [] ∧ c.target = none ∧ s.trim.now = none
      ∧ ∀ y ∈ List.range 6, (s.synth y).attempt = 0 ∧ s.synIs y .lost = false ∧ (s.synth y).fromLost = false
    let s := ch [(2, { w := word 1 })] id
    let v := { s with pwr := { s.pwr with policy := 1 } }
    let u := { (ch [(2, { w := word 0, waits := [(9, some .standby)], target := some .standby, toward := some .standby })] id) with links := { w9.links with tags := [tg] } }
    let x := ch [(2, { w := word 2, target := some .receive, toward := some .receive })] id
    ((s.chain (2 : Fin 5)).w.gen = (s.chain (2 : Fin 5)).w.mgGen → (s.chain (2 : Fin 5)).w.st = (s.chain (2 : Fin 5)).w.mgSt)
    ∧ s.takes (hd 2) 0x0020 = true ∧ (hd 2).len = 2 ∧ (0#8).toNat < 4 ∧ (3#8).toNat < 4 ∧ (v.takes (hd 2) 0x0020 = true ∧ v.pwr.policy = 1)
    ∧ (s.pwr.policy ≠ 1 ∧ s.txPending 2 = false ∧ free s ∧ (s.chain (2 : Fin 5)).w.st < 4)
    ∧ ((s.chain (2 : Fin 5)).w.st = (1#8).toNat ∧ (s.chain (2 : Fin 5)).w.st ≠ (3#8).toNat ∧ (s.chain (2 : Fin 5)).w.st = 1 ∧ 1 < (3#8).toNat
      ∧ (ch [(2, { w := word 1 })] fun y => { y with w := word 0 }).synIs 4 .off = true)
    ∧ (u.takes (hd 2) 0x0020 = true ∧ (u.chain (2 : Fin 5)).waits = [(tg.tag, some .standby)] ∧ (u.chain (2 : Fin 5)).target = some .standby ∧ (u.chain (2 : Fin 5)).toward = some .standby
      ∧ (u.chain (2 : Fin 5)).w.st = 0 ∧ u.pwr.rfBad = false ∧ u.outstanding tg.tag = some tg ∧ u.reachable tg.src = true)
    ∧ ((x.chain (2 : Fin 5)).toward = some .receive ∧ (x.chain (2 : Fin 5)).w.st = 2 ∧ (x.chain (2 : Fin 5)).target = some .receive
      ∧ (x.chain (2 : Fin 5)).waits = []) := by
  decide +kernel
/-- Every other synthesiser and chain stands at reset, so what the clauses ask of all of them holds. -/
theorem meets_ChainCommands_all : ∀ y,
    let s := ch [(2, { w := word 1 })] id
    (s.synth y).attempt = 0 ∧ s.synIs y .lost = false ∧ (s.synth y).fromLost = false := by
  intro y
  match y with
  | 0 | 1 | 2 | 3 | 4 | 5 => exact ⟨rfl, rfl, rfl⟩
  | _ + 6 => exact ⟨rfl, rfl, rfl⟩
theorem meets_LockSequence :
    let s (a : Nat) (p : Bool) (k : Nat) : State := ch [(0, { w := word 3 })] fun y => { y with w := word k, attempt := a, planned := p }
    ((s 0 false 2).synIs (3 : Fin 6) .locked = true) ∧ ((s 0 true 1).synth (3 : Fin 6)).planned = true
    ∧ ((s 0 false 1).synIs (0 : Fin 6) .locked = false ∧ ((s 0 false 1).synth (0 : Fin 6)).planned = false)
    ∧ ((s 1 false 1).synth (5 : Fin 6)).attempt = 1 ∧ ((s 2 false 1).synth (5 : Fin 6)).attempt = 2
    ∧ (((s 3 false 1).synth (4 : Fin 6)).attempt = 3 ∧ (s 3 false 1).links.events.length < 255)
    ∧ ((s 3 false 1).synth (1 : Fin 6)).attempt ≠ 0 ∧ ((s 0 true 1).synth (1 : Fin 6)).attempt = 0 := by
  decide +kernel
theorem meets_LockSequence_all : ∀ i, ((ch [(0, { w := word 3 })] id).chain i).waits = [] := by
  intro i
  match i with
  | 0 => rfl
  | _ + 1 => rfl
/-- A configuration set with one lane and one profile of format A. -/
def ctxSet : List Host.Cell :=
  writeCells cfgReset (writeCells cfgReset goodSet (cfgKey 2 48) [0x80, 5, 1]) (cfgKey 3 32)
    ([0x94, 1, 50, 16] ++ le 4 32768 ++ le 4 50000 ++ le 4 0x7696 ++ le 4 0 ++ [16, 0, 1, 0] ++ le 2 40 ++ [0, 0, 0, 0])
theorem meets_FrontEndEvents :
    let s := { ch [(2, { w := word 3 })] id with gains := [(2, { g := 14 })] }
    let v := { s with gains := [(2, { g := 14, fastAt := some (s.dtime - 1199) })] }
    let l := { good w with rx := { w.rx with lanes := [(3, { w := word 1, settle := 96000700 })] } }
    (s.cfgBit 1 (32 * 2 + 8) 0 = false ∧ s.chainIs 2 .receive = true ∧ (s.gain 2).fastAt = none)
    ∧ ((v.gain 2).fastAt = some (v.dtime - 1199) ∧ v.dtime < v.dtime - 1199 + 1200)
    ∧ ((l.lane 3).settle ≠ 0 ∧ l.laneIs 3 .running = true ∧ l.clk.stopped = false)
    ∧ (s.chain 2).w.st = 3 ∧ (s.clk.aonLost = false ∧ s.links.events.length < 256) := by
  decide +kernel
/-- A watch whose history peaks at this sample, and one that has seen nothing. -/
def wpk : Watch :=
  { armed := true, prev := some (1000, 1000), hist := List.replicate 605 (5, 4000000)
    rhos := List.replicate 18 0 ++ [200] ++ List.replicate 19 0 }
theorem meets_FrontEndEvents_hit :
    let l (wa : Watch) : State :=
      { ch [(0, { w := word 3 }), (1, { w := word 3 })] id with
        cfg := { w.cfg with active := ctxSet }, rx := { w.rx with lanes := [(3, { w := word 1, on := true, wa := wa, wb := { armed := true } })] } }
    let b : BinSample := { ai := 0, aq := 0, bi := 0, bq := 0 }
    let s := l wpk
    let x := s.lane 3
    let set := s.cfg.active
    let pair := lanePair set 3
    let jb := s.stroke * binsPerStroke pair + s.airOf pair (laneBin set 3)
    let y := ((mixer (ncoWord set 3) jb b).x.sat 16).x.mask (s.branchAt pair false (jb * binPeriod pair)) (s.branchAt pair true (jb * binPeriod pair))
    let pa (wa : Watch) := (wa.push set 3 false (y.branch false)).peak set 3 jb
    (s.boot.held = false ∧ s.clk.stopped = false ∧ s.openLanes = [3] ∧ s.airOf pair (laneBin set 3) < binsPerStroke pair ∧ laneWatchOff set 3 = false
      ∧ laneK set 3 = 0 ∧ x.on = true ∧ x.turns = [] ∧ x.armFrom < jb ∧ x.wa.armed = true ∧ x.wb.armed = true ∧ x.hits = [])
    ∧ ((pa wpk).isSome = true ∧ pa { armed := true } = none) ∧ laneBin set 300 ≠ laneBin set 3 := by
  decide +kernel

/-- A block of a stroke, whose work order a scull holds. -/
def bk (n : Nat) : Held :=
  { blk := { stroke := n, jFirst := n * 300, buffer := 0, count := 3, gen := 3, k := 0, bankB := false, flags := 0, shifts := 0, hits := [], lost := 0 }
    scull := some 3 }
/-- A context in GAMBIT with two blocks to work off. -/
def cx : Ctx :=
  { st := .gambit, lane := 3, profile := 1, scull := 3, blocks := [bk 9999, bk 10000], peak := 95990000, first := 9999, dm := { next := some 2999700 } }
/-- The machine with that context alone, changed by `f`. -/
def cxs (f : Ctx → Ctx) : State :=
  { good w with cfg := { w.cfg with active := ctxSet }, chains := [(0, { w := word 3 }), (1, { w := word 3 })], rx := { w.rx with ctxs := [(7, f cx)] } }
/-- A sync match whose confirmation waits for the other branch. -/
def mt0 : Match := { branchB := false, fmtB := false, errs := 1, track := { syms := [{ lev := 3, tau := 0, fo := 0, y := 5 }] } }

theorem meets_ContextProgress :
    let s := cxs id
    let h := bk 9999
    (s.rx.ctxs = [(7, cx)] ∧ s.rx.orders = [] ∧ cx.sweep = none ∧ cx.rerun = none ∧ cx.blocks = h :: [bk 10000] ∧ h.scull = some (3 : Fin 64).val
      ∧ cx.st = .gambit ∧ cx.kept = [] ∧ h.res = none ∧ h.spill = none ∧ h.await = false ∧ cx.unretained = false ∧ cx.dm.hit = none
      ∧ s.rx.awaiting + s.rx.listed < 257 ∧ s.rx.spill + s.awaitBytes + h.size ≤ 134217728 ∧ ((s.demodBlock 7 h).ctx 7).dm.hit = none)
    ∧ (let x := cxs fun c => { c with dm := { c.dm with found := [mt0] } }
       ((x.demodBlock 7 h).ctx 7).dm.hit.isSome = true ∧ ((x.demodBlock 7 h).ctx 7).dm.need = none)
    ∧ (s.stroke < (bk 9997).blk.stroke + 4 ∧ (bk 9996).blk.stroke + 4 ≤ s.stroke)
    ∧ (let e (c : Ctx) : Nat := c.peak + symCycles s.cfg.active c.profile (profPreLen s.cfg.active c.profile + 8)
       cx.dm.next = some 2999700 ∧ 2999700 * laneP s.cfg.active cx.lane ≤ e { cx with peak := 96000000 }
       ∧ e { cx with peak := 40000000 } < 2999700 * laneP s.cfg.active cx.lane)
    ∧ ({ cx with st := .waiting, blocks := [], first := 5904 }.first + 4096 ≤ s.stroke
      ∧ s.stroke < { cx with st := .waiting, blocks := [], first := 5905 }.first + 4096)
    ∧ (let c := { cx with st := .waiting, passed := true, tail := List.replicate 65 (bk 9998), sweep := some { start := 3, total := 4, done := 5 } }
       c.sweep.isSome = true ∧ 64 < c.tail.length ∧ c.passed = true ∧ c.owed = [])
    ∧ (s.mem.refresh = false ∧ { cx with kept := [{ bk 9998 with await := true }] }.kept = { bk 9998 with await := true } :: []
      ∧ (s.spillPlace { bk 9998 with await := true }.size).isSome = true) := by
  decide +kernel
/-- A frame of format A with its block CRCs, as bits. -/
def frA : List Bool :=
  let b : Bytes := [15, 0x44, 1, 2, 3, 4, 5, 6, 7, 8, 0x7A, 1, 0, 0, 0, 9]
  (b.take 10 ++ crcBytes (b.take 10) ++ b.drop 10 ++ crcBytes (b.drop 10)).flatMap fun x => (List.range 8).map fun i => x.getLsbD (7 - i)

theorem meets_StreamsAndVerdicts :
    let o (f : Ctx → Ctx) : State := cxs fun c => f { c with st := .offering, blocks := [] }
    let c : Ctx := { cx with st := .offering, blocks := [] }
    let s (bits : List Bool) : State := { o (fun c => { c with taken := true, bits := bits }) with cfg := { w.cfg with active := writeCells cfgReset ctxSet (cfgKey 3 32) [0x84] } }
    let sent (s : State) (c : Ctx) : List Bool := c.bits.take (c.need.getD 0 * profBps s.cfg.active c.profile)
    let at_ (s : State) : State := { s with rx := { s.rx with atEngine := [7] } }
    ((o id).rx.ctxs = [(7, c)] ∧ c.partners = [] ∧ c.sweep = none ∧ c.st = .offering ∧ c.taken = false ∧ c.passed = false)
    ∧ ({ (o id).rx with streamsOut := 255 }.streamsOut < 256 ∧ 256 ≤ { (o id).rx with streamsOut := 256 }.streamsOut ∧ c.heldAt = none)
    ∧ ({ c with heldAt := some 9992 }.heldAt = some 9992 ∧ (o id).links.events.length < 256 ∧ (o id).clk.stopped = false)
    ∧ ((at_ (s [])).rx.atEngine = [7] ∧ (at_ (s [])).rx.frames.length < 512 ∧ c.residual = 0 ∧ c.sweepCtx = false ∧ c.owed = [])
    ∧ lineDecode (profLine (o id).cfg.active 1) (sent (o id) { c with bits := [true, true], need := some 2 }) = none
    ∧ (lineDecode (profLine (s frA).cfg.active 1) (sent (s frA) { c with bits := frA, need := some frA.length }) = some frA ∧ profMode (s frA).cfg.active 1 ≠ 0
      ∧ (openFrame false (toBytes frA)).isSome = true ∧ openFrame false (toBytes [true, false]) = none)
    ∧ (profMode (s frA).cfg.active 2 = 0 ∧ lineDecode (profLine (s frA).cfg.active 2) (sent (s frA) { c with profile := 2, bits := frA, need := some frA.length }) = some frA
      ∧ (s frA).links.endpoint = none ∧ (s frA).dlv.queue.length < 1048576)
    ∧ (cx.scull = (3 : Fin 64).val ∧ cx.rerun = none ∧ { cx with blocks := [bk 9983] }.blocks = [bk 9983] ∧ (bk 9983).scull = some (3 : Fin 64).val
      ∧ (cxs id).rx.orders = [] ∧ (cxs id).rx.unplaced = [] ∧ (cxs id).stroke < (bk 9984).blk.stroke + 17 ∧ (bk 9983).blk.stroke + 17 ≤ (cxs id).stroke) := by
  decide +kernel

/-! ### Transmission -/

/-- A range of the card, the card, and an item in service. -/
def rg : Range := { fLow := 868000000, fHigh := 872000000, ceiling := 20, duty := 10000, band := 0, maxBurst := 0 }
def card2 : RuleCard := { extH := 0, extL := 0, ranges := [rg, { rg with duty := 0 }], crc := 5 }
def itm : TxItem :=
  { kind := .asap, tag := 9, profile := 1, planned := 96200000, latest := 96300000, freq := 870000000, power := 10, frame := rq.frame, fmtB := false
    airtime := 100000, rule := 0, order := 0 }
/-- The machine with a card, both chains of the band in RECEIVE or TRANSMIT, its synthesisers LOCKED, and a transmitter as `f` leaves it. -/
def txs (k : Nat) (f : TxBand → TxBand) : State :=
  { w with
    links := { w.links with tags := [tg] }
    cfg := { w.cfg with active := ctxSet }
    chains := [(0, { w := word k, former := some .receive }), (1, { w := word 3 })]
    synths := [1, 3, 4, 5].map fun y => (y, { w := word 2, n := 724, d := 4 })
    tx := { w.tx with card := some card2, h := f w.tx.h } }
/-- An image of a rule card: its range, then zeros, then its CRC-32. -/
def img0 : Bytes :=
  [0xA7, 0x43, 1, 1, 0, 0, 0, 0] ++ le 4 5 ++ le 4 0 ++ le 4 868000000 ++ le 4 869000000 ++ le 2 20 ++ le 2 100 ++ [0, 0] ++ le 2 0
def pad : Bytes := List.replicate 60 0
def img : Bytes := img0 ++ pad ++ pad ++ pad ++ pad ++ le 4 0x56becbc2
theorem img_crc : crc32 (slice 0 272 img) = 0x56becbc2#32 := by
  have hs : slice 0 272 img = img0 ++ pad ++ pad ++ pad ++ pad := by decide +kernel
  have h0 : img0.foldl crc32Byte 0xFFFFFFFF#32 = 0x90f47565#32 := by decide +kernel
  have h1 : pad.foldl crc32Byte 0x90f47565#32 = 0x24b777c2#32 := by decide +kernel
  have h2 : pad.foldl crc32Byte 0x24b777c2#32 = 0xaa017994#32 := by decide +kernel
  have h3 : pad.foldl crc32Byte 0xaa017994#32 = 0xdb1bf2bf#32 := by decide +kernel
  have h4 : pad.foldl crc32Byte 0xdb1bf2bf#32 = 0xa941343d#32 := by decide +kernel
  rw [hs, crc32, List.foldl_append, List.foldl_append, List.foldl_append, List.foldl_append, h0, h1, h2, h3, h4]
  decide

theorem meets_TransmitRequests_submit :
    let s := txs 3 id
    let r := { rq with timing := 0, start := BitVec.ofNat 64 (w.dtime + 38400000), latest := 19200000 }
    let full := txs 3 fun t => { t with queue := List.replicate 16 itm }
    (s.takes (hd 40) 0x0030 = true ∧ (hd 40).len = 24 + rq.length.toNat ∧ rq.frame.length = rq.length.toNat ∧ rq.reserved = 0
      ∧ rq.profile.toNat < 32 ∧ frameFits s.cfg.active rq.profile.toNat rq.frame = true ∧ rq.band.toNat ≤ 1 ∧ rq.timing.toNat ≤ 1
      ∧ rq.latest.toNat ≤ 19200000 ∧ powerOk .h rq.power.toInt = true ∧ 1 ≤ rq.length.toNat ∧ rq.length.toNat ≤ 4072
      ∧ reachable s.cfg.active .h rq.frequency.toNat = true ∧ s.chainIs (bandChain .h) .fault = false ∧ s.synIs (bandSyn .h) .lost = false
      ∧ s.synIs 1 .lost = false)
    ∧ (r.timing = 0 ∧ s.dtime ≤ r.start.toNat ∧ r.start.toNat ≤ s.dtime + 38400000 ∧ r.latest.toNat ≤ 19200000)
    ∧ (full.takes (hd 40) 0x0030 = true ∧ 16 ≤ (full.txb .h).places false)
    ∧ ((s.txb .h).places false < 16 ∧ s.links.events.length < 256) := by
  decide +kernel
theorem meets_TransmitRequests_umpire :
    (match (txs 3 id).txVerdict { rq with power := 28 } with | .error e => some e | .ok _ => none) = some (0, 2)
    ∧ (match (txs 3 id).txVerdict rq with | .error _ => none | .ok r => some r) = some (0, rg) := by
  decide +kernel
theorem meets_TransmitRequests_other :
    let s := txs 3 id
    let open2 (c : Option RuleCard) : State := { s with boot := { s.boot with scopes := [(2, 99999999999)] }, tx := { s.tx with card := c } }
    (s.takes (hd 2) 0x0031 = true ∧ (hd 2).len = 2 ∧ (9#16) ≠ 0)
    ∧ (s.placeOf .h 9 = .absent ∧ s.placeOf .l 9 = .absent ∧ s.tx.complete.contains 9 = false)
    ∧ { s.tx with complete := [9] }.complete.contains 9 = true
    ∧ (let q := txs 3 fun t => { t with queue := [itm] }; q.placeOf .h 9 = .queued ∧ q.placeOf .l 9 = .absent ∧ q.tx.h.phase ≠ .idleTx)
    ∧ (let u := txs 4 fun t => { t with item := some itm, phase := .radiating 96000100 }
       u.placeOf .h 9 = .radiating ∧ u.tx.h.phase = .radiating 96000100 ∧ u.placeOf .l 9 = .absent)
    ∧ (s.takes (hd 276) 0x0032 = true ∧ (hd 276).len = 276 ∧ img.length = 276 ∧ s.scopeOpen 2 = false)
    ∧ ((open2 (some card2)).scopeOpen 2 = true ∧ (open2 (some card2)).tx.card.isSome = true)
    ∧ ((open2 none).scopeOpen 2 = true ∧ (open2 none).tx.card = none ∧ (open2 none).tx.cardBad = false ∧ cardRange img = true) := by
  decide +kernel
theorem meets_TransmitRequests_card : cardForm img = true := by
  unfold cardForm
  rw [img_crc]
  decide +kernel
theorem meets_TransmissionCourse_start :
    let q := txs 3 fun t => { t with queue := [itm] }
    let a (x : TxItem) : State := txs 4 fun t => { t with item := some x, phase := .transition 96200000 }
    let r := txs 4 fun t => { t with item := some itm, phase := .ramping 96000000 }
    ((q.txb .h).queue = itm :: [] ∧ q.txReady .h = true ∧ q.trimHolds .h = false ∧ q.clk.stopped = false)
    ∧ (((a itm).txb .h).phase = .transition 96200000 ∧ ((a itm).txb .h).item = some itm ∧ (a itm).synIs (bandSyn .h) .locked = true
      ∧ (a itm).synIs 1 .locked = true ∧ (a itm).chainIs (bandChain .h) .transmit = true ∧ (a itm).clk.stopped = false
      ∧ (a itm).dtime ≤ 96200000 - 768 ∧ 768 ≤ 96200000 ∧ 96200000 ≤ itm.latest ∧ (a itm).tx.card = some card2
      ∧ card2.ranges[itm.rule]? = some rg ∧ ((a itm).at (96200000 - 768)).overDuty itm.rule rg (itm.airtime + 1536) = false)
    ∧ (((a itm).at (96200000 - 768)).overDuty 1 { rg with duty := 0 } (itm.airtime + 1536) = true
      ∧ card2.ranges[1]? = some { rg with duty := 0 } ∧ (a itm).links.events.length < 256)
    ∧ ((r.txb .h).phase = .ramping 96000000 ∧ (r.txb .h).item = some itm ∧ itm.kind ≠ .auto ∧ itm.tag = tg.tag ∧ r.outstanding tg.tag = some tg
      ∧ r.reachable tg.src = true) := by
  decide +kernel
theorem meets_TransmissionCourse_end :
    let d := txs 4 fun t => { t with item := some itm, phase := .radiating 96001000 }
    let x := txs 3 fun t => { t with queue := [itm] }
    let b := txs 3 fun t => { t with blankAt := some 3, downAt := some 96000000 }
    ((d.txb .h).phase = .radiating 96001000 ∧ (d.txb .h).item = some itm ∧ (d.txb .h).queue = [] ∧ itm.kind ≠ .auto
      ∧ getT [] d.tx.duty itm.rule = [] ∧ 768 ≤ 96001000 ∧ 38400000 * (96001000 / 38400000) + 768 ≤ 96001000
      ∧ 96001000 + itm.airtime + 768 < 38400000 * (96001000 / 38400000 + 1))
    ∧ ((x.txb .h).phase = .idle ∧ (x.txb .h).item = none ∧ (x.txb .h).queue = [itm] ∧ itm.tag = tg.tag ∧ x.outstanding tg.tag = some tg
      ∧ x.reachable tg.src = true)
    ∧ ((b.txb .h).phase = .idle ∧ (b.txb .h).blankAt = some 3 ∧ (b.txb .h).downAt = some 96000000)
    ∧ (29 < 30 ∧ 30 ≤ 60 ∧ 60 < 61 ∧ d.links.events.length < 255) := by
  decide +kernel

/-! ### Broadcast and time -/

/-- A configuration set with two LF profiles and the time engine on. -/
def bcSet : List Host.Cell :=
  let a := writeCells cfgReset (writeCells cfgReset (writeCells cfgReset goodSet (cfgKey 5 0) [0xE0]) (cfgKey 5 64)
    ([1, 0] ++ le 2 50 ++ [60, 8, 1, 0] ++ le 4 0x55 ++ le 2 8)) (cfgKey 5 128) [2]
  writeCells cfgReset (writeCells cfgReset a (cfgKey 10 0) [0x40]) (cfgKey 12 4) [10]
/-- The machine with both broadcast paths tuned. -/
def bcs (tuning : Option U16) : State :=
  { w with
    links := { w.links with tags := [tg] }
    cfg := { w.cfg with active := bcSet }
    chains := [(4, { w := word 3 })]
    synths := [1, 5].map fun y => (y, { w := word 2, n := 72, d := 40 })
    bc := { w.bc with vhf := { w.bc.vhf with freq := 88000000, tuning := tuning }, lfmf := { w.bc.lfmf with freq := 153000, profile := 1, tuning := tuning } } }
def lfFrame8 : LfIn :=
  { slot := 0, phases := [false] ++ [false, true, false, true, false, true, false, true] ++ List.replicate 8 true, lens := [], at_ := 95000000
    marker := 0, rssi := 4 }
def ptp : PtpFrame :=
  { ethertype := 0x88F7, udpPort := 0, isUdp := false, messageType := 0, sequenceId := 5, sfd := 95000000, message := [1, 2, 3] }

theorem meets_BroadcastTuning :
    let s := bcs none
    let off := { s with synths := [] }
    let af (c : List (U8 × Int × Nat)) : State :=
      { s with bc := { s.bc with af := { on := true, pi := 0x1234, list := [7], means := [(96000000, -1600)], checked := c } } }
    (s.takes (hd 8) 0x0060 = true ∧ (hd 8).len = 8
      ∧ (87500000 ≤ (87500000#32).toNat ∧ (108000000#32).toNat ≤ 108000000 ∧ (108000000#32).toNat % 50000 = 0)
      ∧ (bcs (some 9)).bc.vhf.tuning.isSome = true ∧ s.chainIs 4 .receive = true ∧ s.bc.vhf.tuning = none ∧ s.bc.lfmf.tuning = none
      ∧ off.synIs 5 .off = true ∧ 148500 ≤ (148500#32).toNat ∧ (283500#32).toNat ≤ 283500 ∧ (148499#32).toNat < 148500)
    ∧ ((bcs (some 9)).outstanding tg.tag = some tg ∧ (bcs (some 9)).reachable tg.src = true ∧ (bcs (some 9)).bc.lfmf.tuning = some tg.tag
      ∧ (bcs (some 9)).bc.vhf.tuning = some tg.tag ∧ (bcs (some 9)).synIs 5 .locked = true)
    ∧ (s.takes (hd 29) 0x0061 = true ∧ (hd 29).len = 4 + (List.replicate 25 (204 : U8)).length ∧ (List.replicate 25 (204 : U8)).length ≤ 25
      ∧ (∀ c ∈ List.replicate 25 (204 : U8), 1 ≤ c.toNat ∧ c.toNat ≤ 204) ∧ (0x1234#16) ≠ 0 ∧ w.bc.vhf.freq = 0 ∧ s.bc.vhf.freq ≠ 0)
    ∧ ((af []).bc.af.on = true ∧ (af []).rdsOn = true ∧ (af []).bc.af.verify = none ∧ (af []).bc.vhf.tuning = none ∧ (af []).afMean = some (-1600)
      ∧ -1600 < (af []).afRssi ∧ (af []).afCandidate = some 7 ∧ -1600 - 1 < (-1600 : Int) + (af []).afMargin)
    ∧ (-1600 + (af [(7, -900, 1)]).afMargin ≤ -900 ∧ (af [(7, -900, 1)]).bc.af.found 7 = some (-900, 1) ∧ (af [(7, -900, 1)]).afCandidate = some 7
      ∧ (af [(7, -900, 1)]).afMean = some (-1600)) := by
  decide +kernel
theorem meets_BroadcastTuning_verify :
    let s := { bcs none with bc := { (bcs none).bc with af := { (bcs none).bc.af with verify := some (90000000, 7, 96000000) } } }
    s.bc.af.verify = some (90000000, 7, 96000000) ∧ s.clk.stopped = false := by
  decide +kernel
theorem meets_BroadcastData :
    let s := { bcs none with bc := { (bcs none).bc with rds := { (bcs none).bc.rds with sync := true } } }
    let m := { s with bc := { s.bc with lfmf := { s.bc.lfmf with profile := 2 }, lfLast := [(1, (5, 59, 88888))] } }
    let bad := { ctGroup with keyed := keyUp true (rdsBlk 0x4321 0 ++ List.replicate 78 false) }
    let r (l : List Bool) : State := { s with bc := { s.bc with rds := { s.bc.rds with recent := l } } }
    ((bcs none).rdsOn = true ∧ (bcs none).bc.rds.sync = false ∧ rdsInOrder (rdsBits (ctGroup.keyed.take 53)) = true
      ∧ rdsInOrder (rdsBits (List.replicate 53 true)) = false)
    ∧ (10 ≤ ((r (List.replicate 10 true)).bc.rds.recent.filter id).length ∧ ((r (List.replicate 9 true)).bc.rds.recent.filter id).length < 10)
    ∧ (s.rdsOn = true ∧ s.bc.rds.sync = true ∧ s.bc.af.verify = none ∧ (s.rdsDecode ctGroup).s1 ≤ 1 ∧ (s.rdsDecode bad).s1 ≤ 1
      ∧ 2 ≤ (s.rdsDecode bad).s2)
    ∧ (let g := s.rdsDecode ctGroup
       g.s2 = 0 ∧ g.s3 = 0 ∧ g.s4 = 0 ∧ g.b2.toNat / 2048 = 8 ∧ s.dlv.queue.length < 1048576 ∧ s.links.endpoint = none
       ∧ 40587 ≤ g.b2.toNat % 4 * 32768 + g.b3.toNat / 2)
    ∧ (s.lfOn 0 = true ∧ s.cfgNat 5 64 1 = 1 ∧ (s.lfDecode lfFrame8).isSome = true
      ∧ s.lfDecode { lfFrame8 with phases := List.replicate 7 true } = none)
    ∧ (m.lfOn 1 = true ∧ m.cfgNat 5 128 1 = 2 ∧ findT m.bc.lfLast 1 = some (5, 59, 88888) ∧ 59 < 60) := by
  decide +kernel
theorem meets_TimeSources :
    let s := bcs none
    let v := { s with time := { s.time with srcs := [(2, { valid := true, last := some 90000000 })], order := [2, 5, 0, 0], inUse := 2 } }
    let p := { s with time := { s.time with srcs := [(1, { valid := true, last := some 95000000 })], ppsAt := some 50000000 } }
    let out := { s with pins := { s.pins with ppsOut := true } }
    let up := { s with links := { s.links with ethUp := true } }
    (s.takes (hd 20) 0x00B0 = true ∧ (hd 20).len = 20 ∧ s.dtime + 38400000 < (BitVec.ofNat 64 (s.dtime + 38400001)).toNat
      ∧ (BitVec.ofNat 64 (s.dtime - 38400001)).toNat + 38400000 < s.dtime ∧ s.dtime ≤ (BitVec.ofNat 64 (s.dtime - 38400000)).toNat + 38400000
      ∧ (BitVec.ofNat 64 (s.dtime + 38400000)).toNat ≤ s.dtime + 38400000)
    ∧ (s.takes (hd 4) 0x00B1 = true ∧ (hd 4).len = 4 ∧ (∀ x ∈ [5, 2, 0, 0], x ≤ 5) ∧ ([5, 2, 0, 0].filter (· ≠ 0)).Nodup
      ∧ ∀ x ∈ [5, 2, 0, 0], (s.time.src x).valid = false)
    ∧ ((2 : Fin 6) ≠ 0 ∧ (2 : Fin 6) ≠ 1 ∧ (v.time.src (2 : Fin 6)).last = some 90000000 ∧ (v.time.src (2 : Fin 6)).valid = true)
    ∧ (p.time.ppsAt = some 50000000 ∧ (p.time.src 1).valid = true ∧ 50000000 + 38400000 + 38400 < 88438401 ∧ s.time.ppsAt = none
      ∧ p.links.events.length < 256)
    ∧ (out.pins.ppsOut = true ∧ s.pins.ppsOut = false ∧ s.time.ppsOutAt = none ∧ s.cfgNat 12 4 1 % 4 = 2 ∧ s.clk.stopped = false)
    ∧ (up.netUp = true ∧ up.cfgBit 12 4 3 = true ∧ up.dlv.queue.length < 1048576 ∧ up.links.endpoint = none ∧ ptp.isUdp = false
      ∧ ptp.ethertype = 0x88F7) := by
  decide +kernel

/-! ### Streams, the TDM port, energy and leak correlation -/

/-- Groups 0 and 2 enabled on the internal clock; two leak pairs and a pulse circuit enabled; a TDM master of no words. -/
def strSet : List Host.Cell :=
  let a := writeCells cfgReset (writeCells cfgReset (writeCells cfgReset (writeCells cfgReset goodSet (cfgKey 10 0) [0x40]) (cfgKey 6 0) [5, 50, 5, 50])
    (cfgKey 6 64) [0x82]) (cfgKey 6 80) [0x82]
  writeCells cfgReset (writeCells cfgReset (writeCells cfgReset a (cfgKey 8 0) [0xC0]) (cfgKey 8 16) [0x80, 0, 1]) (cfgKey 8 368)
    [0x80, 0, 1, 0, 10, 0, 0, 0, 0x80, 1, 0]
/-- Group 0 on an external clock and the TDM port a slave; and a TDM master of two words. -/
def slaveSet : List Host.Cell := writeCells cfgReset (writeCells cfgReset strSet (cfgKey 7 0) [0xA0, 2, 3]) (cfgKey 6 0) [0x80, 50, 0, 0, 0xFF]
def masterSet : List Host.Cell := writeCells cfgReset strSet (cfgKey 7 0) [0x20, 2, 3]
/-- The machine with a set, group 0 and the TDM port in given states, and SYN_A LOCKED. -/
def strm (set : List Host.Cell) (x : Group) (t : Tdm) : State :=
  { w with
    links := { w.links with tags := [tg] }
    cfg := { w.cfg with active := set }
    synths := [(1, { w := word 2, n := 72, d := 40 })]
    str := { groups := [(0, x)], tdm := t } }

theorem meets_StreamCommands :
    let s (k : Nat) : State := strm strSet { w := word k } {}
    let x := (s 0).group (0 : Fin 4)
    let u := strm slaveSet { w := word 0, starting := some (9, 96000000, true) } {}
    (x.waits = [] ∧ x.starting = none ∧ x.stopping = none ∧ (hd 4).len = 4 ∧ (s 0).takes (hd 4) 0x0070 = true
      ∧ (s 0).takes (hd 4) 0x0071 = true)
    ∧ (((s 1).group (0 : Fin 4)).w.st = 1 ∧ ((s 2).group (0 : Fin 4)).w.st = 2 ∧ x.w.st = 0 ∧ ((s 3).group (0 : Fin 4)).w.st = 3)
    ∧ streamGroupOk (writeCells cfgReset strSet (cfgKey 6 80) [0x83]) 0 = false
    ∧ (groupChans goodSet 0 = [] ∧ streamGroupOk goodSet 0 = true)
    ∧ (streamGroupOk (s 0).cfg.active 0 = true ∧ groupChans (s 0).cfg.active 0 ≠ [] ∧ strExt (s 0).cfg.active 0 = false
      ∧ (s 0).synIs 1 .locked = true)
    ∧ ((u.group (0 : Fin 4)).starting = some (tg.tag, 96000000, true) ∧ (u.group (0 : Fin 4)).measure = none ∧ u.outstanding tg.tag = some tg
      ∧ u.reachable tg.src = true ∧ u.clk.stopped = false) := by
  decide +kernel
theorem meets_StreamSupervision :
    let s (k : Nat) : State := strm slaveSet { w := word k } {}
    let x : State := { strm strSet { w := word 1 } {} with synths := [] }
    (s 1).links.events.length < 255
    ∧ (((s 1).group (0 : Fin 4)).w.st = 1 ∧ strExt (s 1).cfg.active 0 = true ∧ strExt x.cfg.active 0 = false ∧ x.synIs 1 .locked = false)
    ∧ (((s 2).group (0 : Fin 4)).w.st = 2 ∧ ((s 2).group (0 : Fin 4)).w.st ≠ 1)
    ∧ ((strm strSet { w := word 2 } {}).synIs 1 .locked = true ∧ ((strm strSet { w := word 2 } {}).group (0 : Fin 4)).dead = false)
    ∧ (let u (ppm : Int) := (strm slaveSet { w := word 1, ratePpm := ppm } {}).group (0 : Fin 4)
       (u 20001).w.st = 1 ∧ 20000 < (u 20001).ratePpm ∧ (u (-20001)).ratePpm < -20000 ∧ -20000 ≤ (u 20000).ratePpm ∧ (u 20000).ratePpm ≤ 20000)
    ∧ (799 < 800 ∧ 799 ∉ ((s 1).group (0 : Fin 4)).drops) := by
  decide +kernel
theorem meets_TdmPort :
    let s (set : List Host.Cell) (t : Tdm) : State := strm set {} t
    (((s masterSet {}).takes (hd 0) 0x0072 = true ∧ (s masterSet {}).takes (hd 0) 0x0073 = true ∧ (hd 0).len = 0)
      ∧ ((s masterSet {}).str.tdm.waits = [] ∧ (s masterSet {}).str.tdm.starting = none ∧ (s masterSet {}).str.tdm.stopping = none
        ∧ (s masterSet {}).str.tdm.w.st = 0 ∧ groupFrame (s masterSet {}).cfg.active = true ∧ groupSource (s masterSet {}).cfg.active = true)
      ∧ groupFrame (writeCells cfgReset masterSet (cfgKey 7 1) [2, 7]) = false ∧ (s masterSet { w := word 1 }).str.tdm.w.st ≠ 0)
    ∧ (let u := s masterSet { starting := some (9, 96000000) }
       u.str.tdm.starting = some (tg.tag, 96000000) ∧ u.outstanding tg.tag = some tg ∧ u.reachable tg.src = true
       ∧ u.str.tdm.w.st = u.str.tdm.w.mgSt ∧ tdmSlave u.cfg.active = false ∧ tdmSlave slaveSet = true)
    ∧ (let u := s masterSet { w := word 1, skew := 1 }
       u.str.tdm.w.st = 1 ∧ u.str.tdm.skew ≠ 0 ∧ u.str.tdm.silence = .none ∧ u.str.tdm.stalled = false ∧ u.links.events.length < 255
       ∧ u.cfgBit 7 0 5 = true ∧ (s strSet {}).cfgBit 7 0 5 = false)
    ∧ (let u := s masterSet { w := word 1 }
       let v (n : Nat) := s masterSet { w := word 1, fifo := List.replicate n 1 }
       u.str.tdm.w.st ≠ 0 ∧ u.str.tdm.silence = .none ∧ u.str.tdm.stalled = false ∧ u.str.tdm.stopping = none ∧ u.str.tdm.fifo = []
       ∧ tdmWords u.cfg.active ≠ 0 ∧ (v 2).str.tdm.fifo ≠ [] ∧ (v 128).tdmLevel = 64 ∧ (v 127).tdmLevel ≠ 64)
    ∧ (slaveGood slaveSet [1] 5 = false ∧ 32 * tdmSlots slaveSet ≤ 512 ∧ (framePpm slaveSet 4 3200).natAbs ≤ 20000)
    ∧ (let u (ppm : Int) := (s slaveSet { w := word 1, ratePpm := ppm }).str.tdm
       (u 0).waits = [] ∧ 20000 < (u 20001).ratePpm ∧ (u (-20001)).ratePpm < -20000 ∧ -20000 ≤ (u (-20000)).ratePpm ∧ (u 0).ratePpm ≤ 20000)
    ∧ ((s masterSet { w := word 1, silence := .start }).str.tdm.silence = .start
      ∧ (s masterSet { w := word 2, silence := .restart }).str.tdm.silence = .restart)
    ∧ (let u := s masterSet { w := word 1, stopping := some 9 }
       u.str.tdm.stopping = some tg.tag ∧ u.str.tdm.waits = [] ∧ u.str.tdm.starting = none ∧ u.trim.marked = [])
    ∧ ((s slaveSet { w := word 1, stalled := true }).str.tdm.stalled = true ∧ tdmWords slaveSet ≠ 0) := by
  decide +kernel

/-- The machine with circuit 0 and the leak correlator as given. -/
def cirs (x : Circuit) : State := { strm strSet {} {} with str := { circuits := [(0, x), (1, {})] } }
def lks (l : Leak) : State := { strm strSet {} {} with str := { leak := l, groups := [(0, { w := word 1 })] } }

theorem meets_EnergyEvents :
    (let s := cirs { closed := [(95000000, [1, 2, 3])] }
     (s.circuit (0 : Fin 28)).closed = (95000000, [1, 2, 3]) :: [] ∧ s.dlv.queue.length < 1048576 ∧ s.links.endpoint = none)
    ∧ (let s := cirs { highTill := some 96000000 }; (s.circuit (0 : Fin 28)).highTill = some 96000000)
    ∧ (let s := cirs { lowTill := some 96000000, pending := 3 }
       (s.circuit (0 : Fin 28)).lowTill = some 96000000 ∧ (s.circuit (0 : Fin 28)).highTill = none ∧ (s.circuit (0 : Fin 28)).pending ≠ 0
       ∧ { s.circuit (0 : Fin 28) with pending := 0 }.pending = 0)
    ∧ (let s := cirs { lowTill := some 96000000, pending := 1 }
       let u := { s with cfg := { s.cfg with active := writeCells cfgReset strSet (cfgKey 8 16) [0xC0, 0, 1, 3, 0, 0, 0, 0, 1, 0, 0, 0] } }
       (u.circuit (0 : Fin 28)).pending ≠ 0 ∧ u.pulseBlocked 0 = false ∧ cirPulseEn u.cfg.active 0 = true)
    ∧ (let d (n : Nat) : Due := { stroke := n, plan := { en := true, cir := true } }
       let s (n unit : Nat) : State :=
         { cirs { due := [d n] } with rx := { w.rx with orders := [{ scull := 3, cls := 3, cycles := 100, unit := unit, stroke := n }] } }
       (((s 9996 0).circuit (0 : Fin 28)).due = d 9996 :: [] ∧ (d 9996).plan.en = true ∧ (d 9996).plan.cir = true ∧ (d 9996).skip = false
         ∧ (d 9996).stroke + 4 ≤ (s 9996 0).stroke ∧ (s 9996 0).orderedUpTo 0 9996 = true)
       ∧ ((s 9997 0).stroke < (d 9997).stroke + 4 ∧ (s 9996 1).orderedUpTo 0 9996 = false)
       ∧ ((s 9996 28).pathLate 28 = true ∧ (s 9997 28).pathLate 28 = false ∧ (s 9996 29).pathLate 29 = true)) := by
  decide +kernel
theorem meets_LeakCorrelation :
    (let s := lks { nextAt := some 96001000 }
     s.str.leak.nextAt = some 96001000 ∧ s.str.leak.run = none ∧ leakPairsOn s.cfg.active = [0, 1]
     ∧ { s.str.leak with run := some [1] }.run ≠ none)
    ∧ (let s := lks { run := some [0, 1], stepAt := 5000 }
       s.str.leak.run = some (0 :: [1]) ∧ s.str.leak.captured = false ∧ s.str.leak.waits = false
       ∧ s.links.events.length < 256 ∧ s.clk.stopped = false)
    ∧ (let s := lks { run := some [0], paused := true, capStrokes := 4000 }
       s.str.leak.run = some (0 :: []) ∧ s.str.leak.captured = false ∧ s.str.leak.paused = true ∧ s.str.leak.capStrokes % 4000 = 0)
    ∧ (let s := lks { run := some [0, 1], captured := true }
       s.str.leak.run = some (0 :: [1]) ∧ s.str.leak.captured = true ∧ s.str.leak.paused = false
       ∧ { s.str.leak with paused := true }.paused = true ∧ s.dlv.queue.length < 1048576 ∧ s.links.endpoint = none)
    ∧ (let s := { lks {} with trim := { w.trim with survey := some 0 }, mem := { w.mem with sweep := some (1, 2, 3) } }
       s.trim.survey = some 0 ∧ s.mem.sweep.isSome = true) := by
  decide +kernel

/-! ### Trim, rigging and power -/

/-- An item that runs, and one that pauses. -/
def tn (k : Nat) (p : Option Nat) : TrimNow := { code := k, started := 95000000, paused := p, ofRun := false }
/-- The machine with chains in SYNTH and STANDBY, its synthesisers LOCKED, and the trim engine as `f` leaves it. -/
def trm (f : Trim → Trim) : State :=
  { w with
    links := { w.links with tags := [tg] }
    cfg := { w.cfg with active := writeCells cfgReset goodSet (cfgKey 10 0) [0x40] }
    synths := [1, 3].map fun y => (y, { w := word 2, n := 72, d := 40 })
    chains := [(0, { w := word 2 }), (2, { w := word 1 })]
    trim := f w.trim }

theorem meets_TrimItems :
    let s := trm id
    (s.takes (hd 4) 0x0080 = true ∧ (hd 4).len = 4 ∧ (31#8).toNat < 32 ∧ (2#8).toNat ≤ 2)
    ∧ (trm fun t => { t with run := some (4, 1) }).trim.run.isSome = true
    ∧ (let u := trm fun t => { t with now := some (tn 0x300 none) }; u.trim.run = none ∧ u.trim.now.isSome = true)
    ∧ (s.trim.run = none ∧ s.trim.now = none ∧ s.trim.queue = [] ∧ (trimScope 1 1).head? = some 0x300 ∧ s.trimCan 0x300 = true
      ∧ 0x300 / 256 ≠ 4 ∧ 0x300 / 256 ≠ 5)
    ∧ (let u := trm fun t => { t with run := some (9, 3) }
       u.trim.run = some (tg.tag, 3) ∧ u.trim.queue.any (·.2) = false ∧ u.trim.now.any (·.ofRun) = false ∧ u.outstanding tg.tag = some tg
       ∧ u.reachable tg.src = true)
    ∧ (let u := trm fun t => { t with now := some (tn 0x400 none) }
       u.trim.now = some (tn 0x400 none) ∧ u.trim.queue = [] ∧ (tn 0x400 none).ofRun = false ∧ (tn 0x400 none).paused = none
       ∧ u.links.events.length < 255 ∧ (tn 0x400 none).code / 256 = 4)
    ∧ (s.trimPlausible 0x300 4 true [5] = true ∧ s.trimPlausible 0x300 5 true [5] = false ∧ s.trimPlausible 0x400 0 true [] = false)
    ∧ (tn 0x300 (some 95000000)).paused = some 95000000 := by
  decide +kernel
theorem meets_RiggingSurveys :
    let s := trm id
    (s.takes (hd 1) 0x0081 = true ∧ (hd 1).len = 1
      ∧ (s.trim.ledger.ring.length = 12 ∧ s.trim.ledger.pa.length = 2 ∧ s.trim.ledger.rl.length = 2 ∧ s.trim.ledger.vco.length = 6))
    ∧ (trm fun t => { t with survey := some 0 }).trim.survey.isSome = true ∧ s.trim.survey = none ∧ 2 ≤ (2#8).toNat
    ∧ (s.pwr.st = .row ∧ { s.pwr with st := .paddle }.st = .paddle ∧ { s.pwr with st := .easy }.st ≠ .row ∧ { s.pwr with st := .easy }.st ≠ .paddle)
    ∧ (let u := trm fun t => { t with survey := some 9, anyFail := true, firstSurvey := false }
       u.trim.survey = some 9 ∧ u.trim.firstSurvey = false ∧ u.trim.anyFail = true ∧ (9#16) = tg.tag ∧ (9#16) ≠ 0
       ∧ u.outstanding tg.tag = some tg ∧ u.reachable tg.src = true) := by
  decide +kernel

/-- The machine in service with the power engine as `f` leaves it, without and with wake pins, mains pin and scans configured. -/
def pws (f : Power → Power) : State :=
  { w with pwr := f w.pwr, mem := { w.mem with cells := [(5, 1), (0x04000000, 7), (0x10000003, 9)] }, chains := [(0, { w := word 2 })]
           cfg := { w.cfg with active := writeCells cfgReset w.cfg.active (cfgKey 9 10) [0xFF] } }
def pwg (f : Power → Power) : State :=
  { pws f with cfg := { w.cfg with active := writeCells cfgReset w.cfg.active (cfgKey 9 0) [0, 0, 0, 2, 0, 0, 0, 0, 0, 0, 4, 0, 4, 0, 0, 0, 5, 0, 7] } }

theorem meets_PowerStates_commands :
    let s := pws id
    (s.takes (hd 2) 0x0090 = true ∧ (hd 2).len = 2 ∧ 2 < (3#8).toNat ∧ 4 < (5#8).toNat ∧ (3#8).toNat > 2)
    ∧ ((2#8) = 2 ∧ (2#8).toNat ≤ 2 ∧ s.unitCap < (2#8).toNat ∧ (1#8).toNat ≤ s.unitCap ∧ (4#8).toNat ≤ 4 ∧ s.pwr.policy ≠ 1)
    ∧ (s.takes (hd 12) 0x0091 = true ∧ (hd 12).len = 12)
    ∧ (let u := pws fun p => { p with wakes := (List.range 16).map fun i => (BitVec.ofNat 32 (100 + i), 97000000) }
       16 ≤ (u.pwr.wakes.filter fun x => decide (u.dtime < x.2)).length ∧ (∀ x ∈ u.pwr.wakes, x.1 ≠ 5) ∧ ∃ x ∈ u.pwr.wakes, x.1 = 115)
    ∧ ((96000122#64).toNat < s.dtime ∧ s.dtime ≤ (96000123#64).toNat) := by
  decide +kernel
theorem meets_PowerStates_wakes :
    let d := pwg fun p => { p with st := .easy, timer := some 97000000 }
    (2 ≤ d.pwr.st.code ∧ 10 ≤ 11 ∧ d.pins.gpioFilter.getD 2 384 ≤ 384 ∧ 383 < d.pins.gpioFilter.getD 2 384 ∧ d.pins.gpioFilter.getD (d.cfgNat 9 10 1) 384 ≤ 384
      ∧ d.pwr.timer = some 97000000 ∧ d.clk.stopped = false ∧ (2 : Fin 16) ≠ 0
      ∧ bitOf (d.cfgNat 9 12 2) (2 : Fin 16).val = true ∧ bitOf (d.cfgNat 9 12 2) (7 : Fin 16).val = false)
    ∧ ((pwg fun p => { p with entering := some .ashore }).pwr.entering.isSome = true
      ∧ ¬ ((pws id).pwr.entering.isSome = true ∨ 2 ≤ (pws id).pwr.st.code))
    ∧ (d.cfgNat 9 10 1 ≠ 0xFF ∧ d.pwr.mainsLow = false ∧ { d.pwr with mainsLow := true }.mainsLow = true ∧ (pws id).cfgNat 9 10 1 = 0xFF)
    ∧ (∀ p ∈ [PowerSt.easy, .feather, .ashore], (pws fun q => { q with entering := some p }).pwr.entering = some p)
    ∧ ((pws id).place 0x04000000 = .inst 0 ∧ ((pws id).inst 0).power ≠ 0)
    ∧ ((pws fun p => { p with waking := true, st := .easy }).pwr.waking = true ∧ (pws id).clk.stopped = false) := by
  decide +kernel
theorem meets_VigilAndVoltage :
    let e : DirEntry := { ent with flags := 0xFFFF, window := 96100000 }
    let v := { (pwg fun p => { p with policy := 1, listenH := true, listenL := true }) with dir := { w.dir with entries := [(0, e)] } }
    (v.pwr.policy = 1 ∧ v.pwr.st = .row ∧ v.pwr.entering = none ∧ v.pwr.listenL = true ∧ v.pwr.listenH = true)
    ∧ ((v.listenStart (b2n false)).isSome = true ∧ v.listenStart (b2n true) = none ∧ v.clk.stopped = false ∧ e ∈ v.vigilEntries (b2n false)
      ∧ v.listenFrom e ≤ 96100000 ∧ 96100000 < listenTo e)
    ∧ (v.cfgNat 9 16 2 ≠ 0 ∧ v.cfgNat 9 18 2 ≠ 0)
    ∧ ¬ ((pws id).pwr.policy = 1 ∧ ((pws id).pwr.st = .row ∨ (pws id).pwr.st = .paddle) ∧ (pws id).pwr.entering = none)
    ∧ (let u (k : Nat) := pws fun p => { p with vChange := some (700, k) }
       (u 0).pwr.vChange = some (700, 0) ∧ (u 1).pwr.vChange = some (700, 1) ∧ 715 ≤ 700 + 15 ∧ 700 ≤ 715 + 15 ∧ 700 + 15 < 716 ∧ 684 + 15 < 700
       ∧ (u 1).links.events.length < 256) := by
  decide +kernel

/-! ### Customer crews, firmware, resets, diagnostics and the catch -/

/-- Signature and key of a message whose hash is the abscissa `z` of a curve point: the signature (z, z) under the key that is this point
less the base point. -/
def sig2 (z : Nat) : Bytes := be 32 z ++ be 32 z
/-- A firmware image of one byte, version 3. -/
def fwHead : Bytes :=
  [0x57, 0x46, 1, 0] ++ le 4 1 ++ le 4 3 ++ le 4 1 ++ le 2 0x7216 ++ [0xB1] ++ List.replicate 13 0
    ++ be 32 0xe77b9a9ae9e30b0dbdb6f510a264ef9de781501d7b6b92ae89eb059c5ab743db ++ List.replicate 128 0
def fwImg : Bytes := fwHead ++ sig2 0x3a0b6bc2a87b202ee71cef221c5e5e7a7da01b35777b821d33f739b144e768f0 ++ [5]
def fwKey : Bytes :=
  be 32 0xee2097ec232bf09adfc405ece7bc7449a63a3fc616d7fbaf1e9bb0fa7f744f7b
    ++ be 32 0xe8486c6eb11b40e9cb628f38377a6a92f6b4ff750030dcc46e2d6d78cc386c29
/-- A crew package of one segment, version 3, for maker 77. -/
def pkgHead : Bytes :=
  [0x50, 0x43, 1, 0] ++ le 4 16 ++ le 4 3 ++ le 4 77 ++ le 4 0 ++ List.replicate 28 0xFF ++ List.replicate 48 0
    ++ be 32 0x79da528d156c9371b1a55abe02ea933d6d0729977cea73e31bffb3d58ac4ea28 ++ List.replicate 64 0
def pkgImg : Bytes :=
  pkgHead ++ sig2 0xbef68ddbdf7e07b8cfe38de30a7bb89626e2810b28787fa0601d2f7a486ec2ad ++ le 4 16 ++ [0, 0, 0, 0] ++ le 4 3 ++ [1, 2, 3, 0]
def pkgKey : Bytes :=
  be 32 0xa9a1996a97cab3592f218b234299a5266cd08ba1cfaf1bd163c12c5d8868fdde
    ++ be 32 0xbb67f15bd63aca04aa726bc2e76c6c6997307c217b55cc9a71e7708bd69be779
/-- The key and signature of a field response: scope 1, five minutes, serial number 4, a nonce of zeros. -/
def fieldKey : Bytes :=
  be 32 0xc553795aa6a6bee86ca5cbf10b4da272ce566fa54cb7d685300ab435acfaa8ac
    ++ be 32 0xed766b424e2e7979c369cba44a58e9fd23a79fa317815cf078db34895904a275
def fieldSig : Bytes := sig2 0x052a91b09f97b3db7553dba138a9abfa5685aa6e3ad8ae0285bb7de5cd34b203

/-- The machine in service with both customer crews owned, and boot state as `f` leaves it. -/
def bts (f : Boot → Boot) : State :=
  { w with
    links := { w.links with tags := [tg] }
    cfg := { w.cfg with active := writeCells cfgReset (writeCells cfgReset goodSet (cfgKey 10 0) [0x40]) (cfgKey 13 0) [0xC0] }
    synths := [1, 3].map fun y => (y, { w := word 2, n := 72, d := 40 })
    boot := f { w.boot with makerKey := some pkgKey, makerId := some 77, rootKey := fwKey, serial := 4 } }
/-- The same with crew 6 at a code. -/
def crs (k : Nat) (g : Crew → Crew) (f : Boot → Boot) : State :=
  { bts f with arr := { w.arr with crews := [(6, g { w := word k })], sculls := [(48, { run := true, halted := false, missedCnt := 65535 })] } }

theorem meets_CustomerCrews_start :
    let x := (crs 2 id id).crew (6 : Fin 8)
    (6 ≤ (6 : Fin 8).val ∧ x.starting = none ∧ x.stopping = none ∧ x.waits = [] ∧ (crs 2 id id).takes (hd 4) 0x00A1 = true
      ∧ (crs 3 id id).takes (hd 4) 0x00A2 = true ∧ (hd 4).len = 4 ∧ findT (crs 2 id id).boot.crewCommit (6 : Fin 8).val = none)
    ∧ (bts id).crewMine 5 = false ∧ ((crs 1 id id).crewIs 6 .customerLoaded = false ∧ (crs 1 id id).crewIs 6 .faulted = false)
    ∧ (crs 2 id id).package 6 = none
    ∧ (let s := crs 2 id fun b => { b with pkg6 := [pkgImg, []], cur6 := some false }
       let u := crs 2 id fun b => { b with pkg6 := [pkgImg.take 260, []], cur6 := some false }
       s.crewMine 6 = true ∧ s.crewIs 6 .customerLoaded = true ∧ s.package 6 = some pkgImg ∧ pkgHash pkgImg = true
       ∧ u.package 6 = some (pkgImg.take 260) ∧ pkgHash (pkgImg.take 260) = false) := by
  decide +kernel
theorem meets_CustomerCrews_stop :
    (crs 2 (fun x => { x with starting := some 9 }) id).crewBusy 6 = true
    ∧ ((crs 2 id id).crewIs 6 .customerRunning = false ∧ (crs 3 id id).crewIs 6 .customerRunning = true)
    ∧ ((5 : Fin 8).val < 6 ∧ (bts id).takes (hd 4) 0x00A2 = true)
    ∧ ((crs 3 (fun x => { x with doneAt := 6000 }) id).stroke = 10000
      ∧ (let s := crs 3 (fun x => { x with doneAt := 6000, owes := 9996 }) id
         s.crewIs 6 .customerRunning = true ∧ (s.crew 6).doneAt + 4000 ≤ s.stroke ∧ s.links.events.length < 255
         ∧ (s.crew 6).owes + 4 ≤ s.stroke ∧ s.declared 6 (s.crew 6).owes = false ∧ s.cnt.crewMissed.length = 8)
      ∧ (crs 3 id id).stroke < { (crs 3 id id).crew 6 with doneAt := 6001 }.doneAt + 4000) := by
  decide +kernel
theorem meets_CustomerCrews_load :
    let ld : Load := { pkgLen := 4, chunkLen := 3, next := 1, got := 3 }
    let s := crs 0 id fun b => { b with crewLoad := [(6, ld)] }
    let u := crs 0 id fun b => { b with crewLoad := [(6, { ld with got := 4, next := 2 })] }
    (s.takes (hd 11) 0x00A0 = true ∧ (hd 11).len = 8 + ([1, 2, 3] : Bytes).length ∧ (524288#32).toNat ≤ 524288 ∧ ([1, 2, 3] : Bytes).length ≤ (4#32).toNat
      ∧ s.crewRefuse 6 = none ∧ (crs 3 id id).crewRefuse 6 = some .locked)
    ∧ (s.takes (hd 9) 0x00A0 = true ∧ (hd 9).len = 8 + ([1] : Bytes).length ∧ findT s.boot.crewLoad 6 = some ld ∧ ld.next = (1#16).toNat
      ∧ ld.pkgLen = (4#32).toNat ∧ ([1] : Bytes).length ≤ ld.chunkLen ∧ ld.got = ld.next * ld.chunkLen ∧ ld.got + ([1] : Bytes).length ≤ ld.pkgLen
      ∧ (1#16) ≠ 0)
    ∧ (u.takes (hd 8) 0x00A0 = true ∧ findT u.boot.crewLoad 6 = some { ld with got := 4, next := 2 } ∧ u.crewRefuse 6 = none)
    ∧ 1 < (2#8).toNat
    ∧ (let v := crs 0 id fun b => { b with crewCommit := [(6, (9, 4))] }
       findT v.boot.crewCommit 6 = some (tg.tag, 4) ∧ (v.crew 6).starting = none ∧ (v.crew 6).stopping = none ∧ (v.crew 6).waits = [] ∧ v.outstanding tg.tag = some tg ∧ v.reachable tg.src = true
       ∧ v.boot.pkg6.length = 2 ∧ v.boot.pkg7.length = 2 ∧ v.crewIs 6 .off = true) := by
  decide +kernel
/-- A package that verifies (the clause of CustomerCrews in which the commit succeeds). -/
theorem meets_CustomerCrews_valid : (bts id).pkgCheck 6 pkgImg = .ok := by decide +kernel

theorem meets_FirmwareAndFieldAccess_update :
    let s := bts id
    let ld : Load := { pkgLen := 257, chunkLen := 257, next := 1, got := 257 }
    let u := bts fun b => { b with fwLoad := some ld }
    let v := bts fun b => { b with fwCommit := some (9, 256), slotB := { bytes := fwImg } }
    (s.takes (hd 265) 0x00D0 = true ∧ (hd 265).len = 8 + fwImg.length ∧ (6291456#32).toNat ≤ 6291456 ∧ fwImg.length ≤ (257#32).toNat
      ∧ s.fwRefuse = none ∧ (bts fun b => { b with trial := true }).fwRefuse = some .locked)
    ∧ (u.takes (hd 8) 0x00D0 = true ∧ u.boot.fwLoad = some ld ∧ ld.got = (257#32).toNat ∧ u.fwRefuse = none)
    ∧ 1 < (2#8).toNat
    ∧ (v.boot.fwCommit = some (tg.tag, 256) ∧ v.outstanding tg.tag = some tg ∧ v.reachable tg.src = true ∧ v.fwTarget = true
      ∧ v.fwCheck ((v.boot.slot true).bytes.take 256) ≠ .ok) := by
  decide +kernel
/-- An image that verifies (the clause in which the commit succeeds), and a response that does. -/
theorem meets_FirmwareAndFieldAccess_valid :
    (bts id).fwCheck fwImg = .ok
    ∧ (bts fun b => { b with rootKey := fieldKey }).signedFor 1 fieldSig
        (List.replicate 16 0 ++ le 8 4 ++ le 1 1 ++ le 1 0 ++ le 2 5 ++ le 4 0x46414331) = true
    ∧ (bts id).signedFor 1 (List.replicate 64 0) [] = false := by
  decide +kernel
theorem meets_FirmwareAndFieldAccess_field :
    let s := bts id
    let c := bts fun b => { b with challenge := some (1, List.replicate 16 0, 5, 95000000) }
    ((bts fun b => { b with resetDue := some 96000000 }).boot.resetDue = some 96000000)
    ∧ (let t := bts fun b => { b with trial := true }; t.boot.trial = true ∧ t.links.ready = true ∧ t.clk.stopped = false)
    ∧ (s.takes (hd 4) 0x00E0 = true ∧ (hd 4).len = 4 ∧ (1#8).toNat ≤ 3 ∧ 3 < (4#8).toNat ∧ (1440#16) ≠ 0 ∧ (1440#16).toNat ≤ 1440
      ∧ 1440 < (1441#16).toNat ∧ c.openChallenge.isSome = true ∧ s.openChallenge = none)
    ∧ (s.takes (hd 64) 0x00E1 = true ∧ (hd 64).len = 64 ∧ fieldSig.length = 64 ∧ c.openChallenge = some (1, List.replicate 16 0, 5))
    ∧ c.boot.challenge = some (1, List.replicate 16 0, 5, 95000000)
    ∧ findT (bts fun b => { b with scopes := [(1, 97000000)] }).boot.scopes (1 : Fin 4).val = some 97000000 := by
  decide +kernel
theorem meets_ResetsAndBoot :
    let s := bts id
    let st := { s with clk := { s.clk with stopped := true }, pwr := { s.pwr with waking := true, st := .ashore } }
    (s.boot.held = false ∧ s.clk.stopped = false ∧ s.pwr.st ≠ .feather ∧ s.pwr.st ≠ .ashore)
    ∧ ((bts fun b => { b with ir := 4 }).boot.ir = 0x04 ∧ (5#5) ≠ (bts fun b => { b with ir := 4 }).boot.ir
      ∧ (bts fun b => { b with ir := 31 }).boot.ir ≠ 0x00 ∧ (bts fun b => { b with ir := 31 }).boot.ir ≠ 0x04
      ∧ (bts fun b => { b with ir := 31 }).boot.ir ≠ 0x05)
    ∧ (st.clk.stopped = true ∧ st.pwr.st = .ashore ∧ st.pwr.waking = true ∧ st.boot.sramCopy ≠ some st.dramCopy
      ∧ { st.boot with sramCopy := some st.dramCopy }.sramCopy = some st.dramCopy ∧ 2 ^ 48 - 1 < 2 ^ 48 ∧ st.clk.ashore.aonEntry ≤ 2 ^ 48 - 1)
    ∧ ({ s with synths := [(2, { w := word 4, lostAt := some 95000000 })] }.synth 2).lostAt.isSome = true
    ∧ (bts fun b => { b with held := true }).boot.held = true := by
  decide +kernel
theorem meets_ResetsAndBoot_boot :
    let b (f : Boot → Boot) : State := bts fun b => f { b with step := 3 }
    ((b id).boot.step ≠ 0 ∧ (b id).boot.held = false ∧ (b id).boot.testMode = false ∧ (b id).slotOk (b id).boot.pick = true
      ∧ (b id).boot.devId = 0x7216 ∧ (b id).boot.stepping = 0xB1 ∧ (b fun b => { b with devId := 5 }).boot.devId ≠ 0x7216
      ∧ (b fun b => { b with devId := 5 }).slotOk (b fun b => { b with devId := 5 }).boot.pick = true)
    ∧ (let n := b fun b => { b with slotA := {} }; n.slotOk n.boot.pick = false ∧ n.slotOk (!n.boot.pick) = false)
    ∧ ((2 : Fin 8).val ≤ 2 ∧ ((b id).boot.slot (b id).boot.pick).failed = false ∧ (3 : Fin 8).val = 3 ∧ (4 : Fin 8).val = 4
      ∧ (5 : Fin 8).val = 5 ∧ (6 : Fin 8).val = 6 ∧ (7 : Fin 8).val = 7) := by
  decide +kernel

/-- The machine with the diagnostic scope open. -/
def dgs (f : Mems → Mems) : State := let s := bts fun b => { b with scopes := [(1, 97000000)] }; { s with mem := f s.mem }

theorem meets_DiagnosticsAndPatrol :
    let s := dgs id
    (s.takes (hd 6) 0x00F0 = true ∧ (hd 6).len = 6 ∧ (bts id).scopeOpen 1 = false ∧ (1444#16) ≠ 0 ∧ (1444#16).toNat ≤ 1444
      ∧ s.mapped 0x04000000 1444 = true ∧ s.mapped 0xFFFFFFFF 2 = false ∧ 4088 < (4089#16).toNat ∧ s.scopeOpen 1 = true)
    ∧ (s.takes (hd 11) 0x00F1 = true ∧ (hd 11).len = 8 + ([1, 2, 3] : Bytes).length ∧ s.mapped (0x04000001#32).toNat 3 = true
      ∧ (∀ i ∈ List.range 3, s.place ((0x04000001#32).toNat + i) = .inst 0) ∧ (s.inst 0).power = 2
      ∧ s.mapped 0x2F000000 3 = true ∧ ∀ i ∈ List.range 3, s.place (0x2F000000 + i) = .diag)
    ∧ (let u := dgs fun m => { m with nextSweep := some 96000500 }
       u.mem.nextSweep = some 96000500 ∧ u.mem.sweep = none ∧ u.pwr.st = .row ∧ (u.inst 0).power = 2 ∧ u.clk.stopped = false ∧ s.mem.nextSweep = none)
    ∧ (let u := dgs fun m => { m with engines := [(0, { left := [0x04000800], now := some (0x04000000, false) }), (1, { now := some (0x20000000, true) })] }
       u.mem.counters.length = 10 ∧ (u.engine (0 : Fin 9)).now = some (0x04000000, false) ∧ u.place 0x04000000 = .inst 0 ∧ 255 < 256
       ∧ (u.engine (1 : Fin 9)).now = some (0x20000000, true) ∧ (u.engine (2 : Fin 9)).now = none) := by
  decide +kernel
theorem meets_DiagnosticsAndPatrol_all : ∀ i : Fin 384, ((dgs id).inst i).power ≠ 1 := by
  intro i
  show (2 : Nat) ≠ 1
  decide
theorem meets_CatchAndCastling :
    let x : Scull := { run := true, halted := false }
    let s := { bts id with arr := { w.arr with sculls := [(3, x), (50, x)] } }
    let c (k : Nat) (e : List OutMsg) : State := { good s with cfg := { (good s).cfg with castle := .armed 9 k false }, links := { s.links with events := e } }
    (s.boot.held = false ∧ s.clk.stopped = false ∧ (findT s.arr.sculls (3 : Fin 64).val).isSome = true ∧ (s.scull (3 : Fin 64)).halted = false
      ∧ (s.scull (3 : Fin 64)).dead = false ∧ (3 : Fin 64).val < 48)
    ∧ ¬ ((bts fun b => { b with held := true }).boot.held = false) ∧ ((s.crew 6).waits = [] ∧ (s.crew 7).waits = [])
    ∧ ((c 10001 []).cfg.castle = .armed 9 10001 false ∧ (c 10001 []).stroke + 1 = 10001 ∧ (c 10001 []).links.events.length < 200
      ∧ 10002 ≠ (c 10002 []).stroke + 1)
    ∧ s.cfg.castle = .idle := by
  decide +kernel

/-! ### The invariant of the byte stores -/

/-- A state whose stores list bytes and meet the invariant, and a step from it. -/
theorem meets_StoresWfInvariant :
    let s := { pws id with pending := [.diagPeek (hd 6) 0 0] }
    s.storesWf = true ∧ s.mem.cells ≠ [] ∧ s.cfg.active ≠ [] ∧ (∃ t, step s = .next t ∧ t.pending = []) := by
  refine ⟨by decide +kernel, by decide +kernel, by decide +kernel, _, rfl, by decide +kernel⟩

end Sys2Proof.Tests
end

/-! ## The reset state, the idle tick and register writes -/

namespace Sys2Proof.Machine

/-- Settles O20: State.reset is written with these values. -/
theorem resetState : Obligations.ResetState := by
  unfold Obligations.ResetState
  refine ⟨rfl, rfl, rfl, rfl, rfl, rfl, rfl, rfl, rfl, rfl, rfl, rfl, rfl, rfl, rfl, rfl, rfl, fun i => ?_, fun i => ?_, rfl, rfl, rfl⟩
  · exact ⟨rfl, rfl, rfl, rfl⟩
  · exact ⟨rfl, rfl, rfl⟩

theorem catches_iff (s : State) : s.catches = true ↔ s.boot.held = false ∧ s.clk.stopped = false := by
  simp [State.catches]

/-- While DTIME does not count, a reference cycle changes nothing (R7). -/
theorem tick_still (s : State) (h : s.boot.held = true ∨ s.clk.stopped = true) : s.tick = s := by
  have hc : s.catches = false := by rcases h with h | h <;> simp [State.catches, h]
  simp [State.tick, hc]

/-- Within a stroke a reference cycle counts in DTIME and does nothing else (R7). -/
theorem tick_counts (s : State) (hc : s.catches = true) (ht : s.dtime + 1 < strokeLen * (s.stroke + 1)) :
    s.tick = { s with dtime := s.dtime + 1 } := by
  simp [State.tick, hc, ht]

/-- Settles O19: a step on the empty queue is a tick. -/
theorem idleTick : Obligations.IdleTick := by
  intro s hp
  have hs : step s = .next s.tick := by simp only [step, hp]
  refine ⟨fun h => ?_, fun hh hc ht => ?_⟩
  · rw [hs, tick_still s h]
  · rw [hs, tick_counts s ((catches_iff s).2 ⟨hh, hc⟩) ht]

/-! ### Register writes (R13, R52, R82, R366, R400) -/

/-- A DMA register of a scull is written in that scull. -/
theorem scull_dmaPut (s : State) (c ofs : Nat) (v : U32) :
    (s.dmaPut c ofs v).scull c
      = { (s.scull c).dmaWrite ofs v with dmaAt := if (s.scull c).dmaQ.isEmpty then s.dtime else (s.scull c).dmaAt } := by
  simp [State.dmaPut, State.onScull]

/-- The length register keeps 24 bits (R400). -/
theorem toNat_and_24bits (v : U32) : (v &&& 0x00FFFFFF#32).toNat = v.toNat % 2 ^ 24 := by
  rw [BitVec.toNat_and]
  exact Nat.and_two_pow_sub_one_eq_mod v.toNat 24

/-- A register below 8 is a data register, which no late read holds back: its low half is replaced and nothing else changes (R366). -/
theorem write_dataReg (s : State) (c : Fin 64) (r : BitVec 3) (v : U32) :
    exec (.registerWrite (.scull c (r.zeroExtend 7)) v) s
      = .next (s.onScull c fun x => { x with d := setAt (v.extractLsb' 0 16) x.d r.toNat }) := by
  have hr : r.toNat < 8 := r.isLt
  have hcode : (r.zeroExtend 7).toNat = r.toNat := by
    rw [BitVec.toNat_setWidth]
    exact Nat.mod_eq_of_lt (by omega)
  have hlate : lateReg r.toNat = false := by
    simp [lateReg, show ¬ 8 ≤ r.toNat by omega, show r.toNat ≠ 0x44 by omega, show r.toNat ≠ 0x45 by omega, show r.toNat ≠ 0x47 by omega]
  show execRegisterWrite (.scull c (r.zeroExtend 7)) v s = _
  simp only [execRegisterWrite, hcode, State.writeReg, if_pos hr, Scull.keepOld, hlate]
  simp [State.onScull]

/-- A first bump in a reference cycle advances GEN and leaves STATE (R82). -/
theorem bump_first (w : Word) (t : Nat) (h : w.genAt ≠ some t) : (w.bump t).gen = w.gen + 1 ∧ (w.bump t).st = w.st := by
  simp [Word.bump, h]

/-- The BUMP field of a chain acts on that chain's word. -/
theorem write_bump_chain (s : State) (ch : Fin 5) (v : U32) (h : v.getLsbD 7 = true) :
    exec (.registerWrite (.bump 1 ch) v) s = .next (s.onChain ch fun y => { y with w := (s.chain ch).w.bump s.dtime }) := by
  show execRegisterWrite (.bump 1 ch) v s = _
  simp [execRegisterWrite, h, unitCount, State.wordOf, State.setWord]

/-- Settles O17, register by register. -/
theorem registerWrites : Obligations.RegisterWrites := by
  intro v c s
  refine ⟨⟨_, rfl, rfl, rfl⟩, ⟨_, rfl, rfl, rfl⟩, ?_, ?_, ?_, fun r => ?_, fun ch hv hg => ?_⟩
  · exact ⟨s.dmaPut c 0 v, rfl, by simp [scull_dmaPut, Scull.dmaWrite], by simp [scull_dmaPut, Scull.dmaWrite]⟩
  · exact ⟨s.dmaPut c 4 v, rfl, by simp [scull_dmaPut, Scull.dmaWrite]⟩
  · exact ⟨s.dmaPut c 8 v, rfl, by rw [scull_dmaPut]; exact toNat_and_24bits v⟩
  · exact ⟨_, write_dataReg s c r v, by simp [State.onScull], by simp [State.onScull]⟩
  · exact ⟨_, write_bump_chain s ch v hv, by simpa [State.onChain] using bump_first (s.chain ch).w s.dtime hg⟩

end Sys2Proof.Machine

/-! ## Two statements that miss a hypothesis on the state -/

namespace Sys2Proof.Machine

/-! ### A poke of a byte that memory lists twice -/

/-- A machine in service with the diagnostic scope open, whose memory lists the byte at address 3 twice: no canonical form (log 2), and so
no state that a run from reset reaches. -/
def doubledByte : State :=
  { State.reset with links := { ready := true }, boot := { scopes := [(1, 1)] }, mem := { cells := [(3, 1), (3, 2)] } }

/-- The header of a DIAG_POKE of one byte over SPI. -/
def onePokeHdr : Hdr := { src := .spi, tag := 5, version := 1, rsv := 0, flags := 0, status := 0, len := 9, crc := 77 }

/-- A zero poked there takes the first entry out of the list, and the second one shows. -/
theorem poke_doubledByte : ∃ t, exec (.diagPoke onePokeHdr 3 1 0 [0]) doubledByte = .next t ∧ t.memByte 3 = 2 :=
  ⟨_, rfl, by decide +kernel⟩

/-- Refutes O56: the statement asks that a poked byte reads back in every state, and does not ask that memory is in its canonical form;
in `doubledByte` a zero poked at address 3 reads back as 2. -/
theorem not_diagnosticsAndPatrol : ¬ Obligations.DiagnosticsAndPatrol := by
  intro h
  obtain ⟨-, hpoke, -⟩ := h onePokeHdr doubledByte
  obtain ⟨-, hopen⟩ := hpoke 3 [0] (by decide +kernel) rfl (by decide) (by decide +kernel)
  obtain ⟨-, hplain⟩ := hopen (by decide +kernel) fun i => (by decide : (2 : Nat) ≠ 1)
  obtain ⟨t, ht, -, -, hbytes⟩ := hplain fun i hi => by
    obtain rfl : i = 0 := by simpa using hi
    exact .inl (by decide +kernel)
  obtain ⟨u, hu, h2⟩ := poke_doubledByte
  obtain rfl : t = u := Host.Outcome.next.inj (ht.symm.trans hu)
  have h0 : t.memByte 3 = 0 := by
    have hr : doubledByte.reservedAt 3 = 0 := by decide +kernel
    simpa [hr] using hbytes 3
  exact absurd (h0.symm.trans h2) (by decide)

/-! ### A dead scull of a Molrel crew whose word says that a customer runs it -/

/-- Scull 3 runs and scull 4 is dead, both of crew 0, whose state word says CUSTOMER_RUNNING: only crews 6 and 7 can be a customer's
(R463), so no run from reset reaches it. -/
def deadNeighbour : State :=
  { State.reset with arr := { sculls := [(3, { run := true, halted := false }), (4, { dead := true })], crews := [(0, { w := { st := 3 } })] } }

/-- A catch with nothing sampled. -/
def emptyCatch : CatchIn :=
  { peaks := [], aonEdges := 0, extraLoad := [], bins := [], streams := [], dieTemp := 0, oscCount := 0, fsEdges := [], vhf := [], lfmf := [] }

/-- The catch finds scull 4 dead and halts the whole crew before it signals (R352), so that scull 3 keeps its old STROKE_LO. -/
theorem catch_deadNeighbour : ∃ t, exec (.strokeCatch emptyCatch) deadNeighbour = .next t ∧ (t.scull 3).stkLo = 0 :=
  ⟨_, rfl, by decide +kernel⟩

/-- Refutes O57: the statement asks that every running scull below 48 is signalled, and does not ask that crews 0 to 5 belong to Molrel;
in `deadNeighbour` the catch of stroke 1 halts scull 3 with its crew and leaves its STROKE_LO at 0. -/
theorem not_catchAndCastling : ¬ Obligations.CatchAndCastling := by
  intro h
  obtain ⟨hcatch, -⟩ := h emptyCatch deadNeighbour
  obtain ⟨t, ht, -, -, -, -, -, hsignal⟩ := hcatch ⟨rfl, rfl⟩
  obtain ⟨h1, -⟩ := hsignal 3 rfl rfl rfl (by decide)
  obtain ⟨u, hu, h0⟩ := catch_deadNeighbour
  obtain rfl : t = u := Host.Outcome.next.inj (ht.symm.trans hu)
  exact absurd (h1.symm.trans h0) (by decide)

end Sys2Proof.Machine

/-! ## The boot state and READY under what a castling and the boot sequence do

Nothing that a castling, a crew or trim does touches the boot state or the READY bit: one lemma for each operation that the end of the boot
sequence runs, each from those of what it calls. -/

namespace Sys2Proof.Machine

/-- The boot state and the READY bit. -/
def State.bootView (s : State) : Boot × Bool := (s.boot, s.links.ready)

theorem State.boot_of_bootView {t : State} {v : Boot × Bool} (h : t.bootView = v) : t.boot = v.1 := congrArg Prod.fst h
theorem State.ready_of_bootView {t : State} {v : Boot × Bool} (h : t.bootView = v) : t.links.ready = v.2 := congrArg Prod.snd h

@[simp] theorem State.ite_bootView (c : Prop) [Decidable c] (a b : State) :
    (if c then a else b).bootView = if c then a.bootView else b.bootView := apply_ite _ _ _ _

@[simp] theorem State.each_bootView {α : Type} (s : State) (l : List α) (f : State → α → State) (h : ∀ s a, (f s a).bootView = s.bootView) :
    (s.each l f).bootView = s.bootView :=
  State.each_keeps (P := fun t => t.bootView = s.bootView) (fun t a ht => (h t a).trans ht) l s rfl

@[simp] theorem State.onLinks_bootView (s : State) (f : Links → Links) (h : ∀ l, (f l).ready = l.ready) :
    (s.onLinks f).bootView = s.bootView := by
  simp [State.bootView, h]
@[simp] theorem State.onCfg_bootView (s : State) (f : ConfigSets → ConfigSets) : (s.onCfg f).bootView = s.bootView := by rfl

/-! ### One part changed -/

@[simp] theorem State.onCnt_bootView (s : State) (f : Counters → Counters) : (s.onCnt f).bootView = s.bootView := by rfl
@[simp] theorem State.onDlv_bootView (s : State) (f : Delivery → Delivery) : (s.onDlv f).bootView = s.bootView := by rfl
@[simp] theorem State.onRx_bootView (s : State) (f : Reception → Reception) : (s.onRx f).bootView = s.bootView := by rfl
@[simp] theorem State.onCap_bootView (s : State) (f : CapCounters → CapCounters) : (s.onCap f).bootView = s.bootView := by rfl
@[simp] theorem State.onTrim_bootView (s : State) (f : Trim → Trim) : (s.onTrim f).bootView = s.bootView := by rfl
@[simp] theorem State.onTx_bootView (s : State) (f : Transmit → Transmit) : (s.onTx f).bootView = s.bootView := by rfl
@[simp] theorem State.onBc_bootView (s : State) (f : Broadcast → Broadcast) : (s.onBc f).bootView = s.bootView := by rfl
@[simp] theorem State.onTime_bootView (s : State) (f : TimeD → TimeD) : (s.onTime f).bootView = s.bootView := by rfl
@[simp] theorem State.onLeak_bootView (s : State) (f : Leak → Leak) : (s.onLeak f).bootView = s.bootView := by rfl
@[simp] theorem State.onMem_bootView (s : State) (f : Mems → Mems) : (s.onMem f).bootView = s.bootView := by rfl
@[simp] theorem State.onPwr_bootView (s : State) (f : Power → Power) : (s.onPwr f).bootView = s.bootView := by rfl
@[simp] theorem State.onPins_bootView (s : State) (f : Pins → Pins) : (s.onPins f).bootView = s.bootView := by rfl
@[simp] theorem State.draw_bootView (s : State) : s.draw.bootView = s.bootView := by rfl
@[simp] theorem State.onSynth_bootView (s : State) (i : Nat) (f : Synth → Synth) : (s.onSynth i f).bootView = s.bootView := by rfl
@[simp] theorem State.onChain_bootView (s : State) (i : Nat) (f : Chain → Chain) : (s.onChain i f).bootView = s.bootView := by rfl
@[simp] theorem State.onGain_bootView (s : State) (i : Nat) (f : Gain → Gain) : (s.onGain i f).bootView = s.bootView := by rfl
@[simp] theorem State.onLane_bootView (s : State) (i : Nat) (f : Lane → Lane) : (s.onLane i f).bootView = s.bootView := by rfl
@[simp] theorem State.onCtx_bootView (s : State) (i : Nat) (f : Ctx → Ctx) : (s.onCtx i f).bootView = s.bootView := by rfl
@[simp] theorem State.onGroup_bootView (s : State) (i : Nat) (f : Group → Group) : (s.onGroup i f).bootView = s.bootView := by rfl
@[simp] theorem State.onTdm_bootView (s : State) (f : Tdm → Tdm) : (s.onTdm f).bootView = s.bootView := by rfl
@[simp] theorem State.onCircuit_bootView (s : State) (i : Nat) (f : Circuit → Circuit) : (s.onCircuit i f).bootView = s.bootView := by rfl
@[simp] theorem State.onCrew_bootView (s : State) (i : Nat) (f : Crew → Crew) : (s.onCrew i f).bootView = s.bootView := by rfl
@[simp] theorem State.onInst_bootView (s : State) (i : Nat) (f : Inst → Inst) : (s.onInst i f).bootView = s.bootView := by rfl
@[simp] theorem State.onTxb_bootView (s : State) (b : Band) (f : TxBand → TxBand) :
    (s.onTxb b f).bootView = s.bootView := by
  cases b <;> rfl
@[simp] theorem State.onEngine_bootView (s : State) (e : Nat) (f : Patrol → Patrol) : (s.onEngine e f).bootView = s.bootView := by rfl

/-! ### Console, events, replies and delivery -/

@[simp] theorem State.console_bootView (s : State) (text : String) : (s.console text).bootView = s.bootView := by simp [State.console]
@[simp] theorem State.fallLine_bootView (s : State) (what : String) : (s.fallLine what).bootView = s.bootView := by simp [State.fallLine]
@[simp] theorem State.pushEvent_bootView (s : State) (code kind gen idx : Nat) (fields : Bytes) :
    (s.pushEvent code kind gen idx fields).bootView = s.bootView := by
  simp [State.pushEvent]
@[simp] theorem State.flagFall_bootView (s : State) (source detail : Nat) : (s.flagFall source detail).bootView = s.bootView :=
  by simp [State.flagFall]
@[simp] theorem State.missedEvent_bootView (s : State) : s.missedEvent.bootView = s.bootView := by
  unfold State.missedEvent
  simp
@[simp] theorem State.dropEvent_bootView (s : State) : s.dropEvent.bootView = s.bootView := by simp [State.dropEvent]
@[simp] theorem State.progressEvent_bootView (s : State) (tag : U16) (code old new total : Nat) :
    (s.progressEvent tag code old new total).bootView = s.bootView :=
  by simp [State.progressEvent]
@[simp] theorem State.progress_bootView (s : State) (tag : U16) (done total : Nat) : (s.progress tag done total).bootView = s.bootView := by
  unfold State.progress
  split <;> simp
@[simp] theorem State.umpireDeny_bootView (s : State) (tag rule reason : Nat) : (s.umpireDeny tag rule reason).bootView = s.bootView :=
  by simp [State.umpireDeny]
@[simp] theorem State.refreshIrq_bootView (s : State) : s.refreshIrq.bootView = s.bootView := by rfl
@[simp] theorem State.setIrq_bootView (s : State) (bits : U16) : (s.setIrq bits).bootView = s.bootView := by rfl
@[simp] theorem State.refreshEth_bootView (s : State) : s.refreshEth.bootView = s.bootView := by rfl
@[simp] theorem State.phyStart_bootView (s : State) : s.phyStart.bootView = s.bootView := by simp [State.phyStart]
@[simp] theorem State.post_bootView (s : State) (m : OutMsg) : (s.post m).bootView = s.bootView := by simp [State.post]
@[simp] theorem State.final_bootView (s : State) (src : Src) (op : Nat) (tag : U16) (crc : U32) (st : Status) (payload : Bytes) :
    (s.final src op tag crc st payload).bootView = s.bootView :=
  by simp [State.final]
@[simp] theorem State.finish_bootView (s : State) (tag : U16) (st : Status) (payload : Bytes) :
    (s.finish tag st payload).bootView = s.bootView := by
  unfold State.finish
  split <;> simp
@[simp] theorem State.closeBatch_bootView (s : State) : s.closeBatch.bootView = s.bootView := by
  unfold State.closeBatch
  split <;> simp
@[simp] theorem State.intoBatch_bootView (s : State) (dst : Src) (r : Rec) (new : Bool) :
    (s.intoBatch dst r new).bootView = s.bootView := by
  unfold State.intoBatch
  split
  · rfl
  · dsimp only
    split <;> simp
@[simp] theorem State.pump_bootView (s : State) : s.pump.bootView = s.bootView := by
  unfold State.pump
  split <;> simp
@[simp] theorem State.deliver_bootView (s : State) (mk : U32 → Bytes) : (s.deliver mk).bootView = s.bootView := by
  simp [State.deliver]
@[simp] theorem State.resendAll_bootView (s : State) (p : U32 → Bool) : (s.resendAll p).bootView = s.bootView := by rfl
@[simp] theorem State.closeTransport_bootView (s : State) (udp : Bool) : (s.closeTransport udp).bootView = s.bootView := by
  unfold State.closeTransport
  dsimp only
  split <;> simp

/-! ### Synthesisers, chains, lanes and gains -/

@[simp] theorem State.moveSyn_bootView (s : State) (i : Nat) (x : SynSt) : (s.moveSyn i x).bootView = s.bootView := by rfl
@[simp] theorem State.lockSyn_bootView (s : State) (y : Nat) : (s.lockSyn y).bootView = s.bootView := by rfl
@[simp] theorem State.useEntry_bootView (s : State) (y : Nat) (e : BandEntry) : (s.useEntry y e).bootView = s.bootView := by rfl
@[simp] theorem State.rememberBand_bootView (s : State) (y : Nat) (band : BitVec 6) (margin : Nat) :
    (s.rememberBand y band margin).bootView = s.bootView := by
  unfold State.rememberBand
  dsimp only
  split <;> simp
@[simp] theorem State.lockOwn_bootView (s : State) (y : Nat) : (s.lockOwn y).bootView = s.bootView := by simp [State.lockOwn]
@[simp] theorem State.aimSyn_bootView (s : State) (y n d : Nat) : (s.aimSyn y n d).bootView = s.bootView := by rfl
@[simp] theorem State.startSyn_bootView (s : State) (y n d : Nat) : (s.startSyn y n d).bootView = s.bootView := by rfl
@[simp] theorem State.runSyn_bootView (s : State) (y n d : Nat) : (s.runSyn y n d).bootView = s.bootView := by simp [State.runSyn]
@[simp] theorem State.hopSyn_bootView (s : State) (y n d : Nat) : (s.hopSyn y n d).bootView = s.bootView := by rfl
@[simp] theorem State.wantSyn_bootView (s : State) (chain y : Nat) : (s.wantSyn chain y).bootView = s.bootView := by simp [State.wantSyn]
@[simp] theorem State.needSyn_bootView (s : State) (chain : Nat) : (s.needSyn chain).bootView = s.bootView := by
  unfold State.needSyn
  dsimp only
  split <;> simp
@[simp] theorem State.goChain_bootView (s : State) (i : Nat) (target : ChainSt) : (s.goChain i target).bootView = s.bootView :=
  by simp [State.goChain]
@[simp] theorem State.sendChain_bootView (s : State) (i : Nat) (st : ChainSt) :
    (s.sendChain i st).bootView = s.bootView := by simp [State.sendChain]
@[simp] theorem State.turnLane_bootView (s : State) (i : Nat) (run clear : Bool) (arm : Nat) :
    (s.turnLane i run clear arm).bootView = s.bootView :=
  by rfl
@[simp] theorem State.restartLane_bootView (s : State) (i : Nat) : (s.restartLane i).bootView = s.bootView := by rfl
@[simp] theorem State.moveLane_bootView (s : State) (i : Nat) (x : LaneSt) : (s.moveLane i x).bootView = s.bootView := by rfl
@[simp] theorem State.followLane_bootView (s : State) (i : Nat) : (s.followLane i).bootView = s.bootView := by simp [State.followLane]
@[simp] theorem State.followLanes_bootView (s : State) (pair : Nat) :
    (s.followLanes pair).bootView = s.bootView := by simp [State.followLanes]
@[simp] theorem State.followAll_bootView (s : State) : s.followAll.bootView = s.bootView := by simp [State.followAll]
@[simp] theorem State.cutLanes_bootView (s : State) (pair : Nat) : (s.cutLanes pair).bootView = s.bootView := by simp [State.cutLanes]
@[simp] theorem State.setTuner_bootView (s : State) (pair series shunt : Nat) : (s.setTuner pair series shunt).bootView = s.bootView :=
  by simp [State.setTuner]
@[simp] theorem State.fixTuners_bootView (s : State) : s.fixTuners.bootView = s.bootView := by simp [State.fixTuners]
@[simp] theorem State.setStep_bootView (s : State) (p g : Nat) : (s.setStep p g).bootView = s.bootView := by rfl
@[simp] theorem State.fixGains_bootView (s : State) : s.fixGains.bootView = s.bootView := by simp [State.fixGains]
@[simp] theorem State.setWord_bootView (s : State) (kind idx : Nat) (w : Word) : (s.setWord kind idx w).bootView = s.bootView := by
  unfold State.setWord
  split <;> simp
@[simp] theorem State.bumpUnit_bootView (s : State) (kind idx : Nat) : (s.bumpUnit kind idx).bootView = s.bootView := by
  unfold State.bumpUnit
  split <;> simp
@[simp] theorem State.bumpUnits_bootView (s : State) (old new : List Host.Cell) : (s.bumpUnits old new).bootView = s.bootView :=
  by simp [State.bumpUnits]

/-! ### Contexts -/

@[simp] theorem State.giveUp_bootView (s : State) (l : List Held) : (s.giveUp l).bootView = s.bootView := by rfl
@[simp] theorem State.dropTail_bootView (s : State) (i : Nat) : (s.dropTail i).bootView = s.bootView := by rfl
@[simp] theorem State.dropKept_bootView (s : State) (i : Nat) : (s.dropKept i).bootView = s.bootView := by rfl
@[simp] theorem State.freeOne_bootView (s : State) (i : Nat) : (s.freeOne i).bootView = s.bootView := by
  simp [State.freeOne]
@[simp] theorem State.resolveOnce_bootView (s : State) (lane : Nat) :
    (s.resolveOnce lane).bootView = s.bootView := by simp [State.resolveOnce]
@[simp] theorem State.resolveWaiting_bootView (s : State) (lane : Nat) : (s.resolveWaiting lane).bootView = s.bootView :=
  by simp [State.resolveWaiting]
@[simp] theorem State.endOne_bootView (s : State) (i : Nat) : (s.endOne i).bootView = s.bootView := by
  simp [State.endOne]
@[simp] theorem State.settleCtx_bootView (s : State) (i : Nat) : (s.settleCtx i).bootView = s.bootView := by
  unfold State.settleCtx
  split <;> simp
@[simp] theorem State.endCtx_bootView (s : State) (i : Nat) : (s.endCtx i).bootView = s.bootView := by simp [State.endCtx]
@[simp] theorem State.abortCtx_bootView (s : State) (event : Bool) (i : Nat) :
    (s.abortCtx event i).bootView = s.bootView := by simp [State.abortCtx]
@[simp] theorem State.abortWhere_bootView (s : State) (p : Ctx → Bool) :
    (s.abortWhere p).bootView = s.bootView := by simp [State.abortWhere]

/-! ### Memory and crews -/

@[simp] theorem State.countMem_bootView (s : State) (i : Nat) : (s.countMem i).bootView = s.bootView := by rfl
@[simp] theorem State.setBorrowed_bootView (s : State) (w : Nat) (b : Bool) : (s.setBorrowed w b).bootView = s.bootView := by
  unfold State.setBorrowed
  split <;> simp
@[simp] theorem State.patrolStep_bootView (s : State) (k : Nat) : (s.patrolStep k).bootView = s.bootView := by
  unfold State.patrolStep
  split <;> simp
@[simp] theorem State.endSweep_bootView (s : State) : s.endSweep.bootView = s.bootView := by simp [State.endSweep]
@[simp] theorem State.nextWindow_bootView (s : State) (e fuel : Nat) : (s.nextWindow e fuel).bootView = s.bootView := by
  induction fuel generalizing s with
  | zero => rfl
  | succ f ih =>
    unfold State.nextWindow
    dsimp only
    split
    · rfl
    split
    · rfl
    split <;> simp [ih]
@[simp] theorem State.releaseWindow_bootView (s : State) (e w : Nat) (again : Bool) : (s.releaseWindow e w again).bootView = s.bootView :=
  by simp [State.releaseWindow]
@[simp] theorem State.leaveOn_bootView (s : State) (n : Nat) : (s.leaveOn n).bootView = s.bootView := by
  unfold State.leaveOn
  dsimp only
  split <;> simp
@[simp] theorem State.loseInst_bootView (s : State) (n : Nat) : (s.loseInst n).bootView = s.bootView := by rfl
@[simp] theorem State.setPower_bootView (s : State) (n p : Nat) : (s.setPower n p).bootView = s.bootView := by simp [State.setPower]
@[simp] theorem State.setPowers_bootView (s : State) (l : List Nat) (p : Nat) :
    (s.setPowers l p).bootView = s.bootView := by simp [State.setPowers]
@[simp] theorem State.clearInst_bootView (s : State) (n : Nat) : (s.clearInst n).bootView = s.bootView := by rfl
@[simp] theorem State.clearCrew_bootView (s : State) (c : Nat) : (s.clearCrew c).bootView = s.bootView := by
  have h : ((s.setPowers (crewInsts c) 2).each (crewInsts c) State.clearInst).bootView = s.bootView := by simp
  unfold State.clearCrew
  simpa only [State.bootView] using h
@[simp] theorem State.moveCrew_bootView (s : State) (i : Nat) (x : CrewSt) : (s.moveCrew i x).bootView = s.bootView := by rfl
@[simp] theorem State.pokeByte_bootView (s : State) (a : Nat) (b : U8) : (s.pokeByte a b).bootView = s.bootView := by
  unfold State.pokeByte
  split <;> simp
@[simp] theorem State.pokeBytes_bootView (s : State) (a : Nat) (b : Bytes) : (s.pokeBytes a b).bootView = s.bootView := by
  induction b generalizing s a with
  | nil => rfl
  | cons c b ih => simp [State.pokeBytes, ih]
@[simp] theorem State.loadCrew_bootView (s : State) (c : Nat) (b : Bytes) : (s.loadCrew c b).bootView = s.bootView := by
  unfold State.loadCrew
  rw [State.each_bootView _ _ _ fun s g => by split <;> simp, State.clearCrew_bootView]
@[simp] theorem State.changeCrew_bootView (s : State) (old new : List Host.Cell) (c : Nat) :
    (s.changeCrew old new c).bootView = s.bootView :=
  by simp [State.changeCrew]

/-! ### Trim -/

@[simp] theorem State.trimStep_bootView (s : State) (ofRun failed : Bool) : (s.trimStep ofRun failed).bootView = s.bootView := by
  unfold State.trimStep
  split
  · rfl
  · split <;> simp
@[simp] theorem State.trimLost_bootView (s : State) (ofRun : Bool) : (s.trimLost ofRun).bootView = s.bootView := by simp [State.trimLost]
@[simp] theorem State.trimSkip_bootView (s : State) (code : Nat) (ofRun failed mark : Bool) :
    (s.trimSkip code ofRun failed mark).bootView = s.bootView :=
  by simp [State.trimSkip]
@[simp] theorem State.trimNext_bootView (s : State) (fuel : Nat) : (s.trimNext fuel).bootView = s.bootView := by
  induction fuel generalizing s with
  | zero => rfl
  | succ f ih =>
    unfold State.trimNext
    split
    · rfl
    split
    · rfl
    dsimp only
    split
    · simp [ih]
    split
    · simp [ih]
    split <;> simp [ih]
@[simp] theorem State.noteBlank_bootView (s : State) (b : Band) (t0 t1 : Nat) : (s.noteBlank b t0 t1).bootView = s.bootView :=
  by simp [State.noteBlank]
@[simp] theorem State.trimBlank_bootView (s : State) (n : TrimNow) (till : Nat) : (s.trimBlank n till).bootView = s.bootView := by
  unfold State.trimBlank
  split <;> simp
@[simp] theorem State.addDuty_bootView (s : State) (rule a b : Nat) : (s.addDuty rule a b).bootView = s.bootView := by rfl
@[simp] theorem State.trimDuty_bootView (s : State) (n : TrimNow) : (s.trimDuty n).bootView = s.bootView := by
  unfold State.trimDuty
  dsimp only
  split
  · rfl
  · split <;> simp
@[simp] theorem State.trimAbort_bootView (s : State) : s.trimAbort.bootView = s.bootView := by
  unfold State.trimAbort
  split <;> simp
@[simp] theorem State.trimLoseChain_bootView (s : State) (chain : Nat) : (s.trimLoseChain chain).bootView = s.bootView :=
  by simp [State.trimLoseChain]
@[simp] theorem State.trimEndChain_bootView (s : State) (chain : Nat) :
    (s.trimEndChain chain).bootView = s.bootView := by simp [State.trimEndChain]
@[simp] theorem State.trimServe_bootView (s : State) : s.trimServe.bootView = s.bootView := by simp [State.trimServe]
@[simp] theorem State.trimAuto_bootView (s : State) (codes : List Nat) (boot : Bool) : (s.trimAuto codes boot).bootView = s.bootView :=
  by simp [State.trimAuto]

/-! ### Streams, leak, pulses, broadcast and power -/

@[simp] theorem State.changeGroup_bootView (s : State) (old new : List Host.Cell) (castled : Bool) (g : Nat) :
    (s.changeGroup old new castled g).bootView = s.bootView :=
  by simp [State.changeGroup]
@[simp] theorem State.tdmRestart_bootView (s : State) : s.tdmRestart.bootView = s.bootView := by rfl
@[simp] theorem State.changeTdm_bootView (s : State) (old new : List Host.Cell) : (s.changeTdm old new).bootView = s.bootView :=
  by simp [State.changeTdm]
@[simp] theorem State.sendLeak_bootView (s : State) (t : Nat) (b : Bytes) :
    (s.sendLeak t b).bootView = s.bootView := by simp [State.sendLeak]
@[simp] theorem State.abandonLeak_bootView (s : State) : s.abandonLeak.bootView = s.bootView := by
  unfold State.abandonLeak
  split <;> simp
@[simp] theorem State.changeLeak_bootView (s : State) (old : List Host.Cell) :
    (s.changeLeak old).bootView = s.bootView := by simp [State.changeLeak]
@[simp] theorem State.setPulse_bootView (s : State) (g : Nat) (on : Bool) : (s.setPulse g on).bootView = s.bootView := by rfl
@[simp] theorem State.restartPulses_bootView (s : State) (c : Nat) : (s.restartPulses c).bootView = s.bootView := by rfl
@[simp] theorem State.changePulses_bootView (s : State) (old : List Host.Cell) (c : Nat) : (s.changePulses old c).bootView = s.bootView :=
  by simp [State.changePulses]
@[simp] theorem State.pmbusSend_bootView (s : State) (l : List (Nat × Nat)) : (s.pmbusSend l).bootView = s.bootView := by rfl
@[simp] theorem State.changeVolt_bootView (s : State) : s.changeVolt.bootView = s.bootView := by simp [State.changeVolt]
@[simp] theorem State.changeFloor_bootView (s : State) (old new : List Host.Cell) : (s.changeFloor old new).bootView = s.bootView :=
  by simp [State.changeFloor]
@[simp] theorem State.startStates_bootView (s : State) : s.startStates.bootView = s.bootView := by
  simp [State.startStates]
@[simp] theorem State.closePair_bootView (s : State) (pair : Nat) : (s.closePair pair).bootView = s.bootView := by simp [State.closePair]
@[simp] theorem State.setPolicy_bootView (s : State) (policy deepest : Nat) : (s.setPolicy policy deepest).bootView = s.bootView :=
  by simp [State.setPolicy]
@[simp] theorem State.muteTune_bootView (s : State) (lf : Bool) : (s.muteTune lf).bootView = s.bootView := by rfl
@[simp] theorem State.tuneVhf_bootView (s : State) (f : Nat) (tag : U16) :
    (s.tuneVhf f tag).bootView = s.bootView := by simp [State.tuneVhf]
@[simp] theorem State.tuneLfmf_bootView (s : State) (f profile : Nat) (tag : U16) :
    (s.tuneLfmf f profile tag).bootView = s.bootView := by rfl
@[simp] theorem State.chooseSource_bootView (s : State) : s.chooseSource.bootView = s.bootView := by simp [State.chooseSource]

/-! ### A new active set, and the boot sequence -/

@[simp] theorem State.changeLo_bootView (s : State) (old new : List Host.Cell) (pair : Nat) :
    (s.changeLo old new pair).bootView = s.bootView :=
  by simp [State.changeLo]
@[simp] theorem State.changeLane_bootView (s : State) (old new : List Host.Cell) (i : Nat) :
    (s.changeLane old new i).bootView = s.bootView :=
  by simp [State.changeLane]
@[simp] theorem State.changeChains_bootView (s : State) (old new : List Host.Cell) : (s.changeChains old new).bootView = s.bootView :=
  by simp [State.changeChains]
@[simp] theorem State.changeDelivery_bootView (s : State) (old new : List Host.Cell) : (s.changeDelivery old new).bootView = s.bootView :=
  by simp [State.changeDelivery]
@[simp] theorem State.castleOnly_bootView (s : State) (old new : List Host.Cell) : (s.castleOnly old new).bootView = s.bootView :=
  by simp [State.castleOnly]
@[simp] theorem State.adopt_bootView (s : State) (new : List Host.Cell) (castled : Bool) : (s.adopt new castled).bootView = s.bootView :=
  by simp [State.adopt]
@[simp] theorem State.castleNow_bootView (s : State) (stroke : Nat) :
    (s.castleNow stroke).bootView = s.bootView := by simp [State.castleNow]
@[simp] theorem State.restoreLedger_bootView (s : State) : s.restoreLedger.bootView = s.bootView := by
  unfold State.restoreLedger
  dsimp only
  split <;> simp
@[simp] theorem State.loadImage_bootView (s : State) : s.loadImage.bootView = s.bootView := by
  unfold State.loadImage
  split <;> simp
@[simp] theorem State.bootLines_bootView (s : State) (steps : Nat) : (s.bootLines steps).bootView = s.bootView := by simp [State.bootLines]
@[simp] theorem State.bootCrew_bootView (s : State) (c : Nat) : (s.bootCrew c).bootView = s.bootView := by simp [State.bootCrew]

end Sys2Proof.Machine

/-! ## Resets and boot -/

namespace Sys2Proof.Machine

/-! ### Resets -/

/-- The flash, the fuses and the rule card, as far as a reset is asked to keep them (R411, R456). -/
def State.flash (s : State) : Bytes × Bytes × Nat × Bytes × List Bytes × List Bytes × Option RuleCard :=
  (s.boot.slotA.bytes, s.boot.slotB.bytes, s.boot.rollback, s.boot.rootKey, s.boot.pkg6, s.boot.pkg7, s.tx.card)

/-- `t` is what a reset of `s` for a cause leaves, but for PD_AON and the boot sequence (R7, R411, R456). -/
def State.Wiped (s t : State) (c : ResetCause) : Prop :=
  t.boot.cause = c ∧ t.dtime = 0 ∧ t.stroke = 0 ∧ t.links.ready = false ∧ t.links.tags = [] ∧ t.links.waiting = [] ∧ t.links.events = []
    ∧ t.links.inFifo = [] ∧ t.dlv = State.reset.dlv ∧ t.cfg = State.reset.cfg ∧ t.rx = State.reset.rx ∧ t.dir.entries = []
    ∧ t.arr = State.reset.arr ∧ t.pwr.st = .row ∧ t.time = State.reset.time ∧ t.boot.slotA.bytes = s.boot.slotA.bytes
    ∧ t.boot.slotB.bytes = s.boot.slotB.bytes ∧ t.boot.rollback = s.boot.rollback ∧ t.boot.rootKey = s.boot.rootKey ∧ t.boot.pkg6 = s.boot.pkg6 ∧ t.boot.pkg7 = s.boot.pkg7
    ∧ t.tx.card = s.tx.card

/-- `t` keeps PD_AON of `s` and has begun to boot (R411, R456). -/
def State.Reboots (s t : State) : Prop :=
  t.trim.values = s.trim.values ∧ t.clk.aon = s.clk.aon ∧ t.boot.held = false ∧ t.boot.step = 1

/-- Counting the time that a band has radiated changes the duty counters alone. -/
theorem State.countRadiating_eq (s : State) (b : Band) :
    s.countRadiating b = s.onTx fun t => { t with duty := (s.countRadiating b).tx.duty } := by
  unfold State.countRadiating
  split <;> rfl

@[simp] theorem State.countRadiating_boot (s : State) (b : Band) : (s.countRadiating b).boot = s.boot := by rw [State.countRadiating_eq]; rfl
@[simp] theorem State.countRadiating_trim (s : State) (b : Band) : (s.countRadiating b).trim = s.trim := by rw [State.countRadiating_eq]; rfl
@[simp] theorem State.countRadiating_clk (s : State) (b : Band) : (s.countRadiating b).clk = s.clk := by rw [State.countRadiating_eq]; rfl
@[simp] theorem State.countRadiating_card (s : State) (b : Band) : (s.countRadiating b).tx.card = s.tx.card := by rw [State.countRadiating_eq]; rfl

@[simp] theorem State.resetTo_boot (s : State) (c : ResetCause) : (s.resetTo c).boot = s.boot.afterReset c := by simp [State.resetTo]
@[simp] theorem State.resetTo_values (s : State) (c : ResetCause) : (s.resetTo c).trim.values = s.trim.values := by simp [State.resetTo]
@[simp] theorem State.resetTo_aon (s : State) (c : ResetCause) : (s.resetTo c).clk.aon = s.clk.aon := by simp [State.resetTo]
@[simp] theorem State.resetTo_card (s : State) (c : ResetCause) : (s.resetTo c).tx.card = s.tx.card := by simp [State.resetTo]

/-- A reset wipes the device; what the flash holds is compared with an earlier state, since when it has not changed. -/
theorem wiped_resetTo {s s' : State} (h : s'.flash = s.flash) (c : ResetCause) : s.Wiped (s'.resetTo c) c := by
  simp only [State.flash, Prod.mk.injEq] at h
  obtain ⟨ha, hb, hr, hk, h6, h7, hc⟩ := h
  refine ⟨?_, rfl, rfl, rfl, rfl, rfl, rfl, rfl, rfl, rfl, rfl, rfl, rfl, rfl, rfl, ?_⟩
  · simp [Boot.afterReset]
  · simp [Boot.afterReset, ha, hb, hr, hk, h6, h7, hc]

/-- A reset keeps PD_AON and the boot sequence starts. -/
theorem reboots_resetTo {s s' : State} (ht : s'.trim.values = s.trim.values) (ha : s'.clk.aon = s.clk.aon) (c : ResetCause) :
    s.Reboots (s'.resetTo c) := by
  simp [State.Reboots, Boot.afterReset, ht, ha]

/-- Holding the device in reset touches only its boot state. -/
theorem wiped_holdReset {s t : State} {c : ResetCause} (h : s.Wiped t c) : s.Wiped t.holdReset c := h

/-! ### The causes of reset (R35, R121, R137, R411, R481, R484) -/

theorem resetNLow_short (s : State) {ns : Nat} (h : ns < 500) : exec (.resetNLow ns) s = .next s := by
  have : resetTaken ns = false := by simp [resetTaken, show ¬ 2000 ≤ ns by omega, show ¬ 500 ≤ ns by omega]
  show execResetNLow ns s = _
  simp [execResetNLow, this]

theorem resetNLow_long (s : State) {ns : Nat} (h : 2000 ≤ ns) :
    ∃ t, exec (.resetNLow ns) s = .next t ∧ s.Wiped t .resetN ∧ t.boot.held = true ∧ t.pins.resetLow = true
      ∧ t.trim.values = s.trim.values := by
  have ht : resetTaken ns = true := by simp [resetTaken, h]
  refine ⟨(s.resetTo .resetN).holdReset.onPins fun p => { p with resetLow := true }, ?_, wiped_resetTo rfl _, rfl, rfl, ?_⟩
  · show execResetNLow ns s = _
    simp [execResetNLow, ht]
  · simp [State.holdReset]

theorem overTemp_resets (s : State) :
    ∃ t, exec .overTempReset s = .next t ∧ s.Wiped t .overTemp ∧ t.boot.held = true ∧ t.trim.values = s.trim.values :=
  ⟨_, rfl, wiped_holdReset (wiped_resetTo rfl _), rfl, by simp [State.holdReset]⟩

theorem powerOn_resets (s : State) (tcxo : Bool) :
    ∃ t, exec (.powerOnReset tcxo) s = .next t ∧ s.Wiped t .powerOn ∧ t.boot.held = true ∧ t.trim.values = [] ∧ t.clk.aon = 0
      ∧ t.clk.tcxo = tcxo ∧ t.tx.duty = State.reset.tx.duty ∧ t.boot.fails = 0 :=
  ⟨_, rfl, wiped_resetTo (s := s) rfl .powerOn, rfl, rfl, rfl, rfl, rfl, rfl⟩

theorem refLoss_resets (s : State) (hh : s.boot.held = false) (hs : s.clk.stopped = false) :
    ∃ t, exec .refLossReset s = .next t ∧ s.Wiped t .refLoss ∧ s.Reboots t := by
  refine ⟨s.resetTo .refLoss, ?_, wiped_resetTo rfl _, reboots_resetTo rfl rfl _⟩
  show execRefLossReset s = _
  simp [execRefLossReset, hh, hs]

theorem refLoss_stopped (s : State) (hs : s.clk.stopped = true) : exec .refLossReset s = .next s := by
  show execRefLossReset s = _
  simp [execRefLossReset, hs]

theorem coreSupply_resets (s : State) (hh : s.boot.held = false) (hf : s.pwr.st ≠ .feather) (ha : s.pwr.st ≠ .ashore) :
    ∃ t, exec .coreSupplyReset s = .next t ∧ s.Wiped t .coreSupply ∧ s.Reboots t := by
  refine ⟨s.resetTo .coreSupply, ?_, wiped_resetTo rfl _, reboots_resetTo rfl rfl _⟩
  show execCoreSupplyReset s = _
  simp [execCoreSupplyReset, hh, hf, ha]

theorem coreSupply_deep (s : State) (h : s.pwr.st = .feather ∨ s.pwr.st = .ashore) : exec .coreSupplyReset s = .next s := by
  show execCoreSupplyReset s = _
  rcases h with h | h <;> simp [execCoreSupplyReset, h]

theorem synDLost_resets (s : State) (h : (s.synth 2).lostAt.isSome = true) :
    ∃ t, exec .synDLostReset s = .next t ∧ s.Wiped t .watchdog ∧ s.Reboots t := by
  obtain ⟨t0, ht0⟩ := Option.isSome_iff_exists.1 h
  refine ⟨(s.at (t0 + 10 * ms)).resetTo .watchdog, ?_, wiped_resetTo (by simp [State.flash]) _, reboots_resetTo (by simp) (by simp) _⟩
  show execSynDLostReset s = _
  simp [execSynDLostReset, ht0]

theorem release_starts_boot (s : State) (h : s.boot.held = true) :
    ∃ t, exec .reset s = .next t ∧ t.dtime = 0 ∧ t.stroke = 0
      ∧ t.boot = { s.boot with held := false, step := 1, testMode := s.pins.testEn } ∧ t.pins.resetLow = false ∧ t.links = s.links
      ∧ t.cfg = s.cfg := by
  refine ⟨{ s with dtime := 0, stroke := 0, pins := { s.pins with resetLow := false }
                   boot := { s.boot with held := false, step := 1, testMode := s.pins.testEn } }, ?_, rfl, rfl, rfl, rfl, rfl, rfl⟩
  show execReset s = _
  simp only [execReset, h, if_true]

/-! ### The test port (R481) -/

theorem scanDrives_iff (ir : BitVec 5) : scanDrives ir = true ↔ ir = 0x00 ∨ ir = 0x04 ∨ ir = 0x05 := by
  simp [scanDrives, or_assoc]

theorem testPort_resets (s : State) (code : BitVec 5) (hh : s.boot.held = false) (hi : s.boot.ir = 0x00 ∨ s.boot.ir = 0x04 ∨ s.boot.ir = 0x05)
    (hc : code ≠ s.boot.ir) :
    ∃ t, exec (.testPortInstruction code) s = .next t ∧ s.Wiped t .testPort ∧ s.Reboots t ∧ t.boot.ir = code := by
  refine ⟨(s.draw.onBoot fun b => { b with ir := code, dr := s.testCapture (s.testReg code) }).resetTo .testPort, ?_,
    wiped_resetTo rfl _, reboots_resetTo rfl rfl _, by simp [Boot.afterReset]⟩
  show execTestPortInstruction code s = _
  simp only [execTestPortInstruction, (scanDrives_iff _).2 hi, hh, bne_iff_ne.2 hc, Bool.not_false, Bool.and_self, if_true]

theorem testPort_captures (s : State) (code : BitVec 5) (hi : ¬ (s.boot.ir = 0x00 ∨ s.boot.ir = 0x04 ∨ s.boot.ir = 0x05)) :
    ∃ t, exec (.testPortInstruction code) s = .next t ∧ t = { s with fresh := t.fresh, boot := { s.boot with ir := code, dr := t.boot.dr } }
      ∧ (code = 0x01 → t.boot.dr = (List.range 32).map s.boot.idReg.getLsbD)
      ∧ (code ≠ 0x00 → code ≠ 0x01 → code ≠ 0x02 → code ≠ 0x10 → t.boot.dr = [false]) := by
  have hd : scanDrives s.boot.ir = false := by rw [← Bool.not_eq_true, scanDrives_iff]; exact hi
  refine ⟨s.draw.onBoot fun b => { b with ir := code, dr := s.testCapture (s.testReg code) }, ?_, rfl, ?_, ?_⟩
  · show execTestPortInstruction code s = _
    simp [execTestPortInstruction, hd]
  · rintro rfl
    rfl
  · intro h0 h1 h2 h10
    have : s.testReg code = .bypass := by
      simp [State.testReg, show code ≠ 0#5 from h0, show code ≠ 1#5 from h1, show code ≠ 2#5 from h2, show code ≠ 16#5 from h10]
    simp [this, State.testCapture]

/-! ### The end of ASHORE (R124, R470) -/

/-- A state but for its memory. -/
def State.butMem (s : State) : State := { s with mem := {} }

@[simp] theorem State.pokeByte_butMem (s : State) (a : Nat) (b : U8) : (s.pokeByte a b).butMem = s.butMem := by
  rw [State.pokeByte_frame]
  rfl

/-- Restoring the SRAM changes memory alone. -/
theorem State.loadSram_butMem (s : State) : s.loadSram.butMem = s.butMem :=
  State.each_keeps (P := fun t => t.butMem = s.butMem) (fun t _ ht => (t.pokeByte_butMem _ _).trans ht) _ _
    (State.each_keeps (P := fun t => t.butMem = s.butMem) (fun t _ ht => (t.pokeByte_butMem _ _).trans ht) _ s rfl)

@[simp] theorem State.loadSram_clk (s : State) : s.loadSram.clk = s.clk := (congrArg State.clk s.loadSram_butMem :)
@[simp] theorem State.loadSram_dtime (s : State) : s.loadSram.dtime = s.dtime := (congrArg State.dtime s.loadSram_butMem :)
@[simp] theorem State.loadSram_stroke (s : State) : s.loadSram.stroke = s.stroke := (congrArg State.stroke s.loadSram_butMem :)
@[simp] theorem State.loadSram_links (s : State) : s.loadSram.links = s.links := (congrArg State.links s.loadSram_butMem :)
@[simp] theorem State.loadSram_cfg (s : State) : s.loadSram.cfg = s.cfg := (congrArg State.cfg s.loadSram_butMem :)

/-- Two states agree in memory and in the address map. -/
def State.SameMem (s u : State) : Prop := u.mem = s.mem ∧ u.dir = s.dir

theorem State.SameMem.pokeByte {s u : State} (h : s.SameMem u) (a : Nat) (b : U8) : (s.pokeByte a b).SameMem (u.pokeByte a b) := by
  obtain ⟨hm, hd⟩ := h
  refine ⟨?_, by simp [hd]⟩
  simp only [State.pokeByte, State.place, State.inst, hm, hd]
  split <;> simp [hm]

theorem State.SameMem.each {s u : State} (l : List Host.Cell) (f : State → Host.Cell → State)
    (hf : ∀ s u : State, ∀ c, s.SameMem u → (f s c).SameMem (f u c)) (h : s.SameMem u) : (s.each l f).SameMem (u.each l f) := by
  induction l generalizing s u with
  | nil => exact h
  | cons c l ih => exact ih (hf s u c h)

/-- What the SRAM is restored to depends on memory and the address map alone. -/
theorem State.SameMem.loadSram {s u : State} (h : s.SameMem u) : s.loadSram.SameMem u.loadSram := by
  have hs : u.sramCells = s.sramCells := by simp only [State.sramCells, h.1]
  have hc : u.dramCopy = s.dramCopy := by simp only [State.dramCopy, h.1]
  unfold State.loadSram State.pokeImage
  rw [hs, hc]
  exact State.SameMem.each _ _ (fun _ _ _ h => h.pokeByte _ _) (State.SameMem.each _ _ (fun _ _ _ h => h.pokeByte _ _) h)

/-- DTIME as the end of ASHORE restores it (R124). -/
def State.ashoreTime (s : State) (aon : Nat) : Nat :=
  s.clk.ashore.dtimeEntry + (aon + 2 ^ 48 - s.clk.ashore.aonEntry % 2 ^ 48) % 2 ^ 48 * s.clk.ashore.ratio / 2 ^ 20

/-- A count of AONCNT that has not wrapped since entry. -/
theorem State.ashoreTime_eq (s : State) {aon : Nat} (ha : aon < 2 ^ 48) (he : s.clk.ashore.aonEntry ≤ aon) :
    s.ashoreTime aon = s.clk.ashore.dtimeEntry + (aon - s.clk.ashore.aonEntry) * s.clk.ashore.ratio / 2 ^ 20 := by
  have : (aon + 2 ^ 48 - s.clk.ashore.aonEntry % 2 ^ 48) % 2 ^ 48 = aon - s.clk.ashore.aonEntry := by omega
  rw [State.ashoreTime, this]

/-- The state at the end of ASHORE before the SRAM is looked at: the reference runs and DTIME goes on from `d` (R124, R284). -/
def State.ashoreWoken (s : State) (aon d : Nat) : State :=
  let r := s.clk.ashore
  { s with
    dtime := d, stroke := d / strokeLen
    clk := { s.clk with aon := BitVec.ofNat 48 aon, stopped := false
                        ashore := { r with aonExit := aon % 2 ^ 48, dtimeExit := d, flags := if s.clk.aonLost then r.flags ||| 2 else r.flags } }
    time := { s.time with e := s.time.uncAt r.dtimeEntry + nsOf (d - r.dtimeEntry) * 50 / 1000000 + 61036, eAt := d } }

theorem ashoreExit_eq (s : State) (aon : Nat) (hs : s.clk.stopped = true) (hw : s.pwr.waking = true) :
    exec (.ashoreExit aon) s = .next (if s.boot.sramCopy = some s.dramCopy then (s.ashoreWoken aon (s.ashoreTime aon)).loadSram
      else (s.ashoreWoken aon (s.ashoreTime aon)).resetTo .watchdog) := by
  show execAshoreExit aon s = _
  simp [execAshoreExit, hs, hw, State.ashoreWoken, State.ashoreTime, State.onClk, State.onTime]

/-- With its copy of the SRAM the device goes on from the DTIME carried over. -/
theorem ashoreWoken_loadSram (s : State) (aon d : Nat) (ha : aon < 2 ^ 48) (t : State) (ht : t = (s.ashoreWoken aon d).loadSram) :
    t.clk.stopped = false ∧ t.dtime = d ∧ t.stroke = t.dtime / 9600 ∧ t.links = s.links ∧ t.cfg = s.cfg ∧ t.mem = s.loadSram.mem
      ∧ t.clk.ashore.aonExit = aon ∧ t.clk.ashore.dtimeExit = t.dtime := by
  have hmem : (s.ashoreWoken aon d).loadSram.mem = s.loadSram.mem := (State.SameMem.loadSram (s := s) (u := s.ashoreWoken aon d) ⟨rfl, rfl⟩).1
  have hclk : t.clk = (s.ashoreWoken aon d).clk := by rw [ht, State.loadSram_clk]
  have hd : t.dtime = d := by rw [ht, State.loadSram_dtime]; rfl
  refine ⟨by rw [hclk]; rfl, hd, by rw [hd, ht, State.loadSram_stroke]; rfl, by rw [ht, State.loadSram_links]; rfl,
    by rw [ht, State.loadSram_cfg]; rfl, by rw [ht, hmem], ?_, by rw [hclk, hd]; rfl⟩
  rw [hclk]
  exact Nat.mod_eq_of_lt ha

theorem ashoreExit_restores (s : State) {aon : Nat} (hs : s.clk.stopped = true) (hw : s.pwr.waking = true)
    (hc : s.boot.sramCopy = some s.dramCopy) (ha : aon < 2 ^ 48) (he : s.clk.ashore.aonEntry ≤ aon) :
    ∃ t, exec (.ashoreExit aon) s = .next t ∧ t.clk.stopped = false
      ∧ t.dtime = s.clk.ashore.dtimeEntry + (aon - s.clk.ashore.aonEntry) * s.clk.ashore.ratio / 2 ^ 20 ∧ t.stroke = t.dtime / 9600
      ∧ t.links = s.links ∧ t.cfg = s.cfg ∧ t.mem = s.loadSram.mem ∧ t.clk.ashore.aonExit = aon ∧ t.clk.ashore.dtimeExit = t.dtime := by
  rw [← s.ashoreTime_eq ha he]
  exact ⟨_, by rw [ashoreExit_eq s aon hs hw, if_pos hc], ashoreWoken_loadSram s aon _ ha _ rfl⟩

/-- Waking before the SRAM is looked at leaves flash and fuses. -/
theorem ashoreWoken_flash (s : State) (aon d : Nat) : (s.ashoreWoken aon d).flash = s.flash := rfl

theorem ashoreExit_resets (s : State) (aon : Nat) (hs : s.clk.stopped = true) (hw : s.pwr.waking = true)
    (hc : s.boot.sramCopy ≠ some s.dramCopy) : ∃ t, exec (.ashoreExit aon) s = .next t ∧ s.Wiped t .watchdog :=
  ⟨_, by rw [ashoreExit_eq s aon hs hw, if_neg hc], wiped_resetTo (ashoreWoken_flash s aon _) _⟩

/-! ### Slots (R454, R456) -/

/-- Marking a slot failed leaves what the flash holds. -/
theorem State.failSlot_flash (s : State) (x : Bool) : (s.failSlot x).flash = s.flash := by
  cases x <;> rfl
/-- The slot marked is failed. -/
theorem State.failSlot_failed (s : State) (x : Bool) : ((s.failSlot x).boot.slot x).failed = true := by
  cases x <;> rfl
/-- The other slot is as it was, and so is its check. -/
theorem State.failSlot_other (s : State) (x : Bool) : (s.failSlot x).boot.slot (!x) = s.boot.slot (!x) := by
  cases x <;> rfl
theorem State.slotOk_failSlot_other (s : State) (x : Bool) : (s.failSlot x).slotOk (!x) = s.slotOk (!x) := by
  cases x <;> rfl

/-- Both slots marked, in either order. -/
theorem State.failBoth_slotA (s : State) (x : Bool) : ((s.failSlot x).failSlot (!x)).boot.slotA.failed = true := by
  cases x <;> rfl
theorem State.failBoth_slotB (s : State) (x : Bool) : ((s.failSlot x).failSlot (!x)).boot.slotB.failed = true := by
  cases x <;> rfl
/-- A reset leaves the slots. -/
theorem Boot.afterReset_slot (b : Boot) (c : ResetCause) (x : Bool) : (b.afterReset c).slot x = b.slot x := by
  cases x <;> rfl

/-- Marking a slot leaves the mode. -/
theorem State.failSlot_recovery (s : State) (x : Bool) : (s.failSlot x).boot.recovery = s.boot.recovery := by
  cases x <;> rfl

/-- The picked slot boots where it passes. -/
theorem chooseSlot_pick (s : State) (h : s.slotOk s.boot.pick = true) : s.chooseSlot = (s, some s.boot.pick) := by
  simp [State.chooseSlot, h]

/-- Neither slot passes: both are marked and none boots. -/
theorem chooseSlot_none (s : State) (hp : s.slotOk s.boot.pick = false) (ho : s.slotOk (!s.boot.pick) = false) :
    s.chooseSlot = ((s.failSlot s.boot.pick).failSlot (!s.boot.pick), none) := by
  simp [State.chooseSlot, hp, State.slotOk_failSlot_other, ho]

/-! ### Console lines -/

/-- A console line changes the links alone. -/
theorem State.console_frame (s : State) (x : String) : s.console x = { s with links := (s.console x).links } := by
  unfold State.console
  dsimp only
  split <;> rfl

@[simp] theorem State.console_boot (s : State) (x : String) : (s.console x).boot = s.boot := by rw [State.console_frame]
@[simp] theorem State.console_flash (s : State) (x : String) : (s.console x).flash = s.flash := by rw [State.console_frame]; rfl
@[simp] theorem State.console_cfg (s : State) (x : String) : (s.console x).cfg = s.cfg := by rw [State.console_frame]

/-- The console lines of the boot ROM change the links alone. -/
theorem State.bootLines_keeps {α : Type} (g : State → α) (hg : ∀ s x, g (s.console x) = g s) (s : State) (n : Nat) : g (s.bootLines n) = g s :=
  State.each_keeps (P := fun t => g t = g s) (fun t _ ht => (hg t _).trans ht) _ _ (hg s _)

@[simp] theorem State.bootLines_boot (s : State) (n : Nat) : (s.bootLines n).boot = s.boot := State.bootLines_keeps _ State.console_boot s n
@[simp] theorem State.bootLines_flash (s : State) (n : Nat) : (s.bootLines n).flash = s.flash := State.bootLines_keeps _ State.console_flash s n
@[simp] theorem State.bootLines_cfg (s : State) (n : Nat) : (s.bootLines n).cfg = s.cfg := State.bootLines_keeps _ State.console_cfg s n

/-! ### The end of the boot sequence (R4, R456, R459) -/

/-- The boot sequence is under way. -/
def State.Booting (s : State) : Prop := s.boot.step ≠ 0 ∧ s.boot.held = false ∧ s.boot.testMode = false

/-- Recovery mode sets READY and ends the boot sequence. -/
theorem recover_boot (s : State) : s.recover.boot = { s.boot with recovery := true, step := 0, readyAt := s.dtime, fails := 0 } := rfl
theorem recover_slot (s : State) (x : Bool) : s.recover.boot.slot x = s.boot.slot x := by
  cases x <;> rfl
theorem recover_cfg (s : State) : s.recover.cfg = s.cfg := rfl

/-- A booting device chooses its slot. -/
theorem bootReady_eq (s : State) (h : s.Booting) :
    exec .bootReady s = match s.chooseSlot with
      | (s1, none) => .next (s1.bootLines 3).recover
      | (s1, some x) =>
        if s.boot.devId != 0x7216 || s.boot.stepping != 0xB1 then .next ((((s1.bootSlot x).failSlot x).bootLines 4).resetTo .watchdog)
        else .next (s1.bootSlot x).finishBoot := by
  obtain ⟨h1, h2, h3⟩ := h
  show execBootReady s = _
  simp only [execBootReady, beq_eq_false_iff_ne.2 h1, h2, h3, Bool.or_self]
  rfl

theorem bootReady_recovers (s : State) (h : s.Booting) (hp : s.slotOk s.boot.pick = false) (ho : s.slotOk (!s.boot.pick) = false) :
    ∃ t, exec .bootReady s = .next t ∧ t.boot.recovery = true ∧ t.boot.step = 0 ∧ t.links.ready = true ∧ (t.boot.slot false).failed = true
      ∧ (t.boot.slot true).failed = true ∧ t.cfg = s.cfg := by
  refine ⟨_, by rw [bootReady_eq s h, chooseSlot_none s hp ho], rfl, rfl, rfl, ?_, ?_, ?_⟩
  · simp [recover_boot, Boot.slot, State.failBoth_slotA]
  · simp [recover_boot, Boot.slot, State.failBoth_slotB]
  · rw [recover_cfg, State.bootLines_cfg]
    rfl

theorem bootReady_wrongDevice (s : State) (h : s.Booting) (hp : s.slotOk s.boot.pick = true)
    (hd : s.boot.devId ≠ 0x7216 ∨ s.boot.stepping ≠ 0xB1) :
    ∃ t, exec .bootReady s = .next t ∧ s.Wiped t .watchdog ∧ (t.boot.slot s.boot.pick).failed = true := by
  have hd' : (s.boot.devId != 0x7216 || s.boot.stepping != 0xB1) = true := by simpa using hd
  refine ⟨_, by rw [bootReady_eq s h, chooseSlot_pick s hp]; simp only [hd', if_true]; rfl, wiped_resetTo ?_ _, ?_⟩
  · rw [State.bootLines_flash, State.failSlot_flash]
    rfl
  · rw [State.resetTo_boot, Boot.afterReset_slot, State.bootLines_boot]
    exact State.failSlot_failed _ _

/-- READY ends the boot sequence and sets the READY bit (R456, R458). -/
theorem setReady_bootView (s : State) :
    s.setReady.bootView = ({ s.boot with step := 0, readyAt := s.dtime, fails := 0, lateFalls := [] }, true) := by
  simp only [State.setReady, State.trimAuto_bootView, State.onMem_bootView, State.refreshEth_bootView, State.phyStart_bootView,
    State.setIrq_bootView, State.each_bootView, State.flagFall_bootView, implies_true]
  rfl

/-- The maker certificate read leaves the slot that booted and the mode. -/
theorem readMaker_booted (s : State) : s.readMaker.boot.booted = s.boot.booted := by
  simp only [State.readMaker]
  split <;> rfl
theorem readMaker_recovery (s : State) : s.readMaker.boot.recovery = s.boot.recovery := by
  simp only [State.readMaker]
  split <;> rfl

/-- Step 5 of boot up to the maker certificate: the core synthesisers, the ledger and the certificate (R456). -/
def State.bootStep5 (s : State) : State := (((s.runSyn 0 21 6).runSyn 1 4 24).runSyn 2 40 2).restoreLedger.readMaker

/-- The rest of steps 5 to 8 up to READY: the configuration image, the crews and the core voltage (R456). -/
def State.bootSteps6to8 (s : State) : State :=
  (((if s.boot.lateFalls.contains 6 then s else s.loadImage).each (List.range 8) State.bootCrew).changeVolt.bootLines 8)

theorem State.finishBoot_eq (s : State) : s.finishBoot = s.bootStep5.bootSteps6to8.setReady := by
  unfold State.finishBoot State.bootStep5 State.bootSteps6to8
  with_reducible rfl

theorem State.bootStep5_booted (s : State) :
    s.bootStep5.boot.booted = s.boot.booted ∧ s.bootStep5.boot.recovery = s.boot.recovery := by
  have h : (((s.runSyn 0 21 6).runSyn 1 4 24).runSyn 2 40 2).restoreLedger.bootView = s.bootView := by simp
  have hb : (((s.runSyn 0 21 6).runSyn 1 4 24).runSyn 2 40 2).restoreLedger.boot = s.boot :=
    State.boot_of_bootView h
  exact ⟨by rw [State.bootStep5, readMaker_booted, hb], by rw [State.bootStep5, readMaker_recovery, hb]⟩

theorem State.bootSteps6to8_boot (s : State) : s.bootSteps6to8.boot = s.boot := by
  have h : s.bootSteps6to8.bootView = s.bootView := by simp [State.bootSteps6to8]
  exact State.boot_of_bootView h

/-- READY keeps the slot that booted and the mode, and ends the count of failed boots (R456, R458). -/
theorem setReady_ready (u : State) :
    u.setReady.links.ready = true ∧ u.setReady.boot.step = 0 ∧ u.setReady.boot.recovery = u.boot.recovery
      ∧ u.setReady.boot.booted = u.boot.booted ∧ u.setReady.boot.fails = 0 := by
  rw [State.ready_of_bootView (setReady_bootView u), State.boot_of_bootView (setReady_bootView u)]
  exact ⟨rfl, rfl, rfl, rfl, rfl⟩

/-- Steps 5 to 8 of boot end in READY, and leave the slot that booted and the mode (R456). -/
theorem finishBoot_ready (s : State) :
    s.finishBoot.links.ready = true ∧ s.finishBoot.boot.step = 0 ∧ s.finishBoot.boot.recovery = s.boot.recovery
      ∧ s.finishBoot.boot.booted = s.boot.booted ∧ s.finishBoot.boot.fails = 0 := by
  have h := setReady_ready s.bootStep5.bootSteps6to8
  rw [State.bootSteps6to8_boot, s.bootStep5_booted.1, s.bootStep5_booted.2] at h
  rwa [State.finishBoot_eq]

theorem bootReady_ready (s : State) (h : s.Booting) (hp : s.slotOk s.boot.pick = true) (hd : s.boot.devId = 0x7216)
    (hs : s.boot.stepping = 0xB1) :
    ∃ t, exec .bootReady s = .next t ∧ t.links.ready = true ∧ t.boot.step = 0 ∧ t.boot.recovery = s.boot.recovery
      ∧ t.boot.booted = s.boot.pick ∧ t.boot.fails = 0 := by
  refine ⟨(s.bootSlot s.boot.pick).finishBoot, ?_, finishBoot_ready _⟩
  rw [bootReady_eq s h, chooseSlot_pick s hp]
  exact if_neg (by simp [hd, hs])

/-! ### Boot steps past their limits (R458) -/

/-- Step `n` exceeded its limit at an instant: its console lines are written. -/
def State.stepFell (s : State) (n instant : Nat) : State := ((s.at instant).bootLines n).fallLine ("boot step " ++ toString n)

@[simp] theorem State.fallLine_boot (s : State) (x : String) : (s.fallLine x).boot = s.boot := State.console_boot s _
@[simp] theorem State.stepFell_boot (s : State) (n instant : Nat) : (s.stepFell n instant).boot = s.boot := by
  simp [State.stepFell]
theorem State.stepFell_flash (s : State) (n instant : Nat) : (s.stepFell n instant).flash = s.flash := by
  rw [State.stepFell, State.fallLine, State.console_flash, State.bootLines_flash]
  simp [State.flash]

/-- Steps 1 to 3 fail the slot in work; with the other one failed before, the device goes to recovery mode. -/
theorem slotFall_eq (s : State) (h : s.Booting) {n : Fin 8} (hn : n.val ≤ 2) (hf : (s.boot.slot s.boot.pick).failed = false) :
    exec (.bootStepFlagFall n) s = .next
      (let u := (s.stepFell (n.val + 1) (bootLimit (n.val + 1) * ms)).failSlot s.boot.pick
       if (s.boot.slot (!s.boot.pick)).failed then u.recover else u) := by
  obtain ⟨h1, h2, h3⟩ := h
  show execBootStepFlagFall n s = _
  have hrun : (s.boot.step == 0 || s.boot.held || s.boot.testMode) = false := by rw [beq_false_of_ne h1, h2, h3]; rfl
  have hle : n.val + 1 ≤ 3 := by omega
  simp only [execBootStepFlagFall, hrun, hf, hle, bne_self_eq_false, Bool.and_false, Bool.false_eq_true, if_true, if_false, Nat.zero_add,
    State.failSlot_other, State.stepFell, State.fallLine_boot, State.bootLines_boot, State.at_boot]

theorem slotFall_fails (s : State) (h : s.Booting) {n : Fin 8} (hn : n.val ≤ 2) (hf : (s.boot.slot s.boot.pick).failed = false) :
    ∃ t, exec (.bootStepFlagFall n) s = .next t ∧ (t.boot.slot s.boot.pick).failed = true
      ∧ t.boot.recovery = ((s.boot.slot (!s.boot.pick)).failed || s.boot.recovery) := by
  refine ⟨_, slotFall_eq s h hn hf, ?_⟩
  dsimp only
  cases (s.boot.slot (!s.boot.pick)).failed with
  | false => exact ⟨State.failSlot_failed _ _, by simp [State.failSlot_recovery]⟩
  | true =>
    refine ⟨?_, by simp [recover_boot]⟩
    simp only [if_true, recover_slot]
    exact State.failSlot_failed _ _

/-- Step 4 fails the slot in work and resets the device. -/
theorem firmwareFall_resets (s : State) (h : s.Booting) {n : Fin 8} (hn : n.val = 3) (hf : (s.boot.slot s.boot.pick).failed = false) :
    ∃ t, exec (.bootStepFlagFall n) s = .next t ∧ s.Wiped t .watchdog ∧ (t.boot.slot s.boot.pick).failed = true := by
  obtain ⟨h1, h2, h3⟩ := h
  refine ⟨((s.stepFell 4 (bootLimit 4 * ms)).failSlot s.boot.pick).resetTo .watchdog, ?_, wiped_resetTo ?_ _, ?_⟩
  · show execBootStepFlagFall n s = _
    simp [execBootStepFlagFall, h1, h2, h3, hf, hn, State.stepFell]
  · rw [State.failSlot_flash, State.stepFell_flash]
  · rw [State.resetTo_boot, Boot.afterReset_slot]
    exact State.failSlot_failed _ _

/-- Step 5 resets the device; the third failed boot in a row ends in recovery mode (R458; log 100). -/
theorem startFall_resets (s : State) (h : s.Booting) {n : Fin 8} (hn : n.val = 4) :
    ∃ t, exec (.bootStepFlagFall n) s = .next t ∧ t.boot.cause = .watchdog ∧ t.boot.fails = (if 2 ≤ s.boot.fails then 0 else s.boot.fails + 1)
      ∧ t.boot.recovery = decide (2 ≤ s.boot.fails) := by
  obtain ⟨h1, h2, h3⟩ := h
  have he : exec (.bootStepFlagFall n) s = .next
      (let u := ((s.stepFell 5 (bootLimit 5 * ms)).resetTo .watchdog).onBoot fun b => { b with fails := b.fails + 1 }
       if 3 ≤ s.boot.fails + 1 then u.recover else u) := by
    show execBootStepFlagFall n s = _
    simp [execBootStepFlagFall, h1, h2, h3, hn, State.stepFell, Boot.afterReset]
  refine ⟨_, he, ?_⟩
  dsimp only
  split
  · next hthird => simp [recover_boot, Boot.afterReset, show 2 ≤ s.boot.fails by omega]
  · next hthird => simp [Boot.afterReset, show ¬ 2 ≤ s.boot.fails by omega]

/-- Steps 6 and 7 are noted, to be reported at READY. -/
theorem lateFall_waits (s : State) (h : s.Booting) {n : Fin 8} (hn : n.val = 5 ∨ n.val = 6) :
    ∃ t, exec (.bootStepFlagFall n) s = .next t ∧ n.val + 1 ∈ t.boot.lateFalls
      ∧ t = { s with dtime := t.dtime, boot := { s.boot with lateFalls := t.boot.lateFalls } } := by
  obtain ⟨h1, h2, h3⟩ := h
  refine ⟨(s.at (bootLimit (n.val + 1) * ms)).onBoot fun b =>
    { b with lateFalls := (b.lateFalls.filter (· != n.val + 1)) ++ [n.val + 1] }, ?_, ?_, ?_⟩
  · show execBootStepFlagFall n s = _
    rcases hn with hn | hn <;> simp [execBootStepFlagFall, h1, h2, h3, hn]
  · simp
  · simp only [State.at]
    split <;> rfl

theorem readyFall_ignored (s : State) (h : s.Booting) {n : Fin 8} (hn : n.val = 7) : exec (.bootStepFlagFall n) s = .next s := by
  obtain ⟨h1, h2, h3⟩ := h
  show execBootStepFlagFall n s = _
  simp [execBootStepFlagFall, h1, h2, h3, hn]

/-! ### The obligation -/

/-- Settles O55, cause by cause and step by step. -/
theorem resetsAndBoot : Obligations.ResetsAndBoot := by
  intro s
  refine ⟨fun ns h => resetNLow_short s h, fun ns h => resetNLow_long s h, overTemp_resets s, powerOn_resets s, fun hh => ⟨?_, ?_, ?_⟩,
    refLoss_stopped s, coreSupply_deep s, fun code h0 h4 h5 => ?_, synDLost_resets s, release_starts_boot s, fun aon hs hw => ⟨?_, ?_⟩,
    fun h => ⟨fun hp => ⟨?_, ?_⟩, bootReady_recovers s h, fun n => ⟨?_, ?_, ?_, ?_, ?_⟩⟩⟩
  · exact refLoss_resets s hh
  · exact coreSupply_resets s hh
  · exact fun code hi hc => testPort_resets s code hh hi hc
  · exact testPort_captures s code fun h => h.elim h0 (·.elim h4 h5)
  · exact ashoreExit_restores s hs hw
  · exact ashoreExit_resets s aon hs hw
  · exact bootReady_ready s h hp
  · exact bootReady_wrongDevice s h hp
  · exact slotFall_fails s h
  · exact firmwareFall_resets s h
  · exact startFall_resets s h
  · exact lateFall_waits s h
  · exact readyFall_ignored s h

end Sys2Proof.Machine

/-! ## The progress of CASTLE and CFG_CHECK (R73 to R76, R79) -/

namespace Sys2Proof.Machine

/-! ### The final reply to an outstanding tag (R38, R40) -/

/-- The header that the final reply to an outstanding command answers. -/
def TagEntry.hdr (e : TagEntry) : Hdr :=
  { src := e.src, tag := e.tag, version := 1, rsv := 0, flags := 0, status := 0, len := 0, crc := e.crc }

/-- The links over which a tag has ended. -/
def Links.freed (l : Links) (tag : U16) : Links := { l with tags := l.tags.filter fun x => x.tag != tag }

/-- The final reply to an outstanding tag whose transport is on changes the links alone. -/
theorem State.finish_eq (s : State) {e : TagEntry} (st : Status) (p : Bytes) (ho : s.outstanding e.tag = some e) (hr : s.reachable e.src = true) :
    s.finish e.tag st p = { s with links := (s.links.freed e.tag).reply s.dtime e.hdr e.opcode st p } := by
  have hf : s.links.tags.find? (fun t => t.tag == e.tag) = some e := ho
  simp only [State.finish, hf, State.final, State.post, mkReply, hr, if_true]
  rfl

/-- A final reply ends its tag; the sets, DTIME and the events that wait stay. -/
theorem State.final_view (s : State) (src : Src) (op : Nat) (tag : U16) (crc : U32) (st : Status) (p : Bytes) :
    let t := s.final src op tag crc st p
    t.cfg = s.cfg ∧ t.dtime = s.dtime ∧ t.links.events = s.links.events ∧ t.links.tags = s.links.tags.filter fun x => x.tag != tag := by
  simp only [State.final, State.post]
  split <;> exact ⟨rfl, rfl, rfl, rfl⟩

theorem State.finish_view (s : State) (tag : U16) (st : Status) (p : Bytes) :
    let t := s.finish tag st p
    t.cfg = s.cfg ∧ t.dtime = s.dtime ∧ t.links.events = s.links.events := by
  unfold State.finish
  split
  · next e _ =>
    obtain ⟨hcfg, hdtime, hevents, -⟩ := State.final_view s e.src e.opcode tag e.crc st p
    exact ⟨hcfg, hdtime, hevents⟩
  · exact ⟨rfl, rfl, rfl⟩

@[simp] theorem State.finish_cfg (s : State) (tag : U16) (st : Status) (p : Bytes) : (s.finish tag st p).cfg = s.cfg :=
  have ⟨hcfg, _, _⟩ := State.finish_view s tag st p; hcfg
@[simp] theorem State.finish_dtime (s : State) (tag : U16) (st : Status) (p : Bytes) : (s.finish tag st p).dtime = s.dtime :=
  have ⟨_, hdtime, _⟩ := State.finish_view s tag st p; hdtime
@[simp] theorem State.finish_events (s : State) (tag : U16) (st : Status) (p : Bytes) : (s.finish tag st p).links.events = s.links.events :=
  have ⟨_, _, hevents⟩ := State.finish_view s tag st p; hevents

/-- No tag is outstanding after its final reply. -/
@[simp] theorem State.finish_outstanding (s : State) (tag : U16) (st : Status) (p : Bytes) : (s.finish tag st p).outstanding tag = none := by
  unfold State.finish
  split
  · next e _ =>
    obtain ⟨-, -, -, htags⟩ := State.final_view s e.src e.opcode tag e.crc st p
    simp [State.outstanding, htags]
  · next hnone => exact hnone

/-! ### Flag falls and their console lines (R36, R58) -/

@[simp] theorem State.console_events (s : State) (x : String) : (s.console x).links.events = s.links.events := by
  simp only [State.console]
  split <;> rfl
@[simp] theorem State.console_dtime (s : State) (x : String) : (s.console x).dtime = s.dtime := by rw [State.console_frame]

@[simp] theorem State.fallLine_events (s : State) (x : String) : (s.fallLine x).links.events = s.links.events := State.console_events ..
@[simp] theorem State.fallLine_cfg (s : State) (x : String) : (s.fallLine x).cfg = s.cfg := State.console_cfg ..
@[simp] theorem State.fallLine_dtime (s : State) (x : String) : (s.fallLine x).dtime = s.dtime := State.console_dtime ..

@[simp] theorem State.flagFall_cfg (s : State) (source detail : Nat) : (s.flagFall source detail).cfg = s.cfg := by
  simp only [State.flagFall, State.fallLine_cfg, State.pushEvent]
  split <;> rfl
@[simp] theorem State.flagFall_dtime (s : State) (source detail : Nat) : (s.flagFall source detail).dtime = s.dtime := by
  simp only [State.flagFall, State.fallLine_dtime, State.pushEvent]
  split <;> rfl

/-- Whether an event waits is seen from the event queue alone. -/
theorem State.announced_congr {t u : State} (h : t.links.events = u.links.events) (code : Nat) (fields : Bytes) :
    t.announced code fields ↔ u.announced code fields := by
  simp only [State.announced, h]

/-- An event for which the queue has room waits (R64). -/
theorem State.pushEvent_announced (s : State) (code kind gen idx : Nat) (fields : Bytes) (h : s.links.events.length < 256) :
    (s.pushEvent code kind gen idx fields).announced code fields := by
  simp only [State.announced, State.pushEvent, if_pos h, State.onLinks_links]
  exact ⟨_, List.mem_append_right _ (List.mem_singleton_self _), rfl, rfl⟩

/-- A flag fall for which the queue has room is announced with its source and detail (R36). -/
theorem State.flagFall_announced (s : State) (source detail : Nat) (h : s.links.events.length < 256) :
    (s.flagFall source detail).announced 0x800A (le 1 source ++ le 3 0 ++ le 4 detail) :=
  (State.announced_congr (State.fallLine_events ..) _ _).2 (State.pushEvent_announced s _ _ _ _ _ h)

/-- A timed event comes at its due instant or later while DTIME counts (log 40). -/
theorem State.due_le_at_dtime (s : State) (d : Nat) (h : s.clk.stopped = false) : d ≤ (s.at d).dtime := by
  simp only [State.at, h, Bool.false_eq_true, if_false]
  exact Nat.le_max_right _ _

/-! ### The commands that wait for the configuration sets (R41) -/

/-- Nothing goes on where nothing waits. -/
theorem State.serveCfg_nil (s : State) (n : Nat) (h : s.cfg.waits = []) : s.serveCfg n = s := by
  cases n with
  | zero => rfl
  | succ n => simp [State.serveCfg, h]

/-- A waiting CASTLE begins its group checks when none is in progress (R74). -/
theorem State.serveCfg_castle (s : State) (n : Nat) {tag : U16} {t target : Nat} (hi : s.cfg.castle = .idle)
    (h : s.cfg.waits = [(tag, t, .castle target)]) :
    s.serveCfg (n + 1) = s.onCfg fun c => { c with waits := [], castle := .checking tag target t } := by
  simp [State.serveCfg, State.setsFree, h, hi, CastleSt.isIdle, State.onCfg]

/-- A CASTLE that finds nothing before it begins its group checks at once (R74). -/
theorem State.waitCfg_castle (s : State) (h : Hdr) (target : Nat) (hi : s.cfg.castle = .idle) (hw : s.cfg.waits = []) :
    (s.waitCfg h 0x0012 (.castle target)).serveCfg 64
      = { s with links := s.links.held s.dtime h 0x0012 false 1, cfg := { s.cfg with castle := .checking h.tag target s.dtime } } := by
  have hq : (s.waitCfg h 0x0012 (.castle target)).cfg.waits = [(h.tag, s.dtime, .castle target)] := by
    simp [State.waitCfg, State.hold, hw]
  refine (State.serveCfg_castle (s.waitCfg h 0x0012 (.castle target)) 63 hi hq).trans ?_
  rw [← hw]
  rfl

theorem State.castle_idle_of_not_busy {s : State} (h : s.castleBusy = false) : s.cfg.castle = .idle := by
  have hidle : s.cfg.castle.isIdle = true := by
    simp only [State.castleBusy, Bool.or_eq_false_iff, Bool.not_eq_false'] at h
    exact h.1
  revert hidle
  cases s.cfg.castle <;> simp [CastleSt.isIdle]

/-! ### CASTLE and CFG_CHECK are received (R73, R74) -/

theorem castle_starts_checks (h : Hdr) (s : State) {target : U64} (ht : s.takes h 0x0012 = true) (hl : h.len = 8)
    (hb : s.castleBusy = false) (hw : s.cfg.waits = [])
    (hr : target = 0 ∨ (s.dtime / 9600 ≤ target.toNat ∧ target.toNat ≤ s.dtime / 9600 + 4000)) :
    exec (.castle h target) s = .next
      { s with links := (s.accepted h 0x0012).held s.dtime h 0x0012 false 1
               cfg := { s.cfg with castle := .checking h.tag target.toNat s.dtime } } := by
  have hi := State.castle_idle_of_not_busy hb
  have hrange : (target == 0 || inR s.strokeNow (s.strokeNow + 4000) target.toNat) = true := by
    simp only [inR, Bool.or_eq_true, Bool.and_eq_true, decide_eq_true_eq, beq_iff_eq]
    exact hr
  have hfree : (if ({ s with links := s.taken h 0x0012 } : State).castleBusy then some Status.busy else none) = none :=
    if_neg (ne_true_of_eq_false hb)
  show execCastle h target s = _
  unfold execCastle
  rw [host_takes s h 0x0012 _ _ ht (fun _ => rfl) (beq_iff_eq.2 hl) hrange]
  simp only [hfree]
  exact congrArg Host.Outcome.next (State.waitCfg_castle _ h target.toNat hi hw)

theorem cfgCheck_waits (h : Hdr) (s : State) (set : Bool) (ht : s.takes h 0x0013 = true) (hl : h.len = 1) :
    exec (.cfgCheck h (if set then 1 else 0)) s = .next
      { s with links := (s.accepted h 0x0013).held s.dtime h 0x0013 false 1
               cfg := { s.cfg with waits := s.cfg.waits ++ [(h.tag, s.dtime, .check set)] } } := by
  have hset : ((if set then 1 else 0 : U8) == 1) = set := by cases set <;> rfl
  show execCfgCheck h _ s = _
  unfold execCfgCheck
  rw [host_takes s h 0x0013 _ _ ht (fun _ => rfl) (beq_iff_eq.2 hl) (by cases set <;> rfl), hset]
  rfl

/-! ### A job on the sets ends and nothing waits behind it -/

/-- The transports in use follow from the active set (R56). -/
theorem State.reachable_onCfg (s : State) (f : ConfigSets → ConfigSets) (ha : (f s.cfg).active = s.cfg.active) (x : Src) :
    (s.onCfg f).reachable x = s.reachable x := by
  cases x <;> simp [State.reachable, State.spiOn, State.udpOn, State.cfgBit, State.cfgNat, ha]

theorem State.serveCfg_finish (s : State) (tag : U16) (st : Status) (p : Bytes) (n : Nat) (hw : s.cfg.waits = []) :
    (s.finish tag st p).serveCfg n = s.finish tag st p := State.serveCfg_nil _ n (by rw [State.finish_cfg, hw])

/-- A job is answered: the links and the sets change, and nothing else. -/
theorem State.onCfg_finish (s : State) (f : ConfigSets → ConfigSets) {e : TagEntry} (st : Status) (p : Bytes)
    (ha : (f s.cfg).active = s.cfg.active) (hw : (f s.cfg).waits = []) (ho : s.outstanding e.tag = some e)
    (hr : s.reachable e.src = true) :
    ((s.onCfg f).finish e.tag st p).serveCfg 64
      = { s with links := (s.links.freed e.tag).reply s.dtime e.hdr e.opcode st p, cfg := f s.cfg } := by
  rw [State.serveCfg_finish _ _ _ _ _ hw, State.finish_eq (s.onCfg f) st p ho (by rwa [State.reachable_onCfg s f ha])]
  rfl

/-! ### The group checks end (R73, R74, R79) -/

/-- A group check without a failing group is answered with OK and zeros. -/
theorem check_passed : checkStatus [] = .ok ∧ checkPayload [] = List.replicate 6 0 := ⟨rfl, rfl⟩
/-- A failing group is reported with the count, its number and its section. -/
theorem check_failed (g : Nat) (r : List Nat) :
    checkStatus (g :: r) = .inconsistent ∧ checkPayload (g :: r) = le 2 (g :: r).length ++ le 2 g ++ le 1 (groupSection g) ++ le 1 0 :=
  ⟨rfl, rfl⟩

theorem cfgCheckDone_eq (s : State) {tag : U16} {set : Bool} {t0 : Nat} (hi : s.cfg.castle = .idle)
    (hw : s.cfg.waits = [(tag, t0, .check set)]) :
    exec .castleChecksDone s = .next
      (((s.onCfg fun c => { c with waits := [] }).finish tag (checkStatus (s.failing (s.setNamed set)))
        (checkPayload (s.failing (s.setNamed set)))).serveCfg 64) := by
  have hfree : s.setsFree = true := by simp [State.setsFree, hi]
  show execCastleChecksDone s = _
  simp only [execCastleChecksDone, hi, hfree, hw]

theorem cfgCheck_done (s : State) {e : TagEntry} {set : Bool} {t0 : Nat} (hi : s.cfg.castle = .idle)
    (hw : s.cfg.waits = [(e.tag, t0, .check set)]) (ho : s.outstanding e.tag = some e) (hr : s.reachable e.src = true) :
    exec .castleChecksDone s = .next
      { s with links := (s.links.freed e.tag).reply s.dtime e.hdr e.opcode (checkStatus (s.failing (s.setNamed set)))
                          (checkPayload (s.failing (s.setNamed set)))
               cfg := { s.cfg with waits := [] } } := by
  rw [cfgCheckDone_eq s hi hw, State.onCfg_finish s (fun c => { c with waits := [] }) _ _ rfl rfl ho hr]

/-- The castling catch is the later of the target and the second stroke after the present one. -/
theorem castle_armed (s : State) {tag : U16} {target t0 : Nat} (hc : s.cfg.castle = .checking tag target t0)
    (hok : s.failing s.cfg.shadow = []) :
    exec .castleChecksDone s = .next { s with cfg := { s.cfg with
      castle := .armed tag (max (s.dtime / 9600 + 2) target) (target != 0 && decide (target < s.dtime / 9600 + 2)) } } := by
  show execCastleChecksDone s = _
  simp only [execCastleChecksDone, hc, hok]
  rfl

theorem castle_inconsistent (s : State) {e : TagEntry} {target t0 g : Nat} {r : List Nat}
    (hc : s.cfg.castle = .checking e.tag target t0) (hw : s.cfg.waits = []) (ho : s.outstanding e.tag = some e)
    (hr : s.reachable e.src = true) (hf : s.failing s.cfg.shadow = g :: r) :
    exec .castleChecksDone s = .next
      { s with links := (s.links.freed e.tag).reply s.dtime e.hdr e.opcode .inconsistent (checkPayload (g :: r))
               cfg := { s.cfg with castle := .idle } } := by
  show execCastleChecksDone s = _
  simp only [execCastleChecksDone, hc, hf, List.isEmpty_cons, Bool.false_eq_true, if_false]
  exact congrArg Host.Outcome.next (State.onCfg_finish s (fun c => { c with castle := .idle }) _ _ rfl hw ho hr)

theorem shadowCopy_done (s : State) {e : TagEntry} {k t0 : Nat} {late : Bool}
    (hc : s.cfg.castle = .copying (some e.tag) k late t0) (hw : s.cfg.waits = []) (ho : s.outstanding e.tag = some e)
    (hr : s.reachable e.src = true) :
    exec .shadowCopyDone s = .next
      { s with links := (s.links.freed e.tag).reply s.dtime e.hdr e.opcode (if late then .late else .ok) (castlePayload k s.cfg.genAct)
               cfg := { s.cfg with shadow := s.cfg.active, genShad := s.cfg.genAct, castle := .idle } } := by
  show execShadowCopyDone s = _
  simp only [execShadowCopyDone, hc]
  exact congrArg Host.Outcome.next
    (State.onCfg_finish s (fun c => { c with shadow := c.active, genShad := c.genAct, castle := .idle }) _ _ rfl hw ho hr)

/-! ### Time limits that pass (R79) -/

/-- CASTLE passed a time limit: the flag fall is raised at the limit and the castling goes on as `c`. -/
def State.castleFell (s : State) (limit detail : Nat) (c : CastleSt) : State :=
  ((s.at limit).flagFall 0x0A detail).onCfg fun x => { x with castle := c }

@[simp] theorem State.castleFell_cfg (s : State) (limit detail : Nat) (c : CastleSt) :
    (s.castleFell limit detail c).cfg = { s.cfg with castle := c } := by
  simp [State.castleFell]
theorem State.castleFell_due (s : State) (limit detail : Nat) (c : CastleSt) (h : s.clk.stopped = false) :
    limit ≤ (s.castleFell limit detail c).dtime := by
  simpa [State.castleFell] using State.due_le_at_dtime s limit h
theorem State.castleFell_announced (s : State) (limit detail : Nat) (c : CastleSt) (h : s.links.events.length < 256) :
    (s.castleFell limit detail c).announced 0x800A (le 1 0x0A ++ le 3 0 ++ le 4 detail) :=
  State.flagFall_announced (s.at limit) 0x0A detail (by rwa [State.at_links])

/-- A final reply leaves the events that wait. -/
theorem State.announced_finish {s : State} {code : Nat} {fields : Bytes} (h : s.announced code fields) (tag : U16) (st : Status) (p : Bytes) :
    (s.finish tag st p).announced code fields := (State.announced_congr (State.finish_events s tag st p) code fields).2 h

theorem castleCheckFall_eq (s : State) {tag : U16} {target t0 : Nat} (hc : s.cfg.castle = .checking tag target t0) (hw : s.cfg.waits = []) :
    exec .castleCheckFlagFall s = .next ((s.castleFell (t0 + 19200) 0 .idle).finish tag .timeout []) := by
  show execCastleCheckFlagFall s = _
  simp only [execCastleCheckFlagFall, hc]
  exact congrArg Host.Outcome.next (State.serveCfg_finish (s.castleFell (t0 + 19200) 0 .idle) _ _ _ _ (by rw [State.castleFell_cfg, hw]))

theorem shadowCopyFall_eq (s : State) {tag : U16} {k t0 : Nat} {late : Bool} (hc : s.cfg.castle = .copying (some tag) k late t0)
    (hw : s.cfg.waits = []) :
    exec .shadowCopyFlagFall s
      = .next ((s.castleFell (t0 + 38400) 1 (.copying none k late t0)).finish tag .hwFault (castlePayload k s.cfg.genAct)) := by
  show execShadowCopyFlagFall s = _
  simp only [execShadowCopyFlagFall, hc]
  exact congrArg Host.Outcome.next
    (State.serveCfg_finish (s.castleFell (t0 + 38400) 1 (.copying none k late t0)) _ _ _ _ (by rw [State.castleFell_cfg, hw]))

/-- A CFG_CHECK passed its time limit: it leaves the line, and no event is raised. -/
def State.checkFell (s : State) (limit : Nat) : State :=
  ((s.at limit).onCfg fun c => { c with waits := [] }).fallLine "CFG_CHECK"

theorem cfgCheckFall_eq (s : State) {tag : U16} {set : Bool} {t0 : Nat} (hi : s.cfg.castle = .idle)
    (hw : s.cfg.waits = [(tag, t0, .check set)]) :
    exec .castleCheckFlagFall s = .next ((s.checkFell (t0 + 19200)).finish tag .timeout []) := by
  have hleft : ((s.at (t0 + 19200)).onCfg fun c => { c with waits := c.waits.filter fun w => w.1 != tag })
      = (s.at (t0 + 19200)).onCfg fun c => { c with waits := [] } := by
    simp [State.onCfg, hw]
  show execCastleCheckFlagFall s = _
  simp only [execCastleCheckFlagFall, hi, hw, List.find?_cons, CfgJob.checks, CfgJob.isCastle, Bool.false_eq_true, if_false, hleft]
  exact congrArg Host.Outcome.next (State.serveCfg_finish (s.checkFell (t0 + 19200)) _ _ _ _ (by simp [State.checkFell]))

theorem castleCheck_falls (s : State) {tag : U16} {target t0 : Nat} (hc : s.cfg.castle = .checking tag target t0) (hw : s.cfg.waits = []) :
    ∃ t, exec .castleCheckFlagFall s = .next t ∧ t.cfg = { s.cfg with castle := .idle } ∧ t.outstanding tag = none
      ∧ (s.clk.stopped = false → t0 + 19200 ≤ t.dtime)
      ∧ (s.links.events.length < 256 → t.announced 0x800A (le 1 0x0A ++ le 3 0 ++ le 4 0)) := by
  refine ⟨_, castleCheckFall_eq s hc hw, ?_, State.finish_outstanding .., fun hs => ?_, fun h => ?_⟩
  · rw [State.finish_cfg, State.castleFell_cfg]
  · rw [State.finish_dtime]
    exact State.castleFell_due s _ 0 .idle hs
  · exact State.announced_finish (State.castleFell_announced s _ 0 .idle h) ..

theorem shadowCopy_falls (s : State) {tag : U16} {k t0 : Nat} {late : Bool} (hc : s.cfg.castle = .copying (some tag) k late t0)
    (hw : s.cfg.waits = []) :
    ∃ t, exec .shadowCopyFlagFall s = .next t ∧ t.cfg = { s.cfg with castle := .copying none k late t0 } ∧ t.outstanding tag = none
      ∧ (s.links.events.length < 256 → t.announced 0x800A (le 1 0x0A ++ le 3 0 ++ le 4 1)) := by
  refine ⟨_, shadowCopyFall_eq s hc hw, ?_, State.finish_outstanding .., fun h => ?_⟩
  · rw [State.finish_cfg, State.castleFell_cfg]
  · exact State.announced_finish (State.castleFell_announced s _ 1 _ h) ..

theorem cfgCheck_falls (s : State) {tag : U16} {set : Bool} {t0 : Nat} (hi : s.cfg.castle = .idle)
    (hw : s.cfg.waits = [(tag, t0, .check set)]) :
    ∃ t, exec .castleCheckFlagFall s = .next t ∧ t.cfg = { s.cfg with waits := [] } ∧ t.outstanding tag = none
      ∧ t.links.events = s.links.events ∧ (s.clk.stopped = false → t0 + 19200 ≤ t.dtime) := by
  refine ⟨_, cfgCheckFall_eq s hi hw, ?_, State.finish_outstanding .., ?_, fun hs => ?_⟩
  · simp [State.checkFell]
  · simp [State.checkFell]
  · simpa [State.checkFell] using State.due_le_at_dtime s (t0 + 19200) hs

/-! ### The obligation -/

/-- Settles O25: the receipt of the two commands, the end of the checks of each, the end of the copy, and the time limits. -/
theorem castleProgress : Obligations.CastleProgress := by
  intro h s
  refine ⟨fun target ht hl hb hw hr => ?_, fun set ht hl => ?_, fun e set t0 hi hw ho hr => ⟨?_, cfgCheck_falls s hi hw⟩,
    fun e target t0 hc hw ho hr => ⟨castle_armed s hc, fun g r hf => ?_, castleCheck_falls s hc hw⟩,
    fun e k t0 late hc hw ho hr => ⟨?_, shadowCopy_falls s hc hw⟩⟩
  · exact ⟨_, castle_starts_checks h s ht hl hb hw hr, rfl, rfl⟩
  · exact ⟨_, cfgCheck_waits h s set ht hl, rfl, rfl⟩
  · refine ⟨_, cfgCheck_done s hi hw ho hr, rfl, fun hl => ?_, fun g r hl => ?_⟩
    · rw [hl, check_passed.1, check_passed.2]
      rfl
    · rw [hl, (check_failed g r).1, (check_failed g r).2]
      rfl
  · exact ⟨_, castle_inconsistent s hc hw ho hr hf, rfl, by rw [(check_failed g r).2]; rfl⟩
  · exact ⟨_, shadowCopy_done s hc hw ho hr, rfl, rfl⟩

end Sys2Proof.Machine

/-! ## A broadcast tune that finds SYN_V off with a relock attempt noted (R92, R136, R268) -/

namespace Sys2Proof.Machine

/-- The state on which BC_TUNE starts a tune of the VHF path: its tag is held and AF following stopped (R40, R274). -/
def State.tuneHeld (s : State) (h : Hdr) : State :=
  (({ s with links := s.accepted h 0x0060 } : State).hold h 0x0060 false).onBc fun b => { b with af := { b.af with on := false, verify := none } }

/-- BC_TUNE is carried out on the VHF path where chain B is in RECEIVE and no tune runs (R267, R268). -/
theorem bcTune_vhf (h : Hdr) (s : State) {freq : U32} (ht : s.takes h 0x0060 = true) (hl : h.len = 8) (hf : vhfOk freq.toNat = true)
    (hc : s.chainIs 4 .receive = true) (hn : s.bc.vhf.tuning = none) :
    exec (.bcTune h 0 0 0 freq) s = .next ((s.tuneHeld h).tuneVhf freq.toNat h.tag) := by
  have hform : (h.len == 8 && (0 : U16) == 0) = true := by simp [hl]
  have hrange : (vhfOk freq.toNat && (0 : U8).toNat == 0) = true := by simp [hf]
  have hfree : (if !s.chainIs 4 .receive || s.bc.vhf.tuning.isSome then some Status.busy else none) = none := by simp [hc, hn]
  show execBcTune h 0 0 0 freq s = _
  unfold execBcTune
  rw [host_takes s h 0x0060 (chkBcTune h 0 0 0 freq) _ ht (fun _ => rfl) hform hrange]
  have hstate : (chkBcTune h 0 0 0 freq { s with links := s.taken h 0x0060 }).state = none := hfree
  rw [hstate]
  rfl

/-- A tune that finds SYN_V neither locked nor hopping, and in a relock attempt, leaves its state word: the attempt in progress is to lock
at the new programme (R136, R268). -/
theorem State.tuneVhf_relocking (s : State) (f : Nat) (tag : U16) (hl : s.synIs 5 .locked = false) (hp : (s.synth 5).planned = false)
    (ha : (s.synth 5).attempt ≠ 0) : ((s.tuneVhf f tag).synth 5).w = (s.synth 5).w := by
  unfold State.tuneVhf
  extract_lets s1
  have hs : s1.synth 5 = s.synth 5 := rfl
  have hl1 : s1.synIs 5 .locked = false := hl
  have ha1 : ((s.synth 5).attempt != 0) = true := bne_iff_ne.2 ha
  simp only [hl1, hs, hp, ha1, Bool.false_and, Bool.or_false, Bool.false_eq_true, if_false, if_true]
  rw [State.onSynth, State.synth_setSynth, hs]

/-- A machine in service with chain B in RECEIVE, whose SYN_V is off and has relock attempt 1 noted. No operation of the model leads there:
`State.synOff`, which turns SYN_V off, sets its attempt to 0 and ends its hop, and a relock starts only where a synthesiser is locked or hopping
(R127, R136, R138). -/
def offWithAttempt : State :=
  { State.reset with links := { ready := true }, chains := [(4, { w := { st := 3 } })], synths := [(5, { attempt := 1 })] }

/-- The header of a BC_TUNE over SPI. -/
def tuneHdr : Hdr := { src := .spi, tag := 5, version := 1, rsv := 0, flags := 0, status := 0, len := 8, crc := 77 }

/-- A tune to 88 MHz there leaves SYN_V off. -/
theorem bcTune_offWithAttempt : ∃ t, exec (.bcTune tuneHdr 0 0 0 88000000) offWithAttempt = .next t ∧ t.synIs 5 .off = true := by
  refine ⟨_, bcTune_vhf tuneHdr offWithAttempt (by decide +kernel) rfl (by decide) rfl rfl, ?_⟩
  rw [State.synIs, State.tuneVhf_relocking _ _ _ rfl rfl (by decide)]
  rfl

/-- Refutes O41: the statement asks that BC_TUNE starts SYN_V wherever it is off, and does not ask that no relock attempt is noted for it; in
`offWithAttempt` a tune to 88 MHz leaves SYN_V off. -/
theorem not_broadcastTuning : ¬ Obligations.BroadcastTuning := by
  intro h
  obtain ⟨htune, -⟩ := h tuneHdr offWithAttempt
  obtain ⟨hvhf, -⟩ := htune 88000000 (by decide +kernel) rfl
  obtain ⟨-, hfree⟩ := hvhf (by decide) (by decide) (by decide)
  obtain ⟨t, ht, -, -, -, -, -, -, hstart⟩ := hfree rfl rfl
  obtain ⟨hsearch, -⟩ := hstart rfl
  obtain ⟨u, hu, hoff⟩ := bcTune_offWithAttempt
  obtain rfl : t = u := Host.Outcome.next.inj (ht.symm.trans hu)
  exact absurd ((beq_iff_eq.1 hsearch).symm.trans (beq_iff_eq.1 hoff)) (by decide)

end Sys2Proof.Machine

/-! ## A lock that takes its band from the cache (R128, R129) -/

namespace Sys2Proof.Machine

/-! ### What follows a lock leaves the synthesisers -/

/-- Lanes that follow their pair change the reception alone (R101, R155). -/
theorem State.followLane_frame (s : State) (i : Nat) : s.followLane i = { s with rx := (s.followLane i).rx } := by
  unfold State.followLane
  split
  · split <;> rfl
  · split <;> rfl

theorem State.followLanes_frame (s : State) (pair : Nat) : s.followLanes pair = { s with rx := (s.followLanes pair).rx } := by
  refine State.each_keeps (P := fun t => t = { s with rx := t.rx }) (fun t i ht => ?_) _ s rfl
  rw [State.followLane_frame, ht]

theorem State.followAll_frame (s : State) : s.followAll = { s with rx := s.followAll.rx } := by
  unfold State.followAll
  rw [State.followLanes_frame (s.followLanes 0) 1, State.followLanes_frame s 0]

@[simp] theorem State.followAll_synth (s : State) (y : Nat) : s.followAll.synth y = s.synth y := by rw [State.followAll_frame]; rfl
@[simp] theorem State.followAll_chain (s : State) (i : Nat) : s.followAll.chain i = s.chain i := by rw [State.followAll_frame]; rfl

/-- A chain on which no CHAIN_STATE waits is left as it is (R41). -/
theorem State.serveChain_idle (s : State) (i n : Nat) (h : (s.chain i).waits = []) : s.serveChain i n = s := by
  cases n with
  | zero => rfl
  | succ n => simp only [State.serveChain, h]

theorem State.serveChains_idle (s : State) (h : ∀ i, (s.chain i).waits = []) : s.serveChains = s :=
  State.each_keeps (P := fun t => t = s) (fun t i ht => by rw [ht, State.serveChain_idle s i 16 (h i)]) _ s rfl

/-! ### The band of a confirmed lock -/

/-- A lock on a cached band makes the entry of the cache the most recently used one; what the lock brings is not entered (R128, R129). -/
theorem State.rememberBand_cached (s : State) {y : Nat} {e : BandEntry} (band : BitVec 6) (margin : Nat) (hc : (s.synth y).cached = true)
    (he : s.cachedBand y (s.synth y).n (s.synth y).d = some e) : s.rememberBand y band margin = s.useEntry y e := by
  simp only [State.rememberBand, hc, if_true, he]

theorem State.useEntry_cache_head (s : State) (y : Nat) (e : BandEntry) : ((s.useEntry y e).synth y).cache.head? = some e := by
  simp [State.useEntry, State.onSynth]

/-- A lock that is no relock leaves the cache as its band was remembered. -/
theorem State.lockAt_cache (s : State) (y : Nat) (band : BitVec 6) (margin : Nat) (hw : ∀ i, (s.chain i).waits = []) :
    ((s.lockAt y band margin).synth y).cache = ((s.rememberBand y band margin).synth y).cache := by
  have hchain (i : Nat) : (s.rememberBand y band margin).chain i = s.chain i := by
    unfold State.rememberBand
    dsimp only
    split <;> rfl
  unfold State.lockAt
  rw [State.serveChains_idle _ fun i => by rw [State.followAll_chain]; exact (congrArg Chain.waits (hchain i)).trans (hw i),
    State.followAll_synth]
  show (((s.rememberBand y band margin).lockSyn y).synth y).cache = _
  simp [State.lockSyn, State.moveSyn, State.onSynth]

/-- SYNTH_LOCK_CONFIRMED on a cached band: the most recently used entry is that of the cache, whatever band the row brings (R128, R129). -/
theorem synthLockConfirmed_cached (y : Fin 6) (s : State) {e : BandEntry} (band : BitVec 6) (margin : Nat)
    (hw : ∀ i, (s.chain i).waits = []) (ha : (s.synth y).attempt = 0) (hp : (s.synth y).planned = true) (hc : (s.synth y).cached = true)
    (he : s.cachedBand y (s.synth y).n (s.synth y).d = some e) :
    ∃ t, exec (.synthLockConfirmed y band margin) s = .next t ∧ (t.synth y).cache.head? = some e := by
  refine ⟨s.lockAt y band margin, ?_, ?_⟩
  · show execSynthLockConfirmed y band margin s = _
    simp [execSynthLockConfirmed, ha, hp]
  · rw [State.lockAt_cache s y band margin hw, State.rememberBand_cached s band margin hc he, State.useEntry_cache_head]

/-! ### The obligation -/

/-- Band 5 for N 720 and D 4, as a search at 0 °C found it. -/
def entry720 : BandEntry := { n := 720, d := 4, band := 5, temp := 0, margin := 50 }

/-- SYN_H, locked at N 740 with an entry of its cache for N 720, hops there (R103, R129). -/
def cachedHop : State :=
  ({ State.reset with synths := [(3, { w := { st := 2 }, n := 740, d := 4, cache := [entry720] })] } : State).hopSyn 3 720 4

/-- Refutes O35: the statement asks that a confirmed lock enters the band that the row brings, and does not ask that the lock is one of a band
search. In `cachedHop` SYN_H locks on band 5 of its cache, so band 7 of the row is not remembered (R128, R129). -/
theorem not_lockSequence : ¬ Obligations.LockSequence := by
  intro h
  have hw (i : Nat) : (cachedHop.chain i).waits = [] := rfl
  obtain ⟨-, -, hband⟩ := h 3 cachedHop hw
  obtain ⟨-, -, -, hconfirmed, -⟩ := hband 7 30
  obtain ⟨t, ht, -, -, e, he, -, -, h7⟩ := hconfirmed rfl rfl
  obtain ⟨u, hu, h5⟩ := synthLockConfirmed_cached 3 cachedHop 7 30 hw rfl rfl (by decide) (e := entry720) (by decide)
  obtain rfl : t = u := Host.Outcome.next.inj (ht.symm.trans hu)
  obtain rfl : e = entry720 := Option.some.inj (he.symm.trans h5)
  exact absurd h7 (by decide)

end Sys2Proof.Machine

/-! ## A host command that `State.takes` admits is turned away, answered, or queued (R33, R43, R44) -/

namespace Sys2Proof.Machine

/-- The parts of `State.takes` that a final reply needs: the transport is on and the tag is free. -/
theorem State.takes_free {s : State} {h : Hdr} {op : Nat} (ht : s.takes h op = true) :
    s.reachable h.src = true ∧ s.outstanding h.tag = none := by
  obtain ⟨-, hr, -, -, ho, -⟩ := (takes_iff s h op).1 ht
  exact ⟨hr, ho⟩

/-- A command that its own state check refuses is turned away with that status and has no other effect. -/
theorem host_turnedAway (s : State) (h : Hdr) (op : Nat) (c : State → Check) (act : State → State) (st : Status) (ht : s.takes h op = true)
    (hop : ∀ x, (c x).op = op) (hform : (c { s with links := s.taken h op }).form = true)
    (hrange : (c { s with links := s.taken h op }).range = true) (hstate : (c { s with links := s.taken h op }).state = some st)
    (hrefusal : (c { s with links := s.taken h op }).refusal = []) :
    .next (s.host h op c act) = s.turnedAway h op st [] := by
  obtain ⟨hr, ho⟩ := State.takes_free ht
  rw [host_takes s h op c act ht hop hform hrange, hstate, hrefusal]
  exact congrArg Host.Outcome.next (answer_eq { s with links := s.taken h op } h op st [] hr ho)

/-- A command that nothing common stops goes to its own checks once its message is taken (R33, R39, R53). -/
theorem State.host_eq_checked (s : State) (h : Hdr) (op : Nat) (c : State → Check) (act : State → State) (ht : s.takes h op = true) :
    s.host h op c act
      = ({ s with links := s.taken h op } : State).checked h (c { s with links := s.taken h op }) act := by
  obtain ⟨hready, hr, hclean, -, -, -, -, -, hst, hent, hfifo, hlen⟩ := (takes_iff s h op).1 ht
  have hflags : bitsOf h.flags.toNat 14 2 = 0 := by
    have h0 : h.flags = 0 := by simp [hdrClean] at hclean; exact hclean.1.2
    simp [h0, bitsOf]
  have hrouse : s.rouse op = s := by simp [State.rouse, hst, hent]
  have hfit : ¬ payloadLimit h.src < h.len := by omega
  simp [State.host, State.arrived, hready, hr, hflags, hrouse, State.command, hfit, receive_eq s h op hfifo]

/-- A command whose range check fails is turned away with RANGE (R33). -/
theorem host_outOfRange (s : State) (h : Hdr) (op : Nat) (c : State → Check) (act : State → State) (ht : s.takes h op = true)
    (hop : ∀ x, (c x).op = op) (hform : (c { s with links := s.taken h op }).form = true)
    (hrange : (c { s with links := s.taken h op }).range = false) (hrefusal : (c { s with links := s.taken h op }).refusal = []) :
    .next (s.host h op c act) = s.turnedAway h op .range [] := by
  obtain ⟨-, -, hclean, -, -, hcache, -, hrec, -⟩ := (takes_iff s h op).1 ht
  obtain ⟨hr, ho⟩ := State.takes_free ht
  have hanswer := answer_eq { s with links := s.taken h op } h op .range [] hr ho
  have ho' : ({ s with links := s.taken h op } : State).outstanding h.tag = none := ho
  have hcache' : ({ s with links := s.taken h op } : State).cached h op = none := hcache
  rw [State.host_eq_checked s h op c act ht]
  simp only [State.checked, hop, ho', hcache', hclean, hform, hrange, hrec, hrefusal, Option.any_none, Option.isSome_none, Bool.and_self,
    Bool.not_true, Bool.not_false, Bool.false_and, Bool.or_self, Bool.or_true, Bool.false_eq_true, if_false, if_true, hanswer]
  rfl

/-- The state after a command that was answered and changed the directory to `d`, and nothing else. -/
def State.replied (s : State) (h : Hdr) (op : Nat) (st : Status) (p : Bytes) (d : Directory) : State :=
  { s with links := (s.accepted h op).reply s.dtime h op st p, dir := d }

/-- Where one entry was written, it reads as written and every other one stays. -/
theorem State.replied_entry (s : State) (h : Hdr) (op : Nat) (st : Status) (p : Bytes) {d : Directory} {i : Nat} {x : DirEntry}
    (hd : d.entries = putT s.dir.entries i x) :
    (s.replied h op st p d).entry i = x ∧ ∀ j, j ≠ i → (s.replied h op st p d).entry j = s.entry j := by
  have hentry (j : Nat) : (s.replied h op st p d).entry j = getT {} (putT s.dir.entries i x) j := congrArg (fun l => getT ({} : DirEntry) l j) hd
  exact ⟨(hentry i).trans (getT_putT ..), fun j hj => (hentry j).trans (getT_putT_ne _ _ _ _ _ hj)⟩

/-- A command that passes its checks and acts on the directory `d` is answered. -/
theorem host_replied (s u : State) (h : Hdr) (op : Nat) (c : State → Check) (act : State → State) (st : Status) (p : Bytes)
    (ht : s.takes h op = true) (hop : ∀ x, (c x).op = op) (hform : (c { s with links := s.taken h op }).form = true)
    (hrange : (c { s with links := s.taken h op }).range = true) (hstate : (c { s with links := s.taken h op }).state = none)
    (hact : act { s with links := s.accepted h op } = u.answer h op st p) (hu : u = { s with links := s.accepted h op, dir := u.dir }) :
    s.host h op c act = s.replied h op st p u.dir := by
  obtain ⟨hr, ho⟩ := State.takes_free ht
  rw [host_takes s h op c act ht hop hform hrange, hstate]
  refine hact.trans ?_
  rw [hu]
  exact answer_eq { s with links := s.accepted h op, dir := u.dir } h op st p hr ho

/-- The first step of a long operation raises no EV_PROGRESS (R65). -/
theorem State.progressEvent_zero (s : State) (tag : U16) (code old total : Nat) : s.progressEvent tag code old 0 total = s := by
  have hp : progressOf 0 total = 0 ∨ progressOf 0 total = 1000 := by
    unfold progressOf
    split <;> simp
  rcases hp with hp | hp <;> simp [State.progressEvent, hp]

/-- A QUEUED reply whose transport is on changes the links alone (R44). -/
theorem State.queued_eq (s : State) (h : Hdr) (op : Nat) (long : Bool) (hr : s.reachable h.src = true) :
    s.queued h op long = { s with links := (s.links.held s.dtime h op long 1).queued h op } := by
  have hheld : (s.hold h op long).reachable h.src = true := hr
  simp only [State.queued, State.post, mkReply, hheld, if_true]
  rfl

/-- A free tag that becomes outstanding is found among the tags. -/
theorem Links.held_find (l : Links) (now : Nat) (h : Hdr) (op : Nat) (long : Bool) (total : Nat)
    (hfree : l.tags.find? (fun t => t.tag == h.tag) = none) :
    (l.held now h op long total).tags.find? (fun t => t.tag == h.tag)
      = some { tag := h.tag, opcode := op, crc := h.crc, src := h.src, received := now, long := long, stepAt := now, done := 0
               total := total } := by
  simp [Links.held, hfree]

/-- A QUEUED reply to a free tag, for a long operation of `total` steps of which none is done (R44, R65). -/
theorem State.queued_progress_zero (s : State) (h : Hdr) (op total : Nat) (hr : s.reachable h.src = true) (ho : s.outstanding h.tag = none) :
    (s.queued h op true).progress h.tag 0 total = { s with links := (s.links.held s.dtime h op true total).queued h op } := by
  have hfree : ∀ x ∈ s.links.tags, x.tag ≠ h.tag := fun x hx => by simpa using List.find?_eq_none.1 ho x hx
  have hkeep : s.links.tags.map (fun e => if e.tag == h.tag then { e with done := 0, total := total, stepAt := s.dtime } else e)
      = s.links.tags := by
    refine (List.map_congr_left fun x hx => ?_).trans (List.map_id _)
    simp [hfree x hx]
  rw [State.queued_eq s h op true hr]
  unfold State.progress
  simp only [Links.queued, Links.held_find s.links s.dtime h op true 1 ho, State.progressEvent_zero]
  simp only [State.onLinks, Links.held, List.map_append, hkeep, List.map_cons, List.map_nil, beq_self_eq_true, if_true]

end Sys2Proof.Machine

/-! ## Directory commands (R224 to R227, R238 to R241) -/

namespace Sys2Proof.Machine

/-! ### Directory entries -/

/-- A flag that is set or cleared reads as it was left, and the other flags stay. -/
theorem DirEntry.has_mark (e : DirEntry) (i j : Nat) (v : Bool) (hi : i < 16) : (e.mark i v).has j = if j = i then v else e.has j := by
  have hbit : (BitVec.ofNat 16 (2 ^ i)).getLsbD j = decide (j = i) := by
    rw [BitVec.getLsbD_ofNat, Nat.testBit_two_pow]
    by_cases hj : j = i
    · simp [hj, hi]
    · simp [hj, Ne.symm hj]
  cases v with
  | true =>
    have hor : (e.mark i true).has j = (e.has j || decide (j = i)) := by
      simp only [DirEntry.mark, DirEntry.has, if_true, BitVec.getLsbD_or, hbit]
    rw [hor]
    by_cases hj : j = i <;> simp [hj]
  | false =>
    have hand : (e.mark i false).has j = (e.has j && (decide (j < 16) && !decide (j = i))) := by
      simp only [DirEntry.mark, DirEntry.has, Bool.false_eq_true, if_false, BitVec.getLsbD_and, BitVec.getLsbD_not, hbit]
    have hlow : e.has j = true → j < 16 := BitVec.lt_of_getLsbD
    rw [hand]
    by_cases hj : j = i
    · simp [hj]
    · simpa [hj] using hlow

/-- A flag written under a condition. -/
theorem DirEntry.has_ite_mark (e : DirEntry) (c : Bool) (i j : Nat) (v : Bool) (hi : i < 16) :
    (if c then e.mark i v else e).has j = if c ∧ j = i then v else e.has j := by
  cases c <;> simp [DirEntry.has_mark e i j v hi]

section
variable (e : DirEntry) (mask interval flags : U16)

/-- The interval is written, the key zeroed and the address left as the mask has it (R239). -/
theorem DirEntry.update_fields :
    (e.update mask interval flags).expInterval = (if mask.getLsbD 0 then interval else e.expInterval)
    ∧ (e.update mask interval flags).wkey = (if mask.getLsbD 2 then List.replicate 24 0 else e.wkey)
    ∧ (e.update mask interval flags).addr = e.addr := by
  unfold DirEntry.update
  cases mask.getLsbD 0 <;> cases mask.getLsbD 1 <;> cases mask.getLsbD 2 <;> exact ⟨rfl, rfl, rfl⟩

/-- The flags of an update: LEARNED is cleared with a new interval, WATCH written, KEY cleared with the key (R239). -/
theorem DirEntry.update_has (j : Nat) :
    (e.update mask interval flags).has j
      = if mask.getLsbD 2 ∧ j = fKey then false
        else if mask.getLsbD 1 ∧ j = fWatch then flags.getLsbD 1
        else if mask.getLsbD 0 ∧ j = fLearned then false
        else e.has j := by
  have hmarks : (e.update mask interval flags).has j
      = (let e1 := if mask.getLsbD 0 then e.mark fLearned false else e
         let e2 := if mask.getLsbD 1 then e1.mark fWatch (flags.getLsbD 1) else e1
         if mask.getLsbD 2 then e2.mark fKey false else e2 : DirEntry).has j := by
    unfold DirEntry.update
    cases mask.getLsbD 0 <;> cases mask.getLsbD 1 <;> cases mask.getLsbD 2 <;> rfl
  rw [hmarks, DirEntry.has_ite_mark _ _ fKey _ _ (by decide), DirEntry.has_ite_mark _ _ fWatch _ _ (by decide),
    DirEntry.has_ite_mark _ _ fLearned _ _ (by decide)]

theorem DirEntry.update_watch :
    (e.update mask interval flags).has fWatch = if mask.getLsbD 1 then flags.getLsbD 1 else e.has fWatch := by
  rw [DirEntry.update_has]
  simp [show fWatch ≠ fKey by decide, show fWatch ≠ fLearned by decide]
theorem DirEntry.update_key : (e.update mask interval flags).has fKey = if mask.getLsbD 2 then false else e.has fKey := by
  rw [DirEntry.update_has]
  simp [show fKey ≠ fWatch by decide, show fKey ≠ fLearned by decide]
theorem DirEntry.update_inUse : (e.update mask interval flags).has fInUse = e.has fInUse := by
  rw [DirEntry.update_has]
  simp [show fInUse ≠ fKey by decide, show fInUse ≠ fWatch by decide, show fInUse ≠ fLearned by decide]

end

/-! ### The table of entries and the indices -/

theorem delT_cons {α : Type} (k i : Nat) (v : α) (t : Tab α) : delT ((k, v) :: t) i = if k = i then t else (k, v) :: delT t i := by
  simp [delT]

theorem getT_delT_ne {α : Type} (d : α) (t : Tab α) (i j : Nat) (h : j ≠ i) : getT d (delT t i) j = getT d t j := by
  induction t with
  | nil => rfl
  | cons p t ih =>
    obtain ⟨k, v⟩ := p
    rw [delT_cons]
    split
    · next hk => simp [getT, hk, h.symm]
    · simp [getT, ih]

/-- A number that a table does not list reads as the default. -/
theorem getT_of_not_mem {α : Type} (d : α) (t : Tab α) (i : Nat) (h : i ∉ t.map (·.1)) : getT d t i = d := by
  induction t with
  | nil => rfl
  | cons p t ih =>
    obtain ⟨k, v⟩ := p
    rw [List.map_cons, List.mem_cons, not_or] at h
    simpa [getT, Ne.symm h.1] using ih h.2

/-- In a table that lists each number once, an entry taken out reads as the default. -/
theorem getT_delT {α : Type} (d : α) (t : Tab α) (i : Nat) (h : (t.map (·.1)).Nodup) : getT d (delT t i) i = d := by
  induction t with
  | nil => rfl
  | cons p t ih =>
    obtain ⟨k, v⟩ := p
    obtain ⟨hk, ht⟩ := List.nodup_cons.1 h
    rw [delT_cons]
    split
    · next hki => exact getT_of_not_mem d t i (hki ▸ hk)
    · next hki => simpa [getT, hki] using ih ht

/-- The indices that pass the range check are those below the capacity (R239). -/
theorem State.indexOk_iff (s : State) (index : U32) : s.indexOk index = true ↔ index.toNat < s.capacity := decide_eq_true_iff

theorem State.indexState_rebuilding (s : State) (i : Nat) (h : s.dir.rebuild.isSome = true) : s.indexState i = some .busy := by
  simp [State.indexState, h]
theorem State.indexState_unused (s : State) (i : Nat) (h : s.dir.rebuild = none) (hu : (s.entry i).has fInUse = false) :
    s.indexState i = some .notFound := by
  simp [State.indexState, h, hu]
theorem State.indexState_inUse (s : State) (i : Nat) (h : s.dir.rebuild = none) (hu : (s.entry i).has fInUse = true) :
    s.indexState i = none := by
  simp [State.indexState, h, hu]

/-! ### DIR_ADD (R226, R238) -/

/-- The flags of a DIR_ADD: KEY and WATCH. -/
def addFlags (key watch : Bool) : U16 := (if key then 1 else 0) ||| (if watch then 2 else 0)

theorem addFlags_bits (key watch : Bool) :
    (addFlags key watch).getLsbD 0 = key ∧ (addFlags key watch).getLsbD 1 = watch ∧ (addFlags key watch).toNat < 4 := by
  cases key <;> cases watch <;> decide

/-- The flags of the entry that it makes: IN_USE, KEY and WATCH (R225). -/
def addedFlags (key watch : Bool) : U16 := 1 ||| (if key then 2 else 0) ||| (if watch then 4 else 0)

theorem addedFlags_bits (key watch : Bool) :
    (addedFlags key watch).getLsbD fInUse = true ∧ (addedFlags key watch).getLsbD fKey = key ∧ (addedFlags key watch).getLsbD fWatch = watch := by
  cases key <;> cases watch <;> decide

/-- The payload of a DIR_ADD has the length that its KEY flag asks for (R238). -/
def addForm (h : Hdr) (key : Bool) (wkey : Bytes) : Prop := h.len = (if key then 36 else 12) ∧ wkey.length = (if key then 24 else 0)

theorem chkDirAdd_form (h : Hdr) (a : Addr) (key watch : Bool) (wkey : Bytes) (s : State) (hf : addForm h key wkey) :
    (chkDirAdd h a (addFlags key watch) wkey s).form = true := by
  obtain ⟨hkey, -, hlt⟩ := addFlags_bits key watch
  obtain ⟨hl, hw⟩ := hf
  simp only [chkDirAdd, hkey, hl, hw, hlt, decide_true, beq_self_eq_true, Bool.and_self]

/-- The state checks of DIR_ADD in their order (R226, R238). -/
theorem chkDirAdd_state (h : Hdr) (a : Addr) (key watch : Bool) (wkey : Bytes) (s : State) :
    (chkDirAdd h a (addFlags key watch) wkey s).state =
      if s.dir.rebuild.isSome then some .busy
      else if (s.lookup a).isSome then some .locked
      else if s.freeIndex.isNone then some (if s.capacity ≤ s.entriesUsed then .noCredit else .busy)
      else if key && (unwrapKey s.boot.wrapKey wkey).isNone then some .authFail
      else none := by
  simp only [chkDirAdd, (addFlags_bits key watch).1]

section
variable (h : Hdr) (mfr : U16) (ident : U32) (version type : U8) (interval : U16) (key watch : Bool) (wkey : Bytes) (s : State)

/-- A DIR_ADD that its state check refuses. -/
theorem dirAdd_turnedAway (st : Status) (ht : s.takes h 0x0040 = true) (hf : addForm h key wkey)
    (hstate : (chkDirAdd h (ident, mfr, version, type) (addFlags key watch) wkey s).state = some st) :
    exec (.dirAdd h mfr ident version type interval (addFlags key watch) wkey) s = s.turnedAway h 0x0040 st [] :=
  host_turnedAway s h 0x0040 (chkDirAdd h _ _ wkey) (actDirAdd h _ interval _ wkey) st ht (fun _ => rfl)
    (chkDirAdd_form h _ key watch wkey _ hf) rfl hstate rfl

/-- The entry that DIR_ADD makes (R225). -/
def addedEntry : DirEntry :=
  { ident := ident, mfr := mfr, version := version, type_ := type, expInterval := interval
    flags := addedFlags key watch, wkey := if key then wkey else List.replicate 24 0 }

/-- The directory after a DIR_ADD at index `i`: the entry, and its slot of the index table. -/
def State.addedDir (i : Nat) : Directory :=
  ((s.setEntry i (addedEntry mfr ident version type interval key watch wkey)).addSlot (ident, mfr, version, type) i).dir

theorem dirAdd_enters (i : Nat) (ht : s.takes h 0x0040 = true) (hf : addForm h key wkey)
    (hstate : (chkDirAdd h (ident, mfr, version, type) (addFlags key watch) wkey s).state = none) (hi : s.freeIndex = some i) :
    exec (.dirAdd h mfr ident version type interval (addFlags key watch) wkey) s
      = .next (s.replied h 0x0040 .ok (le 4 i) (s.addedDir mfr ident version type interval key watch wkey i)) := by
  obtain ⟨hkey, hwatch, -⟩ := addFlags_bits key watch
  have hfree : ({ s with links := s.accepted h 0x0040 } : State).freeIndex = some i := hi
  refine congrArg Host.Outcome.next
    (host_replied s
      ((({ s with links := s.accepted h 0x0040 } : State).setEntry i (addedEntry mfr ident version type interval key watch wkey)).addSlot
        (ident, mfr, version, type) i)
      h 0x0040 (chkDirAdd h _ _ wkey) (actDirAdd h _ interval _ wkey) .ok (le 4 i) ht (fun _ => rfl)
      (chkDirAdd_form h _ key watch wkey _ hf) rfl hstate ?_ rfl)
  simp only [actDirAdd, hfree, hkey, hwatch]
  rfl

end

/-! ### DIR_UPDATE, DIR_REMOVE and KEY_LOAD of an entry in use (R227, R239) -/

section
variable (h : Hdr) (index : U32) (s : State)

/-- The directory after a DIR_UPDATE. -/
def State.updatedDir (mask interval flags : U16) : Directory :=
  let s1 := s.onEntry index.toNat fun e => e.update mask interval flags
  (if mask.getLsbD 2 then s1.dropKey index.toNat else s1).dir

theorem State.updatedDir_entries (mask interval flags : U16) : (s.updatedDir index mask interval flags).entries
    = putT s.dir.entries index.toNat ((s.entry index.toNat).update mask interval flags) := by
  dsimp only [State.updatedDir]
  split <;> rfl

theorem dirUpdate_done (mask interval flags : U16) (ht : s.takes h 0x0041 = true) (hl : h.len = 10) (hm : mask ≠ 0) (hm8 : mask.toNat < 8)
    (hf : flags = 0 ∨ flags = 2) (hi : index.toNat < s.capacity) (hr : s.dir.rebuild = none) (hu : (s.entry index.toNat).has fInUse = true) :
    exec (.dirUpdate h index mask interval flags) s = .next (s.replied h 0x0041 .ok [] (s.updatedDir index mask interval flags)) := by
  have hrange : (s.indexOk index) = true := (s.indexOk_iff index).2 hi
  have hform : (h.len == 10 && mask != 0 && mask.toNat < 8 && flags.toNat < 4 && !flags.getLsbD 0) = true := by
    rcases hf with rfl | rfl <;> simpa [hl, hm8] using hm
  refine congrArg Host.Outcome.next
    (host_replied s { s with links := s.accepted h 0x0041, dir := s.updatedDir index mask interval flags } h 0x0041 _ _ .ok [] ht
      (fun _ => rfl) hform hrange (s.indexState_inUse index.toNat hr hu) ?_ rfl)
  dsimp only [State.updatedDir]
  split <;> rfl

/-- The directory after a DIR_REMOVE: the entry cleared, its slot removed, its key out of the cache, its index in quarantine. -/
def State.removedDir : Directory :=
  let d := ((s.dropSlot index.toNat).dropKey index.toNat).dir
  { d with entries := delT d.entries index.toNat, mismatch := d.mismatch.filter fun m => m.1 != index.toNat
           quarantine := d.quarantine ++ [(index.toNat, s.dtime + 4000 * strokeLen)] }

/-- Marking a slot removed changes the index table alone (R239). -/
theorem State.dropSlot_dir (i : Nat) : (s.dropSlot i).dir = { s.dir with slots := (s.dropSlot i).dir.slots } := by
  simp only [State.dropSlot, State.onDir]
  split <;> rfl

theorem State.removedDir_eq : s.removedDir index =
    { s.dir with slots := (s.dropSlot index.toNat).dir.slots, keys := s.dir.keys.filter fun k => k.1 != index.toNat
                 entries := delT s.dir.entries index.toNat, mismatch := s.dir.mismatch.filter fun m => m.1 != index.toNat
                 quarantine := s.dir.quarantine ++ [(index.toNat, s.dtime + 4000 * strokeLen)] } := by
  simp only [State.removedDir, State.dropKey, State.onDir_dir]
  rw [State.dropSlot_dir]

theorem dirRemove_done (ht : s.takes h 0x0042 = true) (hl : h.len = 4) (hi : index.toNat < s.capacity) (hr : s.dir.rebuild = none)
    (hu : (s.entry index.toNat).has fInUse = true) :
    exec (.dirRemove h index) s = .next (s.replied h 0x0042 .ok [] (s.removedDir index)) :=
  congrArg Host.Outcome.next
    (host_replied s { s with links := s.accepted h 0x0042, dir := s.removedDir index } h 0x0042 _ _ .ok [] ht (fun _ => rfl)
      (beq_iff_eq.2 hl) ((s.indexOk_iff index).2 hi) (s.indexState_inUse index.toNat hr hu) rfl rfl)

/-- A DIR_REMOVE that its state check refuses. -/
theorem dirRemove_turnedAway (st : Status) (ht : s.takes h 0x0042 = true) (hl : h.len = 4) (hi : index.toNat < s.capacity)
    (hstate : s.indexState index.toNat = some st) : exec (.dirRemove h index) s = s.turnedAway h 0x0042 st [] :=
  host_turnedAway s h 0x0042 _ _ st ht (fun _ => rfl) (beq_iff_eq.2 hl) ((s.indexOk_iff index).2 hi) hstate rfl

theorem dirRemove_outOfRange (ht : s.takes h 0x0042 = true) (hl : h.len = 4) (hi : s.capacity ≤ index.toNat) :
    exec (.dirRemove h index) s = s.turnedAway h 0x0042 .range [] :=
  host_outOfRange s h 0x0042 _ _ ht (fun _ => rfl) (beq_iff_eq.2 hl) (decide_eq_false (Nat.not_lt.2 hi)) rfl

/-- The directory after a KEY_LOAD. -/
def State.keyedDir (wkey : Bytes) : Directory :=
  ((s.onEntry index.toNat fun e => { e with wkey := wkey, m7 := 0 }.mark fKey true).dropKey index.toNat).dir

theorem keyLoad_done (wkey : Bytes) (ht : s.takes h 0x0044 = true) (hl : h.len = 28) (hw : wkey.length = 24) (hi : index.toNat < s.capacity)
    (hr : s.dir.rebuild = none) (hu : (s.entry index.toNat).has fInUse = true) (hk : (unwrapKey s.boot.wrapKey wkey).isSome = true) :
    exec (.keyLoad h index wkey) s = .next (s.replied h 0x0044 .ok [] (s.keyedDir index wkey)) := by
  have hfree : ({ s with links := s.taken h 0x0044 } : State).indexState index.toNat = none := s.indexState_inUse index.toNat hr hu
  have hkey : (unwrapKey s.boot.wrapKey wkey).isNone = false := by rw [← Option.not_isSome, hk]; rfl
  refine congrArg Host.Outcome.next
    (host_replied s { s with links := s.accepted h 0x0044, dir := s.keyedDir index wkey } h 0x0044 _ _ .ok [] ht (fun _ => rfl)
      (by simp [hl, hw]) ((s.indexOk_iff index).2 hi) ?_ rfl rfl)
  simp only [hfree, hkey, Bool.false_eq_true, if_false]

/-- A KEY_LOAD whose key does not unwrap (R226). -/
theorem keyLoad_authFail (wkey : Bytes) (ht : s.takes h 0x0044 = true) (hl : h.len = 28) (hw : wkey.length = 24) (hi : index.toNat < s.capacity)
    (hr : s.dir.rebuild = none) (hu : (s.entry index.toNat).has fInUse = true) (hk : unwrapKey s.boot.wrapKey wkey = none) :
    exec (.keyLoad h index wkey) s = s.turnedAway h 0x0044 .authFail [] := by
  have hfree : ({ s with links := s.taken h 0x0044 } : State).indexState index.toNat = none := s.indexState_inUse index.toNat hr hu
  refine host_turnedAway s h 0x0044 _ _ .authFail ht (fun _ => rfl) (by simp [hl, hw]) ((s.indexOk_iff index).2 hi) ?_ rfl
  simp only [hfree, hk, Option.isNone_none, if_true]

end

/-! ### DIR_QUERY and the rebuild (R240, R241) -/

/-- The counts and summaries that DIR_QUERY returns (R241). -/
def State.queryPayload (s : State) (first count : Nat) : Bytes :=
  let l := s.queryEntries first count
  le 4 s.entriesUsed ++ le 4 s.capacity ++ le 2 l.length ++ le 2 0 ++ (l.map fun x => summaryOf x.1 x.2).flatten

theorem dirQuery_done (h : Hdr) (first : U32) (count : U16) (s : State) (ht : s.takes h 0x0043 = true) (hl : h.len = 6)
    (hc : count.toNat ≤ if h.src = .spi then 127 else 45) :
    exec (.dirQuery h first count) s = .next (s.replied h 0x0043 .ok (s.queryPayload first.toNat count.toNat) s.dir) := by
  refine congrArg Host.Outcome.next
    (host_replied s { s with links := s.accepted h 0x0043 } h 0x0043 _ _ .ok (s.queryPayload first.toNat count.toNat) ht (fun _ => rfl)
      (beq_iff_eq.2 hl) ?_ rfl rfl rfl)
  cases hs : h.src with
  | spi => simpa [hs] using hc
  | udp ip port => simpa [hs] using hc

/-- A rebuild is a long operation of one step for each 16,384 entries (R240). -/
theorem dirRebuild_queued (h : Hdr) (s : State) (ht : s.takes h 0x0041 = true) (hl : h.len = 10) (hr : s.dir.rebuild = none) :
    exec (.dirRebuild h 0 0 0) s = .next
      { s with links := ((s.accepted h 0x0041).held s.dtime h 0x0041 true (s.capacity / 16384)).queued h 0x0041
               dir := { s.dir with rebuild := some (h.tag, 0) } } := by
  obtain ⟨hreach, hout⟩ := State.takes_free ht
  have hidle : (if s.dir.rebuild.isSome then some Status.busy else none) = none := by simp [hr]
  show execDirRebuild h 0 0 0 s = _
  unfold execDirRebuild
  rw [host_takes s h 0x0041 _ _ ht (fun _ => rfl) (by simp [hl]) rfl]
  simp only [hidle]
  exact congrArg (fun t : State => Host.Outcome.next (t.onDir fun d => { d with rebuild := some (h.tag, 0) }))
    (State.queued_progress_zero { s with links := s.accepted h 0x0041 } h 0x0041 (s.capacity / 16384) hreach hout)

theorem dirRebuild_busy (h : Hdr) (s : State) (ht : s.takes h 0x0041 = true) (hl : h.len = 10) (hr : s.dir.rebuild.isSome = true) :
    exec (.dirRebuild h 0 0 0) s = s.turnedAway h 0x0041 .busy [] :=
  host_turnedAway s h 0x0041 _ _ .busy ht (fun _ => rfl) (by simp [hl]) rfl (if_pos hr) rfl

/-! ### The obligations -/

/-- Settles O26: DIR_ADD by the order of its state checks (R238), the other commands by what each does on an entry in use. -/
theorem directoryAdd : Obligations.DirectoryAdd := by
  intro h mfr ident version type interval key watch wkey s a flags cmd
  refine ⟨fun ht hl hw hr => ?_, fun hr => ⟨fun ht hl hw => ⟨fun j hj => ?_, fun i ha hi => ⟨fun ⟨hkey, hk⟩ => ?_, fun hk => ?_⟩⟩,
    fun index hi hu => ⟨fun mask flags ht hl hm hm8 hf => ?_, fun ht hl => ?_, fun ht hl k hw hk => ?_⟩, fun ht hl => ?_⟩,
    fun first count ht hl hc => ?_⟩
  · refine dirAdd_turnedAway h mfr ident version type interval key watch wkey s .busy ht ⟨hl, hw⟩ ?_
    rw [chkDirAdd_state, if_pos hr]
  · refine dirAdd_turnedAway h mfr ident version type interval key watch wkey s .locked ht ⟨hl, hw⟩ ?_
    simp only [a] at hj
    simp [chkDirAdd_state, hr, hj]
  · refine dirAdd_turnedAway h mfr ident version type interval key watch wkey s .authFail ht ⟨hl, hw⟩ ?_
    simp only [a] at ha
    simp [chkDirAdd_state, hr, ha, hi, hk, hkey]
  · have hstate : (chkDirAdd h (ident, mfr, version, type) (addFlags key watch) wkey s).state = none := by
      have hkey : key = true → ¬ unwrapKey s.boot.wrapKey wkey = none := fun hkey hnone => by simp [hkey, hnone] at hk
      simp only [a] at ha
      simpa [chkDirAdd_state, hr, ha, hi] using hkey
    obtain ⟨hentry, hothers⟩ := State.replied_entry s h 0x0040 .ok (le 4 i)
      (d := s.addedDir mfr ident version type interval key watch wkey i) (x := addedEntry mfr ident version type interval key watch wkey) rfl
    obtain ⟨hused, hhasKey, hwatch⟩ := addedFlags_bits key watch
    refine ⟨_, dirAdd_enters h mfr ident version type interval key watch wkey s i ht ⟨hl, hw⟩ hstate hi, rfl, rfl, ?_⟩
    rw [hentry]
    exact ⟨rfl, hused, hhasKey, hwatch, rfl, rfl, fun hkey => if_pos hkey, hothers⟩
  · exact ⟨_, dirUpdate_done h index s mask interval flags ht hl hm hm8 hf hi hr hu, rfl⟩
  · exact ⟨_, dirRemove_done h index s ht hl hi hr hu, rfl⟩
  · exact ⟨_, keyLoad_done h index s k ht hl hw hi hr hu hk, rfl⟩
  · exact ⟨_, dirRebuild_queued h s ht hl hr, rfl⟩
  · exact ⟨_, dirQuery_done h first count s ht hl (Nat.le_trans hc (by split <;> decide)), rfl⟩

/-- Settles O27: each command by what it does to the directory, and by the checks that turn it away (R239 to R241). -/
theorem directoryCommands : Obligations.DirectoryCommands := by
  intro h index s i e dirOnly
  refine ⟨fun hi hr hu => ⟨fun mask interval flags ht hl hm hm8 hf => ?_, fun ht hl hn => ?_,
      fun wkey ht hl hw => ⟨fun hk => ?_, fun hk => ?_⟩⟩,
    fun ht hl => ⟨?_, fun hi hr => ?_, fun hi hr hu => ?_⟩, fun first count ht hl hc => ?_, fun ht hl => ⟨?_, fun hr => ?_⟩⟩
  · obtain ⟨hentry, hothers⟩ := State.replied_entry s h 0x0041 .ok [] (s.updatedDir_entries index mask interval flags)
    obtain ⟨hinterval, hwkey, haddr⟩ := DirEntry.update_fields (s.entry index.toNat) mask interval flags
    refine ⟨_, dirUpdate_done h index s mask interval flags ht hl hm hm8 hf hi hr hu, ⟨rfl, hothers⟩, rfl, ?_⟩
    rw [hentry]
    exact ⟨hinterval, DirEntry.update_watch .., DirEntry.update_key .., hwkey, haddr, (DirEntry.update_inUse ..).trans hu⟩
  · refine ⟨_, dirRemove_done h index s ht hl hi hr hu, ⟨rfl, fun j hj => ?_⟩, rfl, ?_, ?_⟩
    · exact (congrArg (fun d : Directory => getT {} d.entries j) (s.removedDir_eq index)).trans (getT_delT_ne _ _ _ _ hj)
    · exact (congrArg (fun d : Directory => getT {} d.entries i) (s.removedDir_eq index)).trans (getT_delT _ _ _ hn)
    · exact congrArg Directory.quarantine (s.removedDir_eq index)
  · exact keyLoad_authFail h index s wkey ht hl hw hi hr hu hk
  · obtain ⟨hentry, hothers⟩ := State.replied_entry s h 0x0044 .ok [] (d := s.keyedDir index wkey) rfl
    exact ⟨_, keyLoad_done h index s wkey ht hl hw hi hr hu hk, ⟨rfl, hothers⟩, rfl, hentry,
      fun k hk => bne_iff_ne.1 (List.mem_filter.1 hk).2⟩
  · exact dirRemove_outOfRange h index s ht hl
  · exact dirRemove_turnedAway h index s .busy ht hl hi (s.indexState_rebuilding i hr)
  · exact dirRemove_turnedAway h index s .notFound ht hl hi (s.indexState_unused i hr hu)
  · exact ⟨_, dirQuery_done h first count s ht hl hc, rfl, rfl⟩
  · exact dirRebuild_busy h s ht hl
  · exact ⟨_, dirRebuild_queued h s ht hl hr, rfl, rfl⟩

end Sys2Proof.Machine

/-! ## A directory rebuild that ends while the event queue is full (R64, R65, R240) -/

namespace Sys2Proof.Machine

/-- A rebuild of the 262,144 entries of 512 MiB, of whose 16 steps 14 are done. -/
def rebuildTag : TagEntry :=
  { tag := 9, opcode := 0x0041, crc := 77, src := .spi, received := 0, long := true, stepAt := 0, done := 14, total := 16 }

/-- An event that waits to be read. -/
def waitingEvent : OutMsg :=
  { kind := .event, opcode := 0x8008, tag := 0, flags := 0, status := 0, payload := evPrefix 0 0 0 0, dst := .spi, recs := [] }

/-- The machine in service with that rebuild in progress, and 256 events that its host has not read. -/
def crowdedRebuild : State :=
  { State.reset with
    links := { ready := true, tags := [rebuildTag], events := List.replicate 256 waitingEvent }
    dir := { dramMib := 512, rebuild := some (9, 14) } }

/-- Step 15 passes 900 thousandths, for which EV_PROGRESS finds no room in the queue and is counted as lost. -/
theorem dirRebuildDone_crowded : ∃ t, exec .dirRebuildDone crowdedRebuild = .next t ∧ t.cnt.eventsLost = 1 :=
  ⟨_, rfl, by decide +kernel⟩

/-- Refutes O28: the statement asks that the end of a rebuild changes the links and the directory alone, and does not ask that the event
queue has room for the EV_PROGRESS of the steps still open; in `crowdedRebuild` the count of lost events advances (R64). -/
theorem not_directoryEvents : ¬ Obligations.DirectoryEvents := by
  intro h
  obtain ⟨-, -, -, -, hrebuild⟩ := h crowdedRebuild
  obtain ⟨t, ht, hframe, -⟩ := hrebuild rebuildTag 14 rfl rfl (by decide +kernel)
  obtain ⟨u, hu, hlost⟩ := dirRebuildDone_crowded
  obtain rfl : t = u := Host.Outcome.next.inj (ht.symm.trans hu)
  have hkept : t.cnt = crowdedRebuild.cnt := by rw [hframe]
  rw [hkept] at hlost
  exact absurd hlost (by decide)

end Sys2Proof.Machine

/-! ## Broadcast data: RDS groups, LF frames and second markers (R272, R276 to R280) -/

namespace Sys2Proof.Machine

/-! ### Fields of a delivered record (R12, R280) -/

@[simp] theorem length_le (n w : Nat) : (le n w).length = n := by
  induction n generalizing w with
  | zero => rfl
  | succ n ih => simp [le, ih]

theorem ofLe_le {n w : Nat} (h : w < 256 ^ n) : ofLe (le n w) = w := by
  induction n generalizing w with
  | zero => rw [Nat.pow_zero, Nat.lt_one_iff] at h; rw [h]; rfl
  | succ n ih =>
    have hdiv : w / 256 < 256 ^ n := Nat.div_lt_of_lt_mul (by rwa [Nat.pow_succ, Nat.mul_comm] at h)
    simp only [le, ofLe, ih hdiv, BitVec.toNat_ofNat]
    omega

theorem fieldAt_le {n w : Nat} (b : Bytes) (h : w < 256 ^ n) : fieldAt 0 n (le n w ++ b) = w := by
  simp [fieldAt, slice, ofLe_le h]

/-- A field behind another is found in what follows that one. -/
theorem fieldAt_skip {ofs k : Nat} (n w : Nat) (b : Bytes) (h : k ≤ ofs) : fieldAt ofs n (le k w ++ b) = fieldAt (ofs - k) n b := by
  have hdrop : (le k w ++ b).drop ofs = b.drop (ofs - k) := by
    rw [List.drop_append, List.drop_eq_nil_of_le (by simpa using h), length_le, List.nil_append]
  simp only [fieldAt, slice, hdrop]

section
variable (t utc freq gen : Nat) (rssi : Int) (payload : Bytes) (seq : U32)

theorem rdsRecord_head {pi event group : Nat} (corrected flags aid : Nat) (hp : pi < 65536) (he : event < 256) (hg : group < 256) :
    let r := rdsRecord t utc pi event group freq corrected gen flags aid rssi payload seq
    fieldAt 20 2 r = pi ∧ fieldAt 22 1 r = event ∧ fieldAt 23 1 r = group := by
  simp [rdsRecord, fieldAt_skip, fieldAt_le, hp, he, hg]

theorem rdsRecord_payload (pi event group corrected flags aid : Nat) :
    (rdsRecord t utc pi event group freq corrected gen flags aid rssi payload seq).drop 48 = payload :=
  List.drop_left' (by simp [leI])

theorem lfRecord_head {slot event : Nat} (errs nbits : Nat) (gap : Bool) (hs : slot < 256) (he : event < 256) :
    let r := lfRecord t utc slot errs event freq nbits gen rssi gap payload seq
    fieldAt 20 1 r = slot ∧ fieldAt 22 1 r = event := by
  simp [lfRecord, fieldAt_skip, fieldAt_le, hs, he]

theorem lfRecord_payload (slot errs event nbits : Nat) (gap : Bool) :
    (lfRecord t utc slot errs event freq nbits gen rssi gap payload seq).drop 48 = payload :=
  List.drop_left' (by simp [leI])

end

/-! ### Records join the delivery queue (R59, R62) -/

/-- Where no endpoint is set, a record that finds room stays at the end of the queue. -/
theorem State.deliver_unplaced (s : State) (mk : U32 → Bytes) (hq : s.dlv.queue.length < 1048576) (he : s.links.endpoint = none) :
    s.deliver mk = s.onDlv fun d =>
      { d with nextSeq := d.nextSeq + 1, queue := d.queue ++ [{ seq := d.nextSeq, bytes := mk d.nextSeq, sent := false }] } := by
  have hroom : ¬ 1048576 ≤ s.dlv.queue.length := by omega
  simp only [State.deliver, if_neg hroom, State.pump, State.onDlv_links, he]
  rfl

theorem State.sendRds_rds (s : State) (g : RdsGroup) (event aid : Nat) (payload : Bytes)
    (hq : s.dlv.queue.length < 1048576) (he : s.links.endpoint = none) : (s.sendRds g event aid payload).bc.rds = s.bc.rds := by
  rw [State.sendRds, State.deliver_unplaced _ _ (by exact hq) (by exact he)]
  rfl

/-- A record of a group carries the PI held, its event and its group code before its payload (R280). -/
theorem State.sendRds_queued (s : State) (g : RdsGroup) {event : Nat} (aid : Nat) (payload : Bytes) {pi : U16} (hpi : s.bc.rds.pi = some pi)
    (hev : event < 256) (hq : s.dlv.queue.length < 1048576) (he : s.links.endpoint = none) :
    (s.sendRds g event aid payload).dlv.nextSeq = s.dlv.nextSeq + 1
    ∧ ∃ r, (s.sendRds g event aid payload).dlv.queue = s.dlv.queue ++ [r]
      ∧ (fieldAt 20 2 r.bytes = pi.toNat ∧ fieldAt 22 1 r.bytes = event ∧ fieldAt 23 1 r.bytes = groupCode g) ∧ r.bytes.drop 48 = payload := by
  have hgroup : groupCode g < 256 := by unfold groupCode; omega
  rw [State.sendRds, State.deliver_unplaced _ _ (by exact hq) (by exact he), hpi]
  exact ⟨rfl, _, rfl, rdsRecord_head _ _ _ _ _ _ _ _ _ _ pi.isLt hev hgroup, rdsRecord_payload ..⟩

/-- A record of an LF frame carries its slot and its event before its payload (R280). -/
theorem State.sendLf_queued (s : State) (f : LfFrame) {event : Nat} (payload : Bytes) (hev : event < 256)
    (hq : s.dlv.queue.length < 1048576) (he : s.links.endpoint = none) :
    (s.sendLf f event payload).dlv.nextSeq = s.dlv.nextSeq + 1
    ∧ ∃ r, (s.sendLf f event payload).dlv.queue = s.dlv.queue ++ [r]
      ∧ (fieldAt 20 1 r.bytes = f.slot.val ∧ fieldAt 22 1 r.bytes = event) ∧ r.bytes.drop 48 = payload := by
  have hslot : f.slot.val < 256 := by omega
  rw [State.sendLf, State.deliver_unplaced _ _ (by exact hq) (by exact he)]
  exact ⟨rfl, _, rfl, lfRecord_head _ _ _ _ _ _ _ _ _ _ hslot hev, lfRecord_payload ..⟩

/-! ### Time samples (R282 to R284) -/

/-- The choice of a source changes the source in use and its mark of a change alone. -/
theorem State.chooseSource_time (s : State) : ∃ i c, s.chooseSource = { s with time := { s.time with inUse := i, changed := c } } := by
  unfold State.chooseSource
  extract_lets pick
  split
  · exact ⟨s.time.inUse, s.time.changed, rfl⟩
  · exact ⟨pick, true, rfl⟩

theorem State.chooseSource_frame (s : State) : s.chooseSource = { s with time := s.chooseSource.time } := by
  obtain ⟨i, c, h⟩ := s.chooseSource_time
  rw [h]

@[simp] theorem State.chooseSource_pendingS (s : State) : s.chooseSource.time.pendingS = s.time.pendingS := by
  obtain ⟨i, c, h⟩ := s.chooseSource_time
  rw [h]

theorem State.sample_frame (s : State) (src d : Nat) (utc : Int) (unc : Nat) :
    s.sample src d utc unc = { s with time := (s.sample src d utc unc).time } := by
  unfold State.sample
  rw [State.chooseSource_frame]
  rfl

@[simp] theorem State.sample_bc (s : State) (src d : Nat) (utc : Int) (unc : Nat) : (s.sample src d utc unc).bc = s.bc := by
  rw [State.sample_frame]
@[simp] theorem State.sample_dlv (s : State) (src d : Nat) (utc : Int) (unc : Nat) : (s.sample src d utc unc).dlv = s.dlv := by
  rw [State.sample_frame]
@[simp] theorem State.sample_pendingS (s : State) (src d : Nat) (utc : Int) (unc : Nat) :
    (s.sample src d utc unc).time.pendingS = s.time.pendingS ++ [(src, d, utc, unc)] := by
  unfold State.sample
  rw [State.chooseSource_pendingS]
  rfl

/-! ### RDS synchronisation (R272) -/

theorem rdsSyncFound_eq (keyed : List Bool) (s : State) (hon : s.rdsOn = true) (hs : s.bc.rds.sync = false) :
    exec (.rdsSyncFound keyed) s = .next (if rdsInOrder (rdsBits keyed) then
      { s with bc := { s.bc with rds := { s.bc.rds with sync := true, recent := [] } } } else s) := by
  show execRdsSyncFound keyed s = _
  simp only [execRdsSyncFound, hon, hs, Bool.not_false, Bool.and_self, Bool.true_and]
  split <;> rfl

theorem rdsSyncLost_eq (s : State) (hs : s.bc.rds.sync = true) :
    exec .rdsSyncLost s = .next (if 10 ≤ (s.bc.rds.recent.filter id).length then
      { s with bc := { s.bc with rds := { s.bc.rds with sync := false } } } else s) := by
  show execRdsSyncLost s = _
  simp only [execRdsSyncLost, hs, Bool.true_and, decide_eq_true_eq]
  split <;> rfl

/-! ### RDS groups (R272) -/

/-- The state on which a group is used: its blocks are marked and its RSSI joins the means (R272, R275). -/
def State.groupMarked (s : State) (g : RdsGroup) : State :=
  s.onBc fun b => { b with
    rds := b.rds.mark g
    af := { b.af with means := (s.dtime, g.rssi) :: b.af.means.filter fun m => decide (s.dtime < m.1 + 15 * sec) } }

/-- Outside the verification of a switch, a group is used at once (R272, R276). -/
theorem rdsGroup_eq (s : State) (x : RdsIn) (hon : s.rdsOn = true) (hs : s.bc.rds.sync = true) (hv : s.bc.af.verify = none) :
    exec (.rdsGroup x) s = .next ((s.groupMarked (s.rdsDecode x)).useGroup (s.rdsDecode x)) := by
  show execRdsGroup x s = _
  simp [execRdsGroup, hon, hs, State.takeGroup, hv, State.groupMarked]

/-- The state on which the PI of a group is held. -/
def State.piHeld (s : State) (g : RdsGroup) : State := s.onBc fun b => { b with rds := { b.rds with pi := some g.b1 } }

theorem State.useGroup_typeless (s : State) (g : RdsGroup) (h1 : g.s1 ≤ 1) (h2 : 2 ≤ g.s2) : s.useGroup g = s.piHeld g := by
  simp [State.useGroup, h1, h2, State.piHeld]

theorem State.useGroup_clock (s : State) (g : RdsGroup) (h1 : g.s1 ≤ 1) (h2 : g.s2 = 0) (hc : groupCode g = 8) :
    s.useGroup g = (s.piHeld g).takeClock g := by
  simp [State.useGroup, h1, h2, hc, State.piHeld]

/-- The record of a clock time is all that a 4A group does beside its time sample (R272, R282). -/
theorem State.takeClock_sends (s : State) (g : RdsGroup) (h3 : g.s3 = 0) (h4 : g.s4 = 0) :
    let sent := s.sendRds g 2 0 (groupBytes g ++ le 8 (clockTime g).toNat)
    (s.takeClock g).bc = sent.bc ∧ (s.takeClock g).dlv = sent.dlv := by
  have hread : ¬ (2 ≤ g.s3 || 2 ≤ g.s4) = true := by simp [h3, h4]
  simp only [State.takeClock, if_neg hread]
  split <;> simp

theorem clockTime_toNat (g : RdsGroup) (h : 40587 ≤ g.b2.toNat % 4 * 32768 + g.b3.toNat / 2) :
    (clockTime g).toNat = ((g.b2.toNat % 4 * 32768 + g.b3.toNat / 2 - 40587) * 86400 + (g.b3.toNat % 2 * 16 + g.b4.toNat / 4096) * 3600
      + g.b4.toNat / 64 % 64 * 60) * 1000000000 := by
  dsimp only [clockTime]
  omega

/-! ### LF frames and second markers (R278, R279) -/

theorem State.lfDecode_data (s : State) (f : LfIn) {x : LfFrame} (ht : s.lfType f.slot.val = 1) (hx : s.lfDecode f = some x) :
    x.slot = f.slot ∧ x.bits.length = s.cfgNat 5 (64 + 64 * f.slot.val + 12) 2 ∧ x.syncErrs ≤ s.cfgNat 5 (64 + 64 * f.slot.val + 6) 1 := by
  simp only [State.lfDecode, ht, beq_self_eq_true, if_true] at hx
  split at hx
  next hfit =>
    obtain rfl := Option.some.inj hx
    simp only [Bool.and_eq_true, beq_iff_eq, decide_eq_true_eq] at hfit
    obtain ⟨hlen, herrs⟩ := hfit
    exact ⟨rfl, by rw [List.length_drop, hlen, Nat.add_sub_cancel_left], herrs⟩
  next => cases hx

theorem lfFrame_data (s : State) (f : LfIn) {x : LfFrame} (hon : s.lfOn f.slot.val = true) (ht : s.lfType f.slot.val = 1)
    (hx : s.lfDecode f = some x) : exec (.lfFrame f) s = .next (s.sendLf x 0 (packMsb x.bits)) := by
  show execLfFrame f s = _
  simp [execLfFrame, hon, hx, ht]

theorem lfFrame_none (s : State) (f : LfIn) (hx : s.lfDecode f = none) : exec (.lfFrame f) s = .next s := by
  show execLfFrame f s = _
  simp [execLfFrame, hx]

@[simp] theorem findT_putT {α : Type} (t : Tab α) (i : Nat) (v : α) : findT (putT t i v) i = some v := by
  induction t with
  | nil => simp [putT, findT]
  | cons e t ih =>
    obtain ⟨k, w⟩ := e
    unfold putT
    split
    · simp [findT]
    · split
      · simp [findT]
      next hk => simp [findT, hk, ih]

theorem lfSecondMarker_eq (at_ : Nat) (s : State) {m utc : Int} {n : Nat} (hon : s.lfOn (s.bc.lfmf.profile - 1) = true)
    (ht : s.lfType (s.bc.lfmf.profile - 1) = 2) (hl : findT s.bc.lfLast (s.bc.lfmf.profile - 1) = some (m, n, utc)) (hn : n < 60) :
    exec (.lfSecondMarker at_) s = .next ((s.onBc fun b =>
      { b with lfLast := putT b.lfLast (s.bc.lfmf.profile - 1) (m, n + 1, utc + 1000000000) }).sample 4 at_ utc 1000000) := by
  show execLfSecondMarker at_ s = _
  simp [execLfSecondMarker, hon, ht, hl, hn]

/-! ### The obligation -/

/-- Settles O42: a case for each row. A 4A group delivers its record from the state that holds its PI, a data frame from the state as it is;
with no endpoint set either record stays at the end of the queue (R59). -/
theorem broadcastData : Obligations.BroadcastData := by
  unfold Obligations.BroadcastData
  intro s
  refine ⟨fun keyed hon hs => ?_, fun hs => ?_, fun x => ?_, fun f => ?_, fun at_ m n utc => ?_⟩
  · rw [rdsSyncFound_eq keyed s hon hs]
    exact ⟨fun h => by rw [if_pos h], fun h => by rw [h]; rfl⟩
  · rw [rdsSyncLost_eq s hs]
    exact ⟨fun h => by rw [if_pos h], fun h => by rw [if_neg (Nat.not_le.2 h)]⟩
  · intro g hon hs hv h1
    rw [rdsGroup_eq s x hon hs hv]
    refine ⟨fun h2 => ⟨_, rfl, ?_⟩, fun h2 h3 h4 hcode hq he => ⟨_, rfl, ?_⟩⟩
    · rw [State.useGroup_typeless _ g h1 h2]
      exact ⟨rfl, rfl⟩
    · rw [State.useGroup_clock _ g h1 h2 hcode]
      let u := (s.groupMarked g).piHeld g
      obtain ⟨hbc, hdlv⟩ := u.takeClock_sends g h3 h4
      obtain ⟨hseq, r, hqueue, ⟨hpi, hevent, hgroup⟩, hpayload⟩ :=
        u.sendRds_queued g (event := 2) 0 (groupBytes g ++ le 8 (clockTime g).toNat) (pi := g.b1) rfl (by decide) hq he
      rw [hbc, hdlv, u.sendRds_rds g 2 0 _ hq he]
      refine ⟨rfl, hseq, r, hqueue, hpi, hevent, hgroup.trans hcode, fun hmjd => ?_⟩
      calc r.bytes.drop 54 = (r.bytes.drop 48).drop 6 := by rw [List.drop_drop]
        _ = le 8 (clockTime g).toNat := by rw [hpayload]; exact List.drop_left' rfl
        _ = _ := by rw [clockTime_toNat g hmjd]
  · intro slot hon ht hq he
    refine ⟨fun x hx => ?_, lfFrame_none s f⟩
    obtain ⟨hslot, hbits, herrs⟩ := s.lfDecode_data f ht hx
    obtain ⟨hseq, r, hqueue, ⟨hfield, hevent⟩, hpayload⟩ := s.sendLf_queued x (event := 0) (packMsb x.bits) (by decide) hq he
    exact ⟨hbits, herrs, _, lfFrame_data s f hon ht hx, hseq, r, hqueue, by rw [hfield, hslot], hevent, hpayload⟩
  · intro slot hon ht hl hn
    refine ⟨_, lfSecondMarker_eq at_ s hon ht hl hn, ?_, ?_, State.sample_pendingS ..⟩
    · rw [State.sample_frame]
      rfl
    · rw [State.sample_bc]
      exact findT_putT ..

end Sys2Proof.Machine

/-! ## The TDM port: its commands, its start and stop, and what befalls the words it sends (R305, R309 to R313) -/

namespace Sys2Proof.Machine

/-! ### The state word of the port and what a report about it leaves (R82, R86, R87) -/

@[simp] theorem Word.move_st (t st : Nat) (w : Word) : (w.move t st).st = st := by
  unfold Word.move
  split
  · next h => exact beq_iff_eq.1 h
  · rfl

theorem State.tdmIs_stopped_true {s : State} (h : s.str.tdm.w.st = 0) : s.tdmIs .stopped = true := beq_iff_eq.2 h
theorem State.tdmIs_stopped_false {s : State} (h : s.str.tdm.w.st ≠ 0) : s.tdmIs .stopped = false := beq_eq_false_iff_ne.2 h
theorem State.tdmIs_running_true {s : State} (h : s.str.tdm.w.st = 1) : s.tdmIs .running = true := beq_iff_eq.2 h

/-- `t` is `s` after a report about the TDM port: of the port only the generation and the management copy of its word may differ, and the
outstanding tags, DTIME and the sets are as they were. -/
structure State.Reported (t s : State) : Prop where
  port : ∃ w : Word, w.st = s.str.tdm.w.st ∧ t.str.tdm = { s.str.tdm with w := w }
  tags : t.links.tags = s.links.tags
  dtime : t.dtime = s.dtime
  cfg : t.cfg = s.cfg

theorem State.Reported.trans {u t s : State} (hu : u.Reported t) (ht : t.Reported s) : u.Reported s := by
  obtain ⟨w, hw, htdm⟩ := ht.port
  obtain ⟨v, hv, hudm⟩ := hu.port
  rw [htdm] at hv hudm
  exact ⟨⟨v, hv.trans hw, hudm⟩, hu.tags.trans ht.tags, hu.dtime.trans ht.dtime, hu.cfg.trans ht.cfg⟩

theorem State.pushEvent_reported (s : State) (code kind gen idx : Nat) (fields : Bytes) :
    (s.pushEvent code kind gen idx fields).Reported s := by
  simp only [State.pushEvent]
  split <;> exact ⟨⟨_, rfl, rfl⟩, rfl, rfl, rfl⟩

theorem State.pushEvent_events_le (s : State) (code kind gen idx : Nat) (fields : Bytes) :
    (s.pushEvent code kind gen idx fields).links.events.length ≤ s.links.events.length + 1 := by
  simp only [State.pushEvent]
  split <;> simp

/-- A word written back with the same STATE is no change of the port. -/
theorem State.setWord_port_reported (s : State) (w : Word) (h : w.st = s.str.tdm.w.st) : (s.setWord 4 4 w).Reported s :=
  ⟨⟨w, h, rfl⟩, rfl, rfl, rfl⟩

/-- The comparison of R87 keeps the port, and raises one event at most. -/
theorem State.audit_port (s : State) :
    (s.audit 4 4).Reported s ∧ (s.audit 4 4).links.events.length ≤ s.links.events.length + 1 := by
  simp only [State.audit, State.wordOf, beq_self_eq_true, if_true]
  split
  · exact ⟨State.setWord_port_reported s _ rfl, Nat.le_succ _⟩
  · split
    · have hpush := State.pushEvent_reported s 0x8008 4 s.str.tdm.w.gen.toNat 4
        (le 2 s.str.tdm.w.bits ++ le 2 (s.str.tdm.w.mgGen.toNat * 256 + s.str.tdm.w.mgSt))
      obtain ⟨v, hv, hport⟩ := hpush.port
      exact ⟨(State.setWord_port_reported _ _ (by rw [hport]; exact hv.symm)).trans hpush, State.pushEvent_events_le ..⟩
    · exact ⟨⟨⟨_, rfl, rfl⟩, rfl, rfl, rfl⟩, Nat.le_succ _⟩

/-- An event about the port keeps it. -/
theorem State.raise_reported (s : State) (code : Nat) (fields : Bytes) : (s.raise code 4 4 fields).Reported s :=
  (State.pushEvent_reported ..).trans s.audit_port.1

/-- An event about the port waits where the queue has room for it and for the one that the comparison may raise first (R64, R87). -/
theorem State.raise_announced (s : State) (code : Nat) (fields : Bytes) (h : s.links.events.length < 255) :
    (s.raise code 4 4 fields).announced code fields :=
  State.pushEvent_announced _ _ _ _ _ _ (by have := s.audit_port.2; omega)

theorem State.streamFault_reported (s : State) (kind : Nat) (ppm : Int) : (s.streamFault 4 kind ppm).Reported s :=
  State.raise_reported ..

theorem State.streamFault_announced (s : State) (kind : Nat) (ppm : Int) (h : s.links.events.length < 255) :
    (s.streamFault 4 kind ppm).announced 0x8006 (le 1 kind ++ le 3 0 ++ leI 4 ppm) := State.raise_announced _ _ _ h

/-- A restart flushes the FIFO and realigns the slots; the word of the port, its counters and its clock stay (R311). -/
@[simp] theorem State.tdmRestart_w (s : State) : s.tdmRestart.str.tdm.w = s.str.tdm.w := rfl
@[simp] theorem State.tdmRestart_slips (s : State) : s.tdmRestart.str.tdm.slips = s.str.tdm.slips := rfl
@[simp] theorem State.tdmRestart_stalled (s : State) : s.tdmRestart.str.tdm.stalled = s.str.tdm.stalled := rfl

/-- A restart of the port leaves the events that wait. -/
theorem State.tdmRestart_announced (s : State) {code : Nat} {fields : Bytes} : s.tdmRestart.announced code fields ↔ s.announced code fields :=
  Iff.rfl

/-! ### The end of a command on the port (R38, R41) -/

/-- The command of `e` is outstanding and its transport is on. -/
def State.owes (s : State) (e : TagEntry) : Prop := s.outstanding e.tag = some e ∧ s.reachable e.src = true

theorem State.owes_congr {t s : State} {e : TagEntry} (htags : t.links.tags = s.links.tags) (hcfg : t.cfg = s.cfg) (h : s.owes e) :
    t.owes e := by
  obtain ⟨ho, hr⟩ := h
  refine ⟨by rwa [State.outstanding, htags], ?_⟩
  cases hsrc : e.src <;> simpa [hsrc, State.reachable, State.spiOn, State.udpOn, State.cfgBit, State.cfgNat, hcfg] using hr

theorem State.Reported.owes {t s : State} {e : TagEntry} (hr : t.Reported s) (h : s.owes e) : t.owes e := State.owes_congr hr.tags hr.cfg h

/-- The tag has ended, and a final reply with the status waits. -/
def State.ends (t : State) (tag : U16) (status : Nat) : Prop :=
  t.outstanding tag = none ∧ ∃ m ∈ t.links.waiting, m.tag = tag ∧ m.status = status

theorem State.finish_ends {s : State} {e : TagEntry} (h : s.owes e) (st : Status) (p : Bytes) :
    (s.finish e.tag st p).ends e.tag st.code := by
  refine ⟨State.finish_outstanding .., ?_⟩
  rw [State.finish_eq s st p h.1 h.2]
  exact ⟨_, List.mem_append_right _ (List.mem_singleton_self _), rfl, rfl⟩

/-- A final reply changes the links, and the count of messages discarded where its transport is off. -/
theorem State.finish_frame (s : State) (tag : U16) (st : Status) (p : Bytes) :
    s.finish tag st p = { s with links := (s.finish tag st p).links, cnt := (s.finish tag st p).cnt } := by
  simp only [State.finish]
  split
  · simp only [State.final, State.post]
    split <;> rfl
  · rfl

@[simp] theorem State.finish_str (s : State) (tag : U16) (st : Status) (p : Bytes) : (s.finish tag st p).str = s.str := by
  rw [State.finish_frame]
@[simp] theorem State.finish_trim (s : State) (tag : U16) (st : Status) (p : Bytes) : (s.finish tag st p).trim = s.trim := by
  rw [State.finish_frame]

/-- Nothing goes on at the port where no command waits. -/
theorem State.serveTdm_nil (s : State) (n : Nat) (h : s.str.tdm.waits = []) : s.serveTdm n = s := by
  cases n <;> simp [State.serveTdm, h]

theorem State.finish_serveTdm (s : State) (tag : U16) (st : Status) (p : Bytes) (n : Nat) (h : s.str.tdm.waits = []) :
    (s.finish tag st p).serveTdm n = s.finish tag st p := State.serveTdm_nil _ n (by rw [State.finish_str, h])

/-- The answer to a command on the port behind which none waits leaves the port and DTIME. -/
theorem State.finish_serveTdm_answers {s : State} {e : TagEntry} (st : Status) (p : Bytes) (ho : s.owes e) (hw : s.str.tdm.waits = []) :
    let t := (s.finish e.tag st p).serveTdm 8
    t.str = s.str ∧ t.ends e.tag st.code ∧ t.dtime = s.dtime := by
  rw [State.finish_serveTdm _ _ _ _ _ hw]
  exact ⟨State.finish_str .., State.finish_ends ho st p, State.finish_dtime ..⟩

/-- A final reply to a command that was held until now leaves the links as if it had been answered at once. -/
theorem Links.held_freed (l : Links) (now : Nat) (h : Hdr) (op : Nat) (long : Bool) (total : Nat)
    (hfree : l.tags.find? (fun t => t.tag == h.tag) = none) : (l.held now h op long total).freed h.tag = l := by
  have hkeep : l.tags.filter (fun x => x.tag != h.tag) = l.tags := List.filter_eq_self.2 fun x hx => by
    simpa using List.find?_eq_none.1 hfree x hx
  simp [Links.freed, Links.held, hkeep]

theorem State.finish_held (s : State) (l : Links) (h : Hdr) (op : Nat) (st : Status) (p : Bytes) (hr : s.reachable h.src = true)
    (hfree : l.tags.find? (fun t => t.tag == h.tag) = none) :
    ({ s with links := l.held s.dtime h op false 1 } : State).finish h.tag st p = { s with links := l.reply s.dtime h op st p } := by
  let e : TagEntry :=
    { tag := h.tag, opcode := op, crc := h.crc, src := h.src, received := s.dtime, long := false, stepAt := s.dtime, done := 0, total := 1 }
  have hheld : ({ s with links := l.held s.dtime h op false 1 } : State).outstanding e.tag = some e :=
    Links.held_find l s.dtime h op false 1 hfree
  refine (State.finish_eq { s with links := l.held s.dtime h op false 1 } st p hheld hr).trans ?_
  show ({ s with links := ((l.held s.dtime h op false 1).freed h.tag).reply s.dtime h op st p } : State) = _
  rw [Links.held_freed l _ h _ _ _ hfree]

/-! ### TDM_START and TDM_STOP are received (R312) -/

/-- The status that turns a command on the port away when its turn comes; none where it begins (R312). -/
def State.tdmVerdict (s : State) (start : Bool) : Option Status :=
  if start then
    if s.tdmIs .stopped then if !groupFrame s.cfg.active || !groupSource s.cfg.active then some .inconsistent else none else some .busy
  else if s.tdmIs .stopped then some .locked else none

/-- The port with a command of `tag` in progress since `now`. -/
def Tdm.begun (x : Tdm) (tag : U16) (now : Nat) (start : Bool) : Tdm :=
  if start then { x with starting := some (tag, now) } else { x with stopping := some tag }

section
variable {s : State} {tag : U16} {start : Bool} (hs : s.str.tdm.starting = none) (hp : s.str.tdm.stopping = none)
  (hw : s.str.tdm.waits = [(tag, start)])
include hs hp hw

/-- The only command that waits is turned away. -/
theorem State.serveTdm_refused {st : Status} (n : Nat) (hv : s.tdmVerdict start = some st) :
    s.serveTdm (n + 1) = (s.onTdm fun x => { x with waits := [] }).finish tag st [] := by
  have hlast : ((s.onTdm fun x => { x with waits := [] }).finish tag st []).serveTdm n = _ := State.finish_serveTdm _ tag st [] n rfl
  cases start with
  | false =>
    obtain ⟨hst, rfl⟩ : s.tdmIs .stopped = true ∧ Status.locked = st := by simpa [State.tdmVerdict] using hv
    simpa [State.serveTdm, hs, hp, hw, hst] using hlast
  | true =>
    cases hst : s.tdmIs .stopped with
    | false =>
      obtain rfl : Status.busy = st := by simpa [State.tdmVerdict, hst] using hv
      simpa [State.serveTdm, hs, hp, hw, hst] using hlast
    | true =>
      obtain ⟨hbad, rfl⟩ : (groupFrame s.cfg.active = false ∨ groupSource s.cfg.active = false) ∧ Status.inconsistent = st := by
        simpa [State.tdmVerdict, hst] using hv
      simpa [State.serveTdm, hs, hp, hw, hst, hbad] using hlast

/-- The only command that waits begins. -/
theorem State.serveTdm_begun (n : Nat) (hv : s.tdmVerdict start = none) :
    s.serveTdm (n + 1) = (s.onTdm fun x => { x with waits := [] }).onTdm fun x => x.begun tag s.dtime start := by
  cases start with
  | false =>
    have hst : s.tdmIs .stopped = false := by simpa [State.tdmVerdict] using hv
    simp [State.serveTdm, hs, hp, hw, hst, Tdm.begun]
  | true =>
    cases hst : s.tdmIs .stopped with
    | false => simp [State.tdmVerdict, hst] at hv
    | true =>
      obtain ⟨hframe, hsource⟩ : groupFrame s.cfg.active = true ∧ groupSource s.cfg.active = true := by
        simpa [State.tdmVerdict, hst] using hv
      simp [State.serveTdm, hs, hp, hw, hst, hframe, hsource, Tdm.begun]

end

/-- The machine with a command on the port just received: it is held, and none waits before it (R41). -/
def State.tdmWaiting (s : State) (h : Hdr) (op : Nat) (start : Bool) : State :=
  { s with links := (s.accepted h op).held s.dtime h op false 1
           str := { s.str with tdm := { s.str.tdm with waits := [(h.tag, start)] } } }

section
variable {s : State} {h : Hdr} {op : Nat} {start : Bool} (ht : s.takes h op = true) (hl : h.len = 0)
  (hi : s.str.tdm.waits = [] ∧ s.str.tdm.starting = none ∧ s.str.tdm.stopping = none)
include hi

theorem State.tdmWaiting_served : (s.tdmWaiting h op start).onTdm (fun x => { x with waits := [] })
    = { s with links := (s.accepted h op).held s.dtime h op false 1 } := by
  rw [← hi.1]
  rfl

include ht hl

theorem State.tdmCommand_waits : s.tdmCommand h op start = (s.tdmWaiting h op start).serveTdm 8 := by
  have happend : s.str.tdm.waits ++ [(h.tag, start)] = [(h.tag, start)] := by rw [hi.1, List.nil_append]
  rw [State.tdmWaiting, ← happend, State.tdmCommand, host_takes s h op _ _ ht (fun _ => rfl) (by simp [hl]) rfl]
  rfl

/-- A command that finds the port as it must not is answered at once, and nothing but the links changes. -/
theorem State.tdmCommand_refused {st : Status} (hv : s.tdmVerdict start = some st) :
    s.tdmCommand h op start = { s with links := (s.accepted h op).reply s.dtime h op st [] } := by
  obtain ⟨hreach, hfree⟩ := State.takes_free ht
  have ⟨_, hs, hp⟩ := hi
  rw [State.tdmCommand_waits ht hl hi, State.serveTdm_refused (s := s.tdmWaiting h op start) hs hp rfl 7 hv, State.tdmWaiting_served hi]
  exact State.finish_held s (s.accepted h op) h op st [] hreach hfree

/-- A command that finds the port as it must is in progress. -/
theorem State.tdmCommand_begun (hv : s.tdmVerdict start = none) :
    s.tdmCommand h op start = { s with links := (s.accepted h op).held s.dtime h op false 1
                                       str := { s.str with tdm := s.str.tdm.begun h.tag s.dtime start } } := by
  have ⟨_, hs, hp⟩ := hi
  rw [State.tdmCommand_waits ht hl hi, State.serveTdm_begun (s := s.tdmWaiting h op start) hs hp rfl 7 hv, State.tdmWaiting_served hi]
  rfl

end

section
variable {s : State} {h : Hdr} (ht : s.takes h 0x0072 = true) (hl : h.len = 0)
  (hi : s.str.tdm.waits = [] ∧ s.str.tdm.starting = none ∧ s.str.tdm.stopping = none)
include ht hl hi

theorem tdmStart_begins (hst : s.str.tdm.w.st = 0) (hf : groupFrame s.cfg.active = true) (hg : groupSource s.cfg.active = true) :
    exec (.tdmStart h) s = .next { s with links := (s.accepted h 0x0072).held s.dtime h 0x0072 false 1
                                          str := { s.str with tdm := { s.str.tdm with starting := some (h.tag, s.dtime) } } } := by
  have hv : s.tdmVerdict true = none := by simp [State.tdmVerdict, State.tdmIs_stopped_true hst, hf, hg]
  exact congrArg Host.Outcome.next (State.tdmCommand_begun ht hl hi hv)

theorem tdmStart_inconsistent (hst : s.str.tdm.w.st = 0) (hf : groupFrame s.cfg.active = false) :
    exec (.tdmStart h) s = .next { s with links := (s.accepted h 0x0072).reply s.dtime h 0x0072 .inconsistent [] } := by
  have hv : s.tdmVerdict true = some .inconsistent := by simp [State.tdmVerdict, State.tdmIs_stopped_true hst, hf]
  exact congrArg Host.Outcome.next (State.tdmCommand_refused ht hl hi hv)

theorem tdmStart_busy (hst : s.str.tdm.w.st ≠ 0) :
    exec (.tdmStart h) s = .next { s with links := (s.accepted h 0x0072).reply s.dtime h 0x0072 .busy [] } := by
  have hv : s.tdmVerdict true = some .busy := by simp [State.tdmVerdict, State.tdmIs_stopped_false hst]
  exact congrArg Host.Outcome.next (State.tdmCommand_refused ht hl hi hv)

end

section
variable {s : State} {h : Hdr} (ht : s.takes h 0x0073 = true) (hl : h.len = 0)
  (hi : s.str.tdm.waits = [] ∧ s.str.tdm.starting = none ∧ s.str.tdm.stopping = none)
include ht hl hi

theorem tdmStop_locked (hst : s.str.tdm.w.st = 0) :
    exec (.tdmStop h) s = .next { s with links := (s.accepted h 0x0073).reply s.dtime h 0x0073 .locked [] } := by
  have hv : s.tdmVerdict false = some .locked := by simp [State.tdmVerdict, State.tdmIs_stopped_true hst]
  exact congrArg Host.Outcome.next (State.tdmCommand_refused ht hl hi hv)

theorem tdmStop_begins (hst : s.str.tdm.w.st ≠ 0) :
    exec (.tdmStop h) s = .next { s with links := (s.accepted h 0x0073).held s.dtime h 0x0073 false 1
                                         str := { s.str with tdm := { s.str.tdm with stopping := some h.tag } } } := by
  have hv : s.tdmVerdict false = none := by simp [State.tdmVerdict, State.tdmIs_stopped_false hst]
  exact congrArg Host.Outcome.next (State.tdmCommand_begun ht hl hi hv)

end

/-! ### The first frame sync, the failed measurement and the missing edges (R305, R312) -/

/-- The port at its first frame sync, for a frame length and a rate error. -/
def Tdm.synced (lf : Nat) (ppm : Int) (x : Tdm) : Tdm :=
  { x.clear with starting := none, silence := .start, lf := lf, ratePpm := ppm, stalled := false, fsLog := [] }

/-- The first frame sync: the port runs from here, and its word is compared (R86, R87). -/
def State.firstSync (s : State) (lf : Nat) (ppm : Int) : State := ((s.moveTdm .running).onTdm (Tdm.synced lf ppm)).audit 4 4

/-- A start found no edges by its limit: the port gives it up, and the console says so (R36, R58). -/
def State.startFell (s : State) (limit : Nat) : State :=
  ((s.at limit).onTdm fun x => { x with starting := none }).fallLine "TDM start"

theorem State.startFell_tdm (s : State) (limit : Nat) : (s.startFell limit).str.tdm = { s.str.tdm with starting := none } := by
  rw [State.startFell, State.fallLine, State.console_frame]
  simp [State.onTdm]

theorem State.startFell_due {s : State} (limit : Nat) (h : s.clk.stopped = false) : limit ≤ (s.startFell limit).dtime := by
  rw [State.startFell, State.fallLine_dtime]
  exact State.due_le_at_dtime s limit h

theorem State.console_tags (s : State) (x : String) : (s.console x).links.tags = s.links.tags := by
  simp only [State.console]
  split <;> rfl

theorem State.startFell_owes {s : State} {e : TagEntry} (limit : Nat) (h : s.owes e) : (s.startFell limit).owes e := by
  refine State.owes_congr ?_ ?_ h
  · rw [State.startFell, State.fallLine, State.console_tags]
    exact congrArg Links.tags (State.at_links s limit)
  · rw [State.startFell, State.fallLine_cfg]
    exact State.at_cfg s limit

/-- Four equal frames of a length and a rate within the limits make a good measurement. -/
theorem slaveGood_equal {set : List Host.Cell} {lf span : Nat} (hlo : 32 * tdmSlots set ≤ lf) (hhi : lf ≤ 512)
    (hppm : (framePpm set 4 span).natAbs ≤ 20000) : slaveGood set [lf, lf, lf, lf] span = true := by
  simp [slaveGood, inR, hlo, hhi, hppm]

section
variable {s : State} {tag : U16} {t0 : Nat} (hs : s.str.tdm.starting = some (tag, t0))
include hs

/-- The frames of a master begin with a stroke. -/
theorem tdmStartFrameSync_master (hm : tdmSlave s.cfg.active = false) (lens : List Nat) (span : Nat) :
    let u := s.at ((t0 / strokeLen + 1) * strokeLen)
    exec (.tdmStartFrameSync lens span) s = .next (((u.firstSync 512 0).finish tag .ok (le 8 u.dtime)).serveTdm 8) := by
  show execTdmStartFrameSync lens span s = _
  simp only [execTdmStartFrameSync, hs, hm, Bool.false_and, Bool.false_eq_true, if_false]
  rfl

/-- A slave takes the length and the rate of the frames it measured. -/
theorem tdmStartFrameSync_slave (hsl : tdmSlave s.cfg.active = true) {lf span : Nat} (hlo : 32 * tdmSlots s.cfg.active ≤ lf) (hhi : lf ≤ 512)
    (hppm : (framePpm s.cfg.active 4 span).natAbs ≤ 20000) :
    exec (.tdmStartFrameSync [lf, lf, lf, lf] span) s
      = .next (((s.firstSync lf (framePpm s.cfg.active 4 span)).finish tag .ok (le 8 s.dtime)).serveTdm 8) := by
  show execTdmStartFrameSync [lf, lf, lf, lf] span s = _
  simp only [execTdmStartFrameSync, hs, hsl, slaveGood_equal hlo hhi hppm, Bool.not_true, Bool.and_false, Bool.false_eq_true, if_false, if_true]
  rfl

theorem tdmStartFrameSync_unmeasured (hsl : tdmSlave s.cfg.active = true) (lens : List Nat) (span : Nat)
    (hbad : slaveGood s.cfg.active lens span = false) :
    exec (.tdmStartFrameSync lens span) s
      = .next (((s.onTdm fun x => { x with starting := none }).finish tag .hwFault []).serveTdm 8) := by
  show execTdmStartFrameSync lens span s = _
  simp only [execTdmStartFrameSync, hs, hsl, hbad, Bool.not_false, Bool.and_true, if_true]

theorem tdmStartTimeout_eq (hsl : tdmSlave s.cfg.active = true) :
    exec .tdmStartTimeout s = .next (((s.startFell (t0 + 384000)).finish tag .timeout []).serveTdm 8) := by
  show execTdmStartTimeout s = _
  simp only [execTdmStartTimeout, hs, hsl, if_true]
  rfl

end

/-- What the port is after its first frame sync. -/
def Tdm.Started (x : Tdm) (lf : Nat) (ppm : Int) : Prop :=
  x.w.st = 1 ∧ x.starting = none ∧ x.silence = .start ∧ x.lf = lf ∧ x.ratePpm = ppm ∧ x.fifo = [] ∧ x.skew = 0

/-- A first frame sync starts the port and ends TDM_START with OK at the present DTIME. -/
theorem State.firstSync_answers {s : State} {e : TagEntry} (lf : Nat) (ppm : Int) (p : Bytes) (ho : s.owes e) (hw : s.str.tdm.waits = []) :
    let t := ((s.firstSync lf ppm).finish e.tag .ok p).serveTdm 8
    t.str.tdm.Started lf ppm ∧ t.ends e.tag 0 ∧ t.dtime = s.dtime := by
  have hr : (s.firstSync lf ppm).Reported ((s.moveTdm .running).onTdm (Tdm.synced lf ppm)) := (State.audit_port _).1
  obtain ⟨w, hst, hport⟩ := hr.port
  have hrun : w.st = 1 := hst.trans (Word.move_st ..)
  obtain ⟨hstr, hends, htime⟩ := State.finish_serveTdm_answers .ok p (hr.owes ho) ((congrArg Tdm.waits hport).trans hw)
  refine ⟨?_, hends, htime.trans hr.dtime⟩
  rw [hstr, hport]
  exact ⟨hrun, rfl, rfl, rfl, rfl, rfl, rfl⟩

/-! ### The end of a stop (R312, R418) -/

/-- The port once it is stopped, but for its word. -/
def Tdm.halted (x : Tdm) : Tdm := { x.clear with stopping := none, silence := .none, stalled := false }

def State.stopTdm (s : State) : State := (s.moveTdm .stopped).onTdm Tdm.halted

theorem State.stopTdm_st (s : State) : s.stopTdm.str.tdm.w.st = 0 := Word.move_st ..

theorem State.audioDue_unmarked {s : State} (h : s.trim.marked = []) : s.audioDue = s := by
  simp [State.audioDue, h]

theorem tdmStopEnd_eq {s : State} {tag : U16} (hp : s.str.tdm.stopping = some tag) (hw : s.str.tdm.waits = []) (hm : s.trim.marked = []) :
    exec .tdmStopEnd s = .next (s.stopTdm.finish tag .ok []) := by
  have hdue : (s.stopTdm.finish tag .ok []).audioDue = s.stopTdm.finish tag .ok [] :=
    State.audioDue_unmarked (by rw [State.finish_trim]; exact hm)
  have hserve : (s.stopTdm.finish tag .ok []).serveTdm 8 = s.stopTdm.finish tag .ok [] := State.finish_serveTdm _ _ _ _ _ hw
  show execTdmStopEnd s = _
  simp only [execTdmStopEnd, hp]
  exact congrArg Host.Outcome.next ((congrArg (State.serveTdm · 8) hdue).trans hserve)

/-! ### Underrun, overflow, slips and restarts (R310, R311) -/

/-- The port at a slip, which the event announces with the restart that follows it or not (R310). -/
def State.slipped (s : State) : State :=
  ((s.moveTdm .slipped).onTdm fun x => { x with slips := x.slips + 1 }).raise 0x8005 4 4 (le 1 (b2n (s.cfgBit 7 0 5)) ++ le 3 0)

theorem State.slipped_announced {s : State} (h : s.links.events.length < 255) :
    s.slipped.announced 0x8005 (le 1 (b2n (s.cfgBit 7 0 5)) ++ le 3 0) := State.raise_announced _ _ _ h

/-- A slip moves the word and is counted; the slots stay displaced and words flow on. -/
theorem State.slipped_port (s : State) :
    s.slipped.str.tdm.w.st = 2 ∧ s.slipped.str.tdm.slips = s.str.tdm.slips + 1 ∧ s.slipped.str.tdm.silence = s.str.tdm.silence
      ∧ s.slipped.str.tdm.skew = s.str.tdm.skew := by
  obtain ⟨w, hst, hport⟩ := (State.raise_reported ((s.moveTdm .slipped).onTdm fun x => { x with slips := x.slips + 1 }) 0x8005
    (le 1 (b2n (s.cfgBit 7 0 5)) ++ le 3 0)).port
  rw [show s.slipped.str.tdm = _ from hport]
  exact ⟨hst.trans (Word.move_st ..), rfl, rfl, rfl⟩

section
variable {s : State} (hst : s.str.tdm.w.st = 1) (hk : s.str.tdm.skew ≠ 0) (hq : s.str.tdm.silence = .none) (hc : s.str.tdm.stalled = false)
include hst hk hq hc

theorem slotSlip_restarts (hauto : s.cfgBit 7 0 5 = true) : exec .slotSlip s = .next s.slipped.tdmRestart := by
  show execSlotSlip s = _
  simp [execSlotSlip, State.tdmIs_running_true hst, hk, hq, hc, hauto, State.slipped]

theorem slotSlip_goesOn (hauto : s.cfgBit 7 0 5 = false) : exec .slotSlip s = .next s.slipped := by
  show execSlotSlip s = _
  simp [execSlotSlip, State.tdmIs_running_true hst, hk, hq, hc, hauto, State.slipped]

end

section
variable {s : State} (hst : s.str.tdm.w.st ≠ 0) (hq : s.str.tdm.silence = .none)
include hst hq

theorem tdmUnderrun_empty (hc : s.str.tdm.stalled = false) (hp : s.str.tdm.stopping = none) (hf : s.str.tdm.fifo = [])
    (hn : tdmWords s.cfg.active ≠ 0) : exec .tdmUnderrun s = .next (s.onTdm fun x =>
      { x with underrun := x.underrun + 1, missing := x.missing + 1, skew := (x.skew + 1) % tdmWords s.cfg.active }) := by
  show execTdmUnderrun s = _
  simp [execTdmUnderrun, State.tdmFlows, State.tdmIs_stopped_false hst, hq, hc, hp, hf, hn]

theorem tdmOverflow_full (hl : s.tdmLevel = 64) :
    exec .tdmOverflow s = .next (s.onTdm fun x => { x with overflow := x.overflow + 1, excess := x.excess + 1 }) := by
  show execTdmOverflow s = _
  simp [execTdmOverflow, State.tdmIs_stopped_false hst, hq, hl]

end

theorem tdmUnderrun_filled {s : State} (hf : s.str.tdm.fifo ≠ []) : exec .tdmUnderrun s = .next s := by
  show execTdmUnderrun s = _
  simp [execTdmUnderrun, hf]

theorem tdmOverflow_room {s : State} (hl : s.tdmLevel ≠ 64) : exec .tdmOverflow s = .next s := by
  show execTdmOverflow s = _
  simp [execTdmOverflow, hl]

/-- The FIFO is filled to the target level of 32 frames. -/
theorem Tdm.newest_length (words : Nat) (x : Tdm) : (x.newest words).length = 32 * words := by
  simp only [Tdm.newest, List.length_append, List.length_replicate, List.length_drop]
  omega

/-- The words kept are the newest of the FIFO: all of them behind silent ones, or its end. -/
theorem Tdm.newest_suffix (words : Nat) (x : Tdm) : x.fifo <:+ x.newest words ∨ x.newest words <:+ x.fifo := by
  rcases Nat.le_total x.fifo.length (32 * words) with h | h
  · left
    rw [Tdm.newest, Nat.sub_eq_zero_of_le h, List.drop_zero]
    exact List.suffix_append ..
  · right
    rw [Tdm.newest, Nat.sub_eq_zero_of_le h, List.replicate_zero, List.nil_append]
    exact List.drop_suffix ..

/-- The port with data at the target level. -/
def Tdm.resumed (words : Nat) (x : Tdm) : Tdm := { x with silence := .none, fifo := x.newest words }

section
variable {s : State} (hst : s.str.tdm.w.st ≠ 0) (hc : s.str.tdm.stalled = false)
include hst hc

theorem tdmRestartEnd_start (hq : s.str.tdm.silence = .start) :
    exec .tdmRestartEnd s = .next (s.onTdm (Tdm.resumed (tdmWords s.cfg.active))) := by
  show execTdmRestartEnd s = _
  simp only [execTdmRestartEnd, State.tdmIs_stopped_false hst, hc, hq, Bool.or_self, Bool.false_eq_true, if_false]
  rfl

theorem tdmRestartEnd_restart (hq : s.str.tdm.silence = .restart) :
    exec .tdmRestartEnd s
      = .next ((s.moveTdm .running).onTdm fun x => { x.resumed (tdmWords s.cfg.active) with restarts := x.restarts + 1 }) := by
  show execTdmRestartEnd s = _
  simp only [execTdmRestartEnd, State.tdmIs_stopped_false hst, hc, hq, Bool.or_self, Bool.false_eq_true, if_false]
  rfl

end

/-! ### Faults of a slave (R313) -/

section
variable {s : State} (hsl : tdmSlave s.cfg.active = true) (hst : s.str.tdm.w.st ≠ 0)
include hst

theorem tdmSlaveStallEnd_eq (hc : s.str.tdm.stalled = true) : exec .tdmSlaveStallEnd s
    = .next (((s.onTdm fun x => { x with stalled := false }).streamFault 4 1 s.str.tdm.ratePpm).tdmRestart) := by
  show execTdmSlaveStallEnd s = _
  simp [execTdmSlaveStallEnd, State.tdmIs_stopped_false hst, hc]

include hsl

theorem tdmSlaveStall_eq (hc : s.str.tdm.stalled = false) : exec .tdmSlaveStall s
    = .next ((s.onTdm fun x => { x with stalled := true }).streamFault 4 0 s.str.tdm.ratePpm) := by
  show execTdmSlaveStall s = _
  simp [execTdmSlaveStall, hsl, State.tdmIs_stopped_false hst, hc]

/-- A sync out of place displaces the slots by the words it left unsent or sent twice. -/
theorem tdmFrameError_displaces (hc : s.str.tdm.stalled = false) (hq : s.str.tdm.silence = .none) (hn : tdmWords s.cfg.active ≠ 0) (n : Nat) :
    exec (.tdmFrameError false n) s
      = .next (s.onTdm fun x => { x with fsErrors := x.fsErrors + 1, skew := (x.skew + n) % tdmWords s.cfg.active }) := by
  show execTdmFrameError false n s = _
  simp [execTdmFrameError, State.onTdm, hsl, State.tdmIs_stopped_false hst, hc, hq, hn]

theorem tdmRateFault_stops (hp : s.str.tdm.stopping = none) (hw : s.str.tdm.waits = [])
    (hfar : 20000 < s.str.tdm.ratePpm ∨ s.str.tdm.ratePpm < -20000) :
    exec .tdmRateFault s = .next (s.stopTdm.streamFault 4 2 s.str.tdm.ratePpm) := by
  have habs : 20000 < s.str.tdm.ratePpm.natAbs := by omega
  obtain ⟨w, -, hport⟩ := (s.stopTdm.streamFault_reported 2 s.str.tdm.ratePpm).port
  show execTdmRateFault s = _
  simp only [execTdmRateFault, hsl, State.tdmIs_stopped_false hst, habs, hp, decide_true, Bool.not_false, Bool.and_self, if_true]
  exact congrArg Host.Outcome.next (State.serveTdm_nil _ 8 ((congrArg Tdm.waits hport).trans hw))

end

theorem tdmRateFault_within {s : State} (hlo : -20000 ≤ s.str.tdm.ratePpm) (hhi : s.str.tdm.ratePpm ≤ 20000) :
    exec .tdmRateFault s = .next s := by
  have habs : ¬ 20000 < s.str.tdm.ratePpm.natAbs := by omega
  show execTdmRateFault s = _
  simp [execTdmRateFault, habs]

/-! ### The obligation -/

/-- Settles O46: a case for each row, the commands by their verdict, the events about the port by what a report leaves of it. -/
theorem tdmPort : Obligations.TdmPort := by
  intro h e s x idle owed ended only
  refine ⟨fun ht hl hi => ⟨fun hst hf hg => ?_, fun hst hf => ?_, fun hst => ?_⟩, fun ht hl hi => ⟨fun hst => ?_, fun hst => ?_⟩,
    fun t0 hs hw ho _ => ⟨fun hm lens span => ?_, fun hsl => ⟨fun lens span hbad => ?_, fun lf span hlo hhi hppm => ?_, ?_⟩⟩,
    fun hst hk hq hc hev => ?_, fun hst hq hc hp => ⟨fun hf hn => ?_, fun hf => ?_, fun hf => ?_, fun hf => ?_⟩,
    fun hst hc => ⟨fun hq => ?_, fun hq => ?_⟩, fun hp hw _ ho hm => ?_,
    fun hsl hst hev => ⟨fun hc => ?_, fun hc => ?_, fun hc hq hn n => ?_, fun hp hw => ⟨fun hfar => ?_, fun hlo hhi => ?_⟩⟩⟩
  · exact ⟨_, tdmStart_begins ht hl hi hst hf hg, rfl, rfl⟩
  · exact ⟨_, tdmStart_inconsistent ht hl hi hst hf, rfl, rfl⟩
  · exact ⟨_, tdmStart_busy ht hl hi hst, rfl, rfl⟩
  · exact ⟨_, tdmStop_locked ht hl hi hst, rfl, rfl⟩
  · exact ⟨_, tdmStop_begins ht hl hi hst, rfl, rfl⟩
  · have hu : (s.at ((t0 / strokeLen + 1) * strokeLen)).owes e := State.owes_congr (by rw [State.at_links]) (State.at_cfg ..) ho
    obtain ⟨⟨hrun, hstart, hsil, hlf, -, hfifo, hskew⟩, hends, htime⟩ :=
      State.firstSync_answers 512 0 (le 8 (s.at ((t0 / strokeLen + 1) * strokeLen)).dtime) hu (by rw [State.at_str]; exact hw)
    refine ⟨_, tdmStartFrameSync_master hs hm lens span, hrun, hstart, hsil, hlf, hfifo, hskew, hends, fun hgo => ?_⟩
    rw [htime, Nat.mul_comm]
    exact State.due_le_at_dtime s _ hgo
  · let u := s.onTdm fun x => { x with starting := none }
    obtain ⟨hstr, hends, -⟩ := State.finish_serveTdm_answers (s := u) .hwFault [] (State.owes_congr (s := s) rfl rfl ho) hw
    exact ⟨_, tdmStartFrameSync_unmeasured hs hsl lens span hbad, congrArg Streams.tdm hstr, hends⟩
  · obtain ⟨⟨hrun, hstart, hsil, hlf, hrate, hfifo, -⟩, hends, htime⟩ :=
      State.firstSync_answers lf (framePpm s.cfg.active 4 span) (le 8 s.dtime) ho hw
    exact ⟨_, tdmStartFrameSync_slave hs hsl hlo hhi hppm, hrun, hstart, hsil, hlf, hrate, hfifo, htime, hends⟩
  · obtain ⟨hstr, hends, htime⟩ :=
      State.finish_serveTdm_answers .timeout [] (State.startFell_owes (t0 + 384000) ho) (by rw [State.startFell_tdm]; exact hw)
    refine ⟨_, tdmStartTimeout_eq hs hsl, ?_, hends, fun hgo => ?_⟩
    · rw [hstr, State.startFell_tdm]
    · rw [htime]
      exact State.startFell_due _ hgo
  · obtain ⟨hst2, hslips, hsil, hskew⟩ := s.slipped_port
    have hann := State.slipped_announced hev
    cases hauto : s.cfgBit 7 0 5 with
    | false =>
      rw [hauto] at hann
      exact ⟨_, slotSlip_goesOn hst hk hq hc hauto, hst2, hslips, hann, nofun, fun _ => ⟨hsil.trans hq, hskew⟩⟩
    | true =>
      rw [hauto] at hann
      rw [← State.tdmRestart_w] at hst2
      rw [← State.tdmRestart_slips] at hslips
      exact ⟨_, slotSlip_restarts hst hk hq hc hauto, hst2, hslips, s.slipped.tdmRestart_announced.2 hann, fun _ => ⟨rfl, rfl, rfl⟩, nofun⟩
  · exact ⟨_, tdmUnderrun_empty hst hq hc hp hf hn, rfl, rfl⟩
  · exact tdmUnderrun_filled hf
  · exact ⟨_, tdmOverflow_full hst hq hf, rfl, rfl⟩
  · exact tdmOverflow_room hf
  · exact ⟨_, tdmRestartEnd_start hst hc hq, rfl, ⟨rfl, Tdm.newest_length .., Tdm.newest_suffix ..⟩, rfl⟩
  · exact ⟨_, tdmRestartEnd_restart hst hc hq, rfl, Word.move_st ..,
      ⟨rfl, Tdm.newest_length .., Tdm.newest_suffix (x := x) ..⟩, rfl⟩
  · have hu : s.stopTdm.owes e := State.owes_congr (s := s) rfl rfl ho
    refine ⟨_, tdmStopEnd_eq hp hw hm, ?_, ?_, ?_, State.finish_ends hu .ok []⟩ <;> rw [State.finish_str]
    · exact s.stopTdm_st
    · rfl
    · rfl
  · let u := s.onTdm fun x => { x with stalled := true }
    obtain ⟨w, -, hport⟩ := (u.streamFault_reported 0 x.ratePpm).port
    exact ⟨_, tdmSlaveStall_eq hsl hst hc, congrArg Tdm.stalled hport, u.streamFault_announced 0 _ hev⟩
  · let u := s.onTdm fun x => { x with stalled := false }
    obtain ⟨w, -, hport⟩ := (u.streamFault_reported 1 x.ratePpm).port
    have hflow : (u.streamFault 4 1 x.ratePpm).tdmRestart.str.tdm.stalled = false :=
      (State.tdmRestart_stalled _).trans (congrArg Tdm.stalled hport)
    exact ⟨_, tdmSlaveStallEnd_eq hst hc, hflow, rfl, (State.tdmRestart_announced _).2 (u.streamFault_announced 1 _ hev)⟩
  · exact ⟨_, tdmFrameError_displaces hsl hst hc hq hn n, rfl, rfl⟩
  · obtain ⟨w, h0, hport⟩ := (s.stopTdm.streamFault_reported 2 x.ratePpm).port
    have hst0 : (s.stopTdm.streamFault 4 2 x.ratePpm).str.tdm.w.st = 0 :=
      (congrArg (fun y : Tdm => y.w.st) hport).trans (h0.trans s.stopTdm_st)
    exact ⟨_, tdmRateFault_stops hsl hst hp hw hfar, hst0, s.stopTdm.streamFault_announced 2 _ hev⟩
  · exact tdmRateFault_within hlo hhi

end Sys2Proof.Machine
